-- ==== Sys2Proof/Word.lean ====
section
/-! DEFINITION. The word types of the DRD1-64L: bytes, 32-bit and 64-bit words, the 512-bit control word and command. -/

namespace Sys2Proof

/-- One byte; every memory of the module is byte addressed and little-endian (00:R12). -/
abbrev Byte := BitVec 8
/-- A 32-bit word. -/
abbrev Word32 := BitVec 32
/-- A 64-bit word, the width of a BAR0 register. -/
abbrev Word64 := BitVec 64
/-- A control word (03:R62) or a 64-byte command, record or entry (18:R381). -/
abbrev Word512 := BitVec 512

end Sys2Proof
end

