-- ==== Sys2Proof/Syntax.lean ====
section
/-! DEFINITION. The commands of the DRD1-64L: one constructor per row of spec/opcode_table.json, with the row's operands. -/

namespace Sys2Proof

/-- Who carries an SPDM request (21:R436). -/
inductive Transport where
  /-- MCTP over I3C on J17 -/
  | i3c
  /-- MCTP over PCIe VDM -/
  | vdm
  /-- the ATTEST command of a host ring -/
  | ring
  deriving DecidableEq, Repr

/-- An MCTP path on which a grant message arrives (19:R395). -/
inductive GrantPath where
  | i3c
  | vdm
  deriving DecidableEq, Repr

/-- The unit of an idle state of Table 19-9. -/
inductive IdleUnit where
  | linkQuiet (l : Fin 48)
  | matrixGated (d : Fin 16)
  | vectorGated (d : Fin 16)
  | dieRetention (d : Fin 16)
  | stackRetention (s : Fin 16)
  | stackOff (s : Fin 16)
  | dieOff (d : Fin 16)
  | linkSleep (l : Fin 48)
  | standby
  deriving DecidableEq, Repr

/-- An agent of a die that reads tiles, bursts or translations (01 Table 1-2, 14 Table 14-6). -/
inductive Agent where
  | core (c : Fin 32)
  | helm
  | loader
  | xfer (k : Nat)
  | gme (cl : Fin 4)
  | puu (cl : Fin 4)
  | walk
  | small (k : Nat)
  | reduction (g : Fin 256)
  | hostDma
  | waypoint
  deriving DecidableEq, Repr

/-- A device agent whose host-memory request ended in error (18 Table 18-15). -/
inductive Requester where
  | submissionFetch (q : Fin 64)
  | consumerWrite (r : Fin 130)
  | command (q : Fin 64) (tag : BitVec 16)
  | dieDma (d : Fin 16) (xfer : Nat)
  | dieAgent (d : Fin 16) (a : Agent)
  | waypoint (ctx : BitVec 16)
  | msix (v : Fin 256)
  deriving DecidableEq, Repr

/-- What the via test finds on one channel: the dead ones of its 70 vias, 68 and 69 being the spares (13:R280). -/
structure ViaResult where
  stack : Fin 16
  chan : Fin 256
  dead : List (Fin 70)
  deriving DecidableEq, Repr, Inhabited

/-- What a start-up finds, all of it outside the state (23 Table 23-1). -/
structure StartUp where
  /-- the bank's images verify in the boot ROM (21:R441) -/
  bankOk : Bool × Bool
  /-- the built-in Vernier store differs from its digest after the second read -/
  vstoreBad : Bool
  pwrFail : BitVec 16
  /-- channels with a dead via; the others have none -/
  vias : List ViaResult
  /-- cores that fail the self-test -/
  coreFail : List (Fin 16 × Fin 32)
  /-- die-level units that fail, by die and engine identifier (01 Table 1-2) -/
  unitFail : List (Fin 16 × BitVec 8)
  mcastFail : BitVec 16
  hubKeyBad : Bool
  manifestBad : Bool
  /-- dies that fail the identity check, bit k for die k -/
  idFail : BitVec 100
  /-- the hold-up bank stores at least 60 J usable (24:R479) -/
  holdupOk : Bool
  /-- power dies of which a regulator phase is found not to work (19:R407) -/
  phaseBad : BitVec 16
  /-- start-up time in ms -/
  elapsed : Nat
  deriving DecidableEq, Repr, Inhabited

/-- A link flit: header, payload (LEN bytes or more) and trailer (16 Table 16-1). -/
structure Flit where
  header : BitVec 128
  payload : List Byte
  trailer : BitVec 128
  deriving DecidableEq, Repr

/-- A ring store as it arrives on an ordered channel (15:R323, 16:R333). -/
structure RingStore where
  die : Fin 16
  core : Fin 32
  addr : BitVec 22
  tile : Bool
  fmt : BitVec 8
  data : List Byte
  deriving DecidableEq, Repr

/-- The identity a neighbour sends in management flits (16:R343). -/
structure Identity where
  idValid : Bool
  dir : BitVec 4
  spare : Bool
  link : BitVec 6
  lpos : BitVec 16
  physid : BitVec 20
  ok : Bool
  deriving DecidableEq, Repr

/-- State of a core that carries parity and has failed it; the value stays bad until overwritten (07:R171, 09:R211, 10:R229). -/
inductive BadMark where
  /-- element of a stationary column, by lane and row -/
  | stat (lane row : Nat)
  | statScale (lane group : Nat)
  /-- byte of a row of the transpose register tile -/
  | tile (row byte : Nat)
  /-- byte of the activation scale buffer -/
  | abuf (byte : Nat)
  | acc (row lane : Nat)
  | carry
  | rsu (slot : Nat)
  /-- byte of the live image or of the shadow of a table bank -/
  | table (bank : Nat) (live : Bool) (off : Nat)
  /-- byte of the built-in store -/
  | store (off : Nat)
  deriving DecidableEq, Repr

/-- A value of a die that has lost its parity (13 Table 13-8). -/
inductive Struck where
  | core (c : Fin 32) (m : BadMark)
  /-- window element of a GME bank, by byte address / 8 (11:R242) -/
  | gmeElem (cl : Fin 4) (key : Nat)
  /-- element of a segment in a conflict queue of a GME -/
  | gmeSeg (cl : Fin 4) (bank : Fin 32) (place elem : Nat)
  | gmeHash (cl : Fin 4) (place elem : Nat)
  /-- coefficient of a PUU's table -/
  | coef (cl : Fin 4) (table field : Nat)
  /-- value in a PUU's buffer, by component and element -/
  | puuBuf (cl : Fin 4) (comp elem : Nat)
  deriving DecidableEq, Repr

/-- What a parity error finds: the word, and the values of the die that have lost their parity by then (log 83, DESIGN CHOICE). -/
structure ParityFind where
  word : Word512
  struck : List Struck
  deriving DecidableEq, Repr

/-- What a scrub read finds: the symbols of the burst that are wrong, and by what, and the errors that have arisen in the stack's bursts by then
(log 68, DESIGN CHOICE). -/
structure ScrubFind where
  errs : List (Fin 68 × Byte)
  arisen : List (Fin 67108864 × List (Fin 68 × Byte))
  deriving DecidableEq, Repr

/-- The commands of the block, one constructor per row of spec/opcode_table.json. -/
inductive Instr where
  /-- LAUNCH (R103): Host LAUNCH command (FORM 0): the image is checked, resources are weighed against the named dies, and on acceptance the dies are reserved, zeroed and the entry segment is requested. -/
  | launch (q : Fin 64) (w : Word512)
  /-- SEGMENT_LOAD (R96): Host LAUNCH FORM 1 loads a segment into a chosen bank of a running or saved context; a load into the bank Helm fetches from is held. -/
  | segmentLoad (q : Fin 64) (w : Word512)
  /-- PREEMPT_IMMEDIATE (R303): Host PREEMPT FORM 0: every die of the context stops at the boundary after the last word Helm has issued. -/
  | preemptImmediate (q : Fin 64) (w : Word512)
  /-- PREEMPT_AT_YIELD (R75): Host PREEMPT FORM 1: each die stops at the boundary after the next issued word that carries YIELD. -/
  | preemptAtYield (q : Fin 64) (w : Word512)
  /-- PREEMPT_YIELD_TIMEOUT (R75): No YIELD word is issued within 16,384 words of an at-yield request, so the pre-emption takes effect at the next boundary. -/
  | preemptYieldTimeout (d : Fin 16)
  /-- DIE_DRAIN_END (R304): The drain of a pre-empted die ends: agents are at granules, writes are visible and pipeline values are captured; the die then writes its save. -/
  | dieDrainEnd (d : Fin 16)
  /-- CONTEXT_SAVE_COMPLETE (R305): The last die of a pre-empted context has saved; the starting command completes with status 0x4 and the PREEMPT command completes. -/
  | contextSaveComplete (ctx : BitVec 16)
  /-- RESUME (R306): Host RESUME command: the save areas are checked, state and scratchpads are restored, slots revalidated, banks refilled and agents restarted. -/
  | resume (q : Fin 64) (w : Word512)
  /-- CONTEXT_COMPLETE (R105): Every die of a context has completed END with its transfers visible; the dies and reduction channels are released and the completion entry is written. -/
  | contextComplete (ctx : BitVec 16)
  /-- MSIX_TIMER_EXPIRE (R379): TIMEUS has passed since the first entry written after the last message, so the ring's vector receives an MSI-X message. -/
  | msixTimerExpire (r : Fin 130)
  /-- MSIX_VECTOR_UNMASK (R379): Unmasking a vector whose pending bit is set sends its message. -/
  | msixVectorUnmask (v : Fin 256)
  /-- DMA_FLAT (R387): Host DMA FORM 0 copies bytes unchanged between host and stack, or between stacks, in 4 KiB granules. -/
  | dmaFlat (q : Fin 64) (w : Word512)
  /-- DMA_TRANSFER_RECORD (R387): Host DMA FORM 1 runs a transfer record from a save area's descriptor table on the host DMA engines. -/
  | dmaTransferRecord (q : Fin 64) (w : Word512)
  /-- MAP_LEAVES (R298): Host MAP FORM 0 validates and writes leaf entries on every walk it follows, invalidates cached leaves, and completes after old accesses finish. -/
  | mapLeaves (q : Fin 64) (w : Word512)
  /-- MAP_TABLE_POINTER (R388): Host MAP FORM 1 writes one level-1 or level-2 pointer entry to a zeroed table page. -/
  | mapTablePointer (q : Fin 64) (w : Word512)
  /-- UNMAP (R298): Host UNMAP command clears the leaves of a range, invalidates cached leaves, and completes after accesses through them finish. -/
  | unmap (q : Fin 64) (w : Word512)
  /-- DESC_CREATE (R134): Host descriptor create validates an entry, writes it into the table and, for a resident context, into the slot. -/
  | descCreate (q : Fin 64) (w : Word512)
  /-- DESC_DESTROY (R134): Host descriptor destroy writes zeros to a table entry and slot, and clears that slot's PUU hold bit. -/
  | descDestroy (q : Fin 64) (w : Word512)
  /-- RED_SETUP (R356): Host reduction-group setup validates a group record and fills or empties a group slot. -/
  | redSetup (q : Fin 64) (w : Word512)
  /-- WP_TAKE (R425): Host WP_TAKE FORM 0 starts a Waypoint take: the target slot header is invalidated and the take waits for declarations. -/
  | wpTake (q : Fin 64) (w : Word512)
  /-- WP_RESERVE (R427): Host WP_TAKE FORM 1 reserves a buddy region for the module at OWNER. -/
  | wpReserve (q : Fin 64) (w : Word512)
  /-- WP_RELEASE (R427): Host WP_TAKE FORM 2 releases a buddy region; a take using that region aborts. -/
  | wpRelease (q : Fin 64) (w : Word512)
  /-- WP_RESTORE_HOST (R429): Host WP_RESTORE FORM 0 restores a chosen slot from host memory into the dies' save areas as a resumable saved context. -/
  | wpRestoreHost (q : Fin 64) (w : Word512)
  /-- WP_RESTORE_BUDDY (R429): Host WP_RESTORE FORM 1 restores a chosen slot from a buddy region into the dies' save areas as a resumable saved context. -/
  | wpRestoreBuddy (q : Fin 64) (w : Word512)
  /-- WAYPOINT_DECLARATION_TAKEN (R425): DSEM holds at least 1 on every die, so the take takes the declarations and waits for the context's reductions. -/
  | waypointDeclarationTaken (ctx : BitVec 16)
  /-- WAYPOINT_COPY_START (R425): Every reduction on the context's channels has ended, so ring stores are held and the copy of die parts and ranges begins. -/
  | waypointCopyStart (ctx : BitVec 16)
  /-- WAYPOINT_SEAL (R425): Every data write of a take is visible; the header is sealed valid, D bits are cleared, CSEM is signalled and 0x1103 is raised. -/
  | waypointSeal (ctx : BitVec 16)
  /-- BUDDY_REGION_REQUEST (R427): A buddy region receives a read or write request; a request from a position other than OWNER is refused and raises 0x1106.
  A read asks for as many bytes as `data` has. -/
  | buddyRegionRequest (region : Fin 16) (pos : BitVec 16) (write : Bool) (off : Nat) (data : List Byte)
  /-- LAT_TOL_DEVICE (R411): Host LAT_TOL FORM 0 sets the device-wide latency tolerance. -/
  | latTolDevice (q : Fin 64) (w : Word512)
  /-- LAT_TOL_ROLE (R411): Host LAT_TOL FORM 1 sets or withdraws the tolerance of a role. -/
  | latTolRole (q : Fin 64) (w : Word512)
  /-- LAT_TOL_CONTEXT (R411): Host LAT_TOL FORM 2 sets or withdraws the tolerance of a context. -/
  | latTolContext (q : Fin 64) (w : Word512)
  /-- PWR_GRANT (R396): Host PWR_GRANT command offers a grant; it is accepted from the next 1 ms window, or refused with 0x1001. -/
  | pwrGrant (q : Fin 64) (w : Word512)
  /-- MCTP_GRANT_SET (R395): MCTP vendor message command 0x01 offers a power grant with its GSEQ. -/
  | mctpGrantSet (src : GrantPath) (grant : BitVec 16) (gseq : BitVec 16)
  /-- MCTP_GRANT_REPORT_READ (R410): MCTP vendor message command 0x02 reads the power report. -/
  | mctpGrantReportRead (src : GrantPath)
  /-- GRANT_LAPSE (R397): GTMO ms pass with no newly accepted grant; FSGRANT comes into force and 0x1002 is raised. -/
  | grantLapse
  /-- FW_BLOCK (R444): Host FW_BLOCK verifies one 4 KiB image block and stages it in the inactive bank. -/
  | fwBlock (q : Fin 64) (w : Word512)
  /-- FW_COMMIT (R445): Host FW_COMMIT checks and reads back the staged image, performs the handover and switches banks. -/
  | fwCommit (q : Fin 64) (w : Word512)
  /-- FW_ABORT (R445): Host FW_ABORT discards a staged image and raises 0x120C. -/
  | fwAbort (q : Fin 64) (w : Word512)
  /-- HANDOVER_COMPLETE (R447): The new Binnacle instance has taken the handover record and clears HANDOVER; held grants and waiting commands proceed. -/
  | handoverComplete
  /-- HANDOVER_TIMEOUT (R447): The new instance has not cleared HANDOVER within 150 ms, so the old instance resumes and 0x1206 is raised. -/
  | handoverTimeout
  /-- ATTEST_SPDM (R438): Host ATTEST FORM 0 passes an SPDM request to the responder and writes the response. -/
  | attestSpdm (q : Fin 64) (w : Word512)
  /-- ATTEST_DEBUG_UNLOCK (R440): Host ATTEST FORM 1 presents a debug token that opens the debug port, or is refused with 0x1207. -/
  | attestDebugUnlock (q : Fin 64) (w : Word512)
  /-- GET_VERSION (R436): SPDM GET_VERSION request answered by the responder. -/
  | getVersion (t : Transport) (req : List Byte)
  /-- GET_CAPABILITIES (R436): SPDM GET_CAPABILITIES request answered by the responder. -/
  | getCapabilities (t : Transport) (req : List Byte)
  /-- NEGOTIATE_ALGORITHMS (R436): SPDM NEGOTIATE_ALGORITHMS request answered by the responder. -/
  | negotiateAlgorithms (t : Transport) (req : List Byte)
  /-- GET_DIGESTS (R436): SPDM GET_DIGESTS request answered by the responder. -/
  | getDigests (t : Transport) (req : List Byte)
  /-- GET_CERTIFICATE (R436): SPDM GET_CERTIFICATE request returns the slot-0 certificate chain. -/
  | getCertificate (t : Transport) (req : List Byte)
  /-- CHALLENGE (R436): SPDM CHALLENGE request answered with an Ed448 signature by the hub die's key. -/
  | challenge (t : Transport) (req : List Byte)
  /-- GET_MEASUREMENTS (R437): SPDM GET_MEASUREMENTS returns the measurement blocks, signed on request. -/
  | getMeasurements (t : Transport) (req : List Byte)
  /-- KEY_EXCHANGE (R436): SPDM KEY_EXCHANGE request starts a secure session. -/
  | keyExchange (t : Transport) (req : List Byte)
  /-- FINISH (R436): SPDM FINISH request completes secure-session establishment. -/
  | finish (t : Transport) (req : List Byte)
  /-- HEARTBEAT (R436): SPDM HEARTBEAT request answered within a session. -/
  | heartbeat (t : Transport) (req : List Byte)
  /-- KEY_UPDATE (R436): SPDM KEY_UPDATE request updates the session keys. -/
  | keyUpdate (t : Transport) (req : List Byte)
  /-- END_SESSION (R436): SPDM END_SESSION request ends a secure session. -/
  | endSession (t : Transport) (req : List Byte)
  /-- IDE_KM_REQUEST (R439): SPDM VENDOR_DEFINED_REQUEST carrying IDE_KM sets the keys of the link IDE stream inside a secure session. -/
  | ideKmRequest (t : Transport) (req : List Byte)
  /-- SPDM_UNSUPPORTED_REQUEST (R436): An unsupported SPDM request, such as mutual authentication or PSK exchange, is answered with ERROR UnsupportedRequest. -/
  | spdmUnsupportedRequest (t : Transport) (req : List Byte)
  /-- DEBUG_REQUEST (R440): A vendor debug request on J17 is answered with an error while the port is locked, or served within DCAPS while it is open. -/
  | debugRequest (req : List Byte)
  /-- CTR_CFG (R455): Host CTR_CFG validates filter entries and applies them all at one moment, advancing each named group's GEN. -/
  | ctrCfg (q : Fin 64) (w : Word512)
  /-- CONFIG_APPLY (R467): Host CONFIG_APPLY clamps and applies the named configuration fields, optionally stores them, and writes a report. -/
  | configApply (q : Fin 64) (w : Word512)
  /-- RESET_WARM (R465): Host RESET FORM 0 aborts reductions and takes, ends contexts with status 0x5, returns dies to launch state and retrains links. -/
  | resetWarm (q : Fin 64) (w : Word512)
  /-- RESET_DIE (R466): Host RESET FORM 1 resets one compute die, ends its context with status 0x5, and reruns its self-test. -/
  | resetDie (q : Fin 64) (w : Word512)
  /-- RESET_LINK_PORT (R466): Host RESET FORM 2 retrains one link port; it completes when the port reaches Up, Failed or Miswired. -/
  | resetLinkPort (q : Fin 64) (w : Word512)
  /-- DIE_SELF_TEST_DONE (R466): A per-die reset's self-test ends; the die becomes available if it passed, and the RESET command completes. -/
  | dieSelfTestDone (d : Fin 16) (pass : Bool) (retire : BitVec 32) (engines : List Nat)
  /-- COMMAND_FETCH (R382): The ring engine fetches a command round-robin from an enabled submission ring, copies it, reads its argument block and starts it unless FENCE holds it. -/
  | commandFetch
  /-- FENCE_RELEASE (R382): Every earlier command of its ring has completed, so a FENCE command starts. -/
  | fenceRelease (q : Fin 64)
  /-- SUBMISSION_DOORBELL (R378): A BAR2 doorbell write gives a submission ring its new TAIL; an invalid one is ignored and raises 0x0102. -/
  | submissionDoorbell (q : Fin 64) (v : BitVec 32)
  /-- CONSUMER_DOORBELL (R378): A BAR2 doorbell write gives a consumer ring its new HEAD, returning entries so that held entries can be written. -/
  | consumerDoorbell (k : Fin 66) (v : BitVec 32)
  /-- RING_ENABLE (R377): A HUB_RING_CFG write setting EN enables a ring and zeroes HEAD and TAIL, or is refused for a submission ring whose target is disabled. -/
  | ringEnable (r : Fin 130) (v : Word64)
  /-- RING_DISABLE (R377): A HUB_RING_CFG write clearing EN stops a submission ring's fetch, or is ignored for a targeted completion ring. -/
  | ringDisable (r : Fin 130) (v : Word64)
  /-- HOST_REQUEST_ERROR (R373): A device request to host memory ends in UR, CA, poison or timeout; 0x0107 is raised and the requester stops as R373 states. -/
  | hostRequestError (who : Requester) (addr : Nat) (bytesDone : Nat)
  /-- BAR_UNSUPPORTED_ACCESS (R375): An unsupported or reserved BAR0 access completes normally, writes ignored and reads zero; the first raises 0x0106. -/
  | barUnsupportedAccess (off : Nat) (write : Bool)
  /-- REGISTER_WRITE (R13): A write to a register with no row of its own, applied under its access code with clamping where the register states it. -/
  | registerWrite (off : Nat) (wide : Bool) (v : Word64)
  /-- HAZARD_MONITOR_ENABLE (R48): A CD_HZM_CTRL write that changes ENABLE from 0 to 1 starts the monitor and clears HEAD, FULL and DROPPED. -/
  | hazardMonitorEnable (d : Fin 16) (v : BitVec 32)
  /-- MCAST_FORCE_CHAIN (R325): Writing 1 to CD_MCAST_STAT FAULTED marks the tree faulted and forces chain delivery. -/
  | mcastForceChain (d : Fin 16)
  /-- CHANNEL_BIND (R335): Writing BOUND = 1 in LD_CHBIND binds and opens an ordered channel to a context. -/
  | channelBind (k : Fin 128) (v : BitVec 32)
  /-- CHANNEL_ABANDON_CLEAR (R335): Writing 1 to ABANDONED in LD_CHBIND clears the abandoned state so the channel can be opened again. -/
  | channelAbandonClear (k : Fin 128)
  /-- SZL_ID_WRITE (R446): A write that changes HUB_SZL_ID LPOS or SPARE starts a spare takeover period; it is ignored during a commit or handover. -/
  | szlIdWrite (v : Word64)
  /-- OWNER_LOCK_SET (R449): A HUB_FW_LOCK write with LOCK = 1 sets the owner lock and stores KEY. -/
  | ownerLockSet (v : Word64)
  /-- OWNER_LOCK_CLEAR (R449): A HUB_FW_LOCK write with LOCK = 0 clears the lock if KEY matches, or counts a failure and raises 0x120A. -/
  | ownerLockClear (v : Word64)
  /-- DEBUG_NONCE_READ (R440): A read of HUB_DBG_NONCE returns the nonce and replaces it with a new one. -/
  | debugNonceRead
  /-- BUS_MASTER_ENABLE_CHANGE (R374): Clearing Bus Master Enable holds every device memory request until it is set again. -/
  | busMasterEnableChange (on : Bool)
  /-- CONFIG_REQUEST_RETRY (R461): A PCIe configuration request before READY is answered with Request Retry Status. -/
  | configRequestRetry
  /-- FUNCTION_LEVEL_RESET (R374): A Function Level Reset performs a warm reset, resets rings and MSI-X, and discards outstanding commands. -/
  | functionLevelReset
  /-- HOT_RESET (R374): A PCIe hot reset performs a warm reset as for a Function Level Reset. -/
  | hotReset
  /-- PCIE_LINK_DOWN (R374): A PCIe link-down event performs a warm reset as for a Function Level Reset. -/
  | pcieLinkDown
  /-- PERST_ASSERT (R463): Assertion of PERST# on J4 starts a module reset that runs start-up steps 2 to 7. -/
  | perstAssert (u : StartUp)
  /-- MRST_PULSE (R463): A low pulse of at least 1 µs on MRST# starts a module reset. -/
  | mrstPulse (u : StartUp)
  /-- PERST_DEASSERT (R461): Deassertion of PERST# lets the PCIe link train; the module becomes ready within 100 ms. -/
  | perstDeassert
  /-- COLD_START (R460): Application of input power at J1 runs the eight start-up steps in order. -/
  | coldStart (u : StartUp)
  /-- INPUT_QUALIFIED (R474): EN is mated and VIN has stayed within 40–60 V for 20 ms; start-up step 1 ends and hold-up charging proceeds. -/
  | inputQualified (vin : BitVec 10) (u : StartUp)
  /-- DIE_IDENTITY_TIMEOUT (R435): A challenged die does not answer within 10 ms and has failed the identity check. -/
  | dieIdentityTimeout (die : Fin 100)
  /-- INPUT_LOSS_EN_BREAK (R476): EN breaks at J1, which begins input loss and an orderly shutdown. -/
  | inputLossEnBreak
  /-- INPUT_VOLTAGE_LOSS (R476): VIN has stayed outside 40–60 V for 1 ms, which begins input loss and an orderly shutdown. -/
  | inputVoltageLoss (vin : BitVec 10)
  /-- EFUSE_TRIP (R477): Input current above 110 A for 100 µs or above 200 A isolates J1 within 1 µs; the compute dies lose power at once. -/
  | efuseTrip
  /-- EFUSE_RETRY (R477): After 1 s, or 60 s after 8 consecutive trips, the eFuse retries with inrush limiting; a success is a cold start. -/
  | efuseRetry (vin : BitVec 10) (u : StartUp)
  /-- HOLDUP_TEST (R479): A controlled partial discharge tests the hold-up bank at cold start and every 24 h; a weak bank sets HOLDUP fault and raises 0x1406. -/
  | holdupTest (joules : Nat)
  /-- LEAK_DETECT (R477): The moisture sensor below J2 or J3 senses a leak; LEAK and ALERT# are set and 0x1405 is raised. -/
  | leakDetect
  /-- CABLE_PRESENCE_CHANGE (R477): CPRSNT# of a connector changes; CPRES is updated, 0x1407 is raised, and the port trains or goes Down. -/
  | cablePresenceChange (j : Fin 12) (mated : Bool)
  /-- REVERSE_FLOW_DETECT (R482): Flow from J3 to J2 for 1 s sets REVFLOW and an 800 W coolant limit and raises 0x1404. -/
  | reverseFlowDetect
  /-- FORWARD_FLOW_RESTORED (R482): Forward flow has been read for 1 s, so the reversed-flow limit ends. -/
  | forwardFlowRestored
  /-- POWER_SAMPLE (R398): Input power at J1 is sampled every 10 µs; the power dies limit current so that no sample exceeds 1.15 × E. -/
  | powerSample (watts : Nat) (vin : BitVec 10)
  /-- POWER_WINDOW (R400): At the end of each 1 ms window, setpoints are lowered, raised or held and pacing applied so that the average stays within E. -/
  | powerWindow (avg : Nat) (peak : Nat)
  /-- RECLAIM_WINDOW (R409): At the end of each 1 ms window, a die's setpoint is lowered, raised or held according to its wait fraction. -/
  | reclaimWindow (d : Fin 16) (waitPct : Nat)
  /-- POWER_REPORT (R410): Every 10 ms the power manager sends a report to the grant source, as condition 0x100A for a host-ring source. -/
  | powerReport
  /-- DROOP_DETECT (R402): A droop detector sees its supply below threshold and stretches every matched delay of its die within 1 ns. -/
  | droopDetect (d : Fin 16) (det : Fin 64)
  /-- DROOP_CLEAR (R402): The supply has stayed above threshold for 100 ns, so the margin stretch ends. -/
  | droopClear (d : Fin 16) (det : Fin 64)
  /-- RAMP_RESUME (R403): 2 µs after the last detector of a die clears, a paused setpoint ramp resumes. -/
  | rampResume (d : Fin 16)
  /-- THERMAL_SAMPLE (R404): Junction sensors are read every 100 µs; throttling and pacing start or stop at their thresholds. -/
  | thermalSample (die : Fin 100) (tj : Int)
  /-- THERMAL_THROTTLE_STEP (R404): Each 1 ms of throttling lowers a hot die's setpoint by 10 mV. -/
  | thermalThrottleStep (d : Fin 16)
  /-- COOLANT_SAMPLE (R406): Coolant inlet temperature and flow are sampled every 100 ms and the coolant limit is set from Table 19-7. -/
  | coolantSample (inlet : Int) (outlet : Int) (flow : Nat) (reverse : Bool)
  /-- POWER_PHASE_FAIL (R407): A regulator phase fails; the stack is paced while 15 phases rebalance, then limited to 15/16, and 0x1008 is raised. -/
  | powerPhaseFail (s : Fin 16)
  /-- IDLE_STATE_ENTER (R412): A unit's idle condition has held for its stated time, so it enters the deepest idle state the governing tolerance allows. -/
  | idleStateEnter (u : IdleUnit)
  /-- IDLE_STATE_WAKE (R412): An access, flit, doorbell, tolerance change or message wakes a unit from its idle state. -/
  | idleStateWake (u : IdleUnit)
  /-- STACK_WAKE_COMPLETE (R288): A stack leaving retention reaches On, and the waiting accesses are served in arrival order. -/
  | stackWakeComplete (s : Fin 16)
  /-- STACK_OFF_EXIT (R287): A stack leaving memory stack off runs its via test and writes every burst as a zero codeword. -/
  | stackOffExit (s : Fin 16) (vias : List ViaResult)
  /-- PATROL_SCRUB_READ (R286): Scrub reads a burst and rewrites it if corrected, atomically; an uncorrectable burst is left unchanged and raises 0x0B07. -/
  | patrolScrubRead (s : Fin 16) (burst : Fin 67108864) (errs : ScrubFind)
  /-- BURST_REREAD (R284): The re-read of an uncorrectable burst returns; its data is used, or 0x0B04 is raised and the reader acts as Table 13-4 states. -/
  | burstReread (d : Fin 16) (s : Fin 16) (burst : Fin 67108864) (agent : Agent) (ok : Bool)
  /-- NEXT (R62): Control word of class NEXT: Helm continues at the next word and every core executes the word's fields in one step. -/
  | nextWord (d : Fin 16) (w : Word512)
  /-- SKIP_LIMIT_REACHED (R86): The 256th skip of a launch is logged, so Helm stops issuing and 0x0302 is raised. -/
  | skipLimitReached (d : Fin 16)
  /-- LOOP_END (R65): Control word LOOP_END decrements its loop counter and branches back or falls through. -/
  | loopEnd (d : Fin 16) (w : Word512)
  /-- JUMP (R66): Control word JUMP continues at TARGET in the active bank. -/
  | jump (d : Fin 16) (w : Word512)
  /-- BRANCH_IF_SET (R66): Control word BRANCH_IF_SET continues at TARGET if Helm flag FLAG is 1. -/
  | branchIfSet (d : Fin 16) (w : Word512)
  /-- BRANCH_IF_CLEAR (R66): Control word BRANCH_IF_CLEAR continues at TARGET if Helm flag FLAG is 0. -/
  | branchIfClear (d : Fin 16) (w : Word512)
  /-- CALL (R66): Control word CALL pushes the return address and continues at TARGET; an overflow stops the program with 0x0303. -/
  | call (d : Fin 16) (w : Word512)
  /-- RETURN (R66): Control word RETURN pops the return stack; an underflow stops the program with 0x0303. -/
  | returnWord (d : Fin 16) (w : Word512)
  /-- BANK_SWITCH (R67): Control word BANK_SWITCH continues in the other bank, requests the successor segment, and waits while that bank is invalid. -/
  | bankSwitch (d : Fin 16) (w : Word512)
  /-- END (R67): Control word END issues no further words; the die completes once every core has executed it and its transfers are visible. -/
  | endWord (d : Fin 16) (w : Word512)
  /-- LOOP_COUNT_LOAD (R64): IMMUSE 0b001 loads counter LDLC and its start register from IMM for the next word. -/
  | loopCountLoad (d : Fin 16) (w : Word512)
  /-- VLEN_LOAD (R183): IMMUSE 0b011 loads VLEN from IMM and sets the stream position P to 0. -/
  | vlenLoad (d : Fin 16) (w : Word512)
  /-- DIE_BARRIER (R52): Control word with a die barrier, executed by every participant after the barrier resolves. -/
  | dieBarrier (d : Fin 16) (w : Word512)
  /-- CONTEXT_BARRIER (R71): Control word with a context barrier across every die of the context, resolved over the package fabric. -/
  | contextBarrier (d : Fin 16) (w : Word512)
  /-- BARRIER_RESOLVE (R52): Every participant has reached the barrier word and earlier transfers are visible, so the participants execute it. -/
  | barrierResolve (d : Fin 16)
  /-- SEMAPHORE_WAIT (R68): Control word waiting on a semaphore for amount N, resolved once for the word. -/
  | semaphoreWait (d : Fin 16) (w : Word512)
  /-- SEM_WAIT_RESOLVE (R68): A waited semaphore holds at least N, so the die subtracts N and the word executes. -/
  | semWaitResolve (d : Fin 16)
  /-- SEMAPHORE_SIGNAL (R69): Control word signalling a semaphore of its own die or another die of the context, taking effect after its release condition. -/
  | semaphoreSignal (d : Fin 16) (w : Word512)
  /-- REMOTE_SIGNAL (R70): Control word signalling a semaphore on a ring neighbour over an ordered link channel. -/
  | remoteSignal (d : Fin 16) (w : Word512)
  /-- REMOTE_SIGNAL_ARRIVE (R70): A remote signal arriving on an ordered channel is applied to the bound context's semaphore, or to its saved image. -/
  | remoteSignalArrive (l : Fin 48) (ch : Fin 64) (die : Fin 128) (sem : Fin 64) (amount : Fin 16)
  /-- STREAM_TRIGGER (R72): Control word triggering a prefetch stream: it releases or issues a fetch item, issues an issue item, or starts a GME or PUU job. -/
  | streamTrigger (d : Fin 16) (w : Word512)
  /-- SMALL_TRANSFER (R321): Control word issuing the small transfer of a descriptor slot from each served core. -/
  | smallTransfer (d : Fin 16) (w : Word512)
  /-- YIELD (R75): Control word marking the boundary after it as a yield point for an at-yield pre-emption. -/
  | yield (d : Fin 16) (w : Word512)
  /-- FLAG_LOAD_ANY (R73): Control word loading a Helm flag with 1 if any active core's first AG0 word is non-zero. -/
  | flagLoadAny (d : Fin 16) (w : Word512)
  /-- FLAG_LOAD_ALL (R73): Control word loading a Helm flag with 1 if every active core's first AG0 word is non-zero. -/
  | flagLoadAll (d : Fin 16) (w : Word512)
  /-- FLAG_RESOLUTION (R73): Every healthy core has executed the fourth word after a flag load, so Helm resolves the waiting branch. -/
  | flagResolution (d : Fin 16)
  /-- COUNTER_READ (R74): Control word status read of a selected counter, presented 4 steps later at source 0b0101. -/
  | counterRead (d : Fin 16) (w : Word512)
  /-- SKIP_COUNT_READ (R74): Control word status read of the launch's skip count. -/
  | skipCountRead (d : Fin 16) (w : Word512)
  /-- CONTROL_WORD_PARITY_ERROR (R60): A core finds a parity error in a word it is about to execute and requests re-delivery from the replay buffer; 0x0305 is raised. -/
  | controlWordParityError (d : Fin 16) (c : Fin 32) (w : ParityFind)
  /-- WORD_REDELIVERED (R60): The re-delivered word arrives; if it fails parity again the core stops at a split boundary and 0x0304 is raised. -/
  | wordRedelivered (d : Fin 16) (c : Fin 32) (ok : Bool)
  /-- MXU_COMPUTE (R161): MX MODE 0b01 forms one K-long dot product per matrix lane and adds or writes it into an accumulator row. -/
  | mxuCompute (d : Fin 16) (w : Word512)
  /-- STATIONARY_LOAD (R163): MX MODE 0b10 writes one stationary row from AG3, and AG1 for a split row, and records the stationary format. -/
  | stationaryLoad (d : Fin 16) (w : Word512)
  /-- STATIONARY_LOAD_TRANSPOSED (R164): MX MODE 0b11 writes one stationary row of one half of the lanes from a column of the transpose tile. -/
  | stationaryLoadTransposed (d : Fin 16) (w : Word512)
  /-- TRANSPOSE_ROW_WRITE (R165): TWR writes the first 64 bytes of AG3's access into a transpose-tile row. -/
  | transposeRowWrite (d : Fin 16) (w : Word512)
  /-- ACCUMULATOR_DRAIN (R166): DRN reads an accumulator row as the MXU drain source, zeroing it under DZERO. -/
  | accumulatorDrain (d : Fin 16) (w : Word512)
  /-- TILE_REREAD (R127): The re-read of a tile that failed verification returns; it is used with 0x0B20, or 0x0B21 stops the agent and pre-empts the context. -/
  | tileReread (d : Fin 16) (agent : Agent) (addr : Nat) (data : List Byte)
  /-- MXU_SELF_TEST_DONE (R172): The MXU self-test run after a context that raised 0x0601 ends; a failing core is retired and 0x0602 is raised. -/
  | mxuSelfTestDone (d : Fin 16) (c : Fin 32) (pass : Bool)
  /-- PASS (R179): VXE opcode PASS returns its chain value. -/
  | vxPass (d : Fin 16) (k : Fin 4) (w : Word512)
  /-- MUL (R179): VXE opcode MUL multiplies the chain value by B. -/
  | vxMul (d : Fin 16) (k : Fin 4) (w : Word512)
  /-- ADD (R179): VXE opcode ADD adds B to the chain value. -/
  | vxAdd (d : Fin 16) (k : Fin 4) (w : Word512)
  /-- SUB (R179): VXE opcode SUB subtracts B from the chain value. -/
  | vxSub (d : Fin 16) (k : Fin 4) (w : Word512)
  /-- RSUB (R179): VXE opcode RSUB subtracts the chain value from B. -/
  | vxRsub (d : Fin 16) (k : Fin 4) (w : Word512)
  /-- FMAI (R179): VXE opcode FMAI computes v × B + I with one rounding. -/
  | vxFmai (d : Fin 16) (k : Fin 4) (w : Word512)
  /-- FNMAI (R179): VXE opcode FNMAI computes I − v × B with one rounding. -/
  | vxFnmai (d : Fin 16) (k : Fin 4) (w : Word512)
  /-- MIN (R179): VXE opcode MIN returns the lesser of v and B. -/
  | vxMin (d : Fin 16) (k : Fin 4) (w : Word512)
  /-- MAX (R179): VXE opcode MAX returns the greater of v and B. -/
  | vxMax (d : Fin 16) (k : Fin 4) (w : Word512)
  /-- ABS (R179): VXE opcode ABS returns the magnitude of v. -/
  | vxAbs (d : Fin 16) (k : Fin 4) (w : Word512)
  /-- NEG (R179): VXE opcode NEG returns −v. -/
  | vxNeg (d : Fin 16) (k : Fin 4) (w : Word512)
  /-- CLAMP (R179): VXE opcode CLAMP clamps v to [−|B|, |B|]. -/
  | vxClamp (d : Fin 16) (k : Fin 4) (w : Word512)
  /-- CMPEQ (R179): VXE opcode CMPEQ returns 1.0 if v equals B, else +0. -/
  | vxCmpeq (d : Fin 16) (k : Fin 4) (w : Word512)
  /-- CMPNE (R179): VXE opcode CMPNE returns 1.0 if v differs from B, else +0. -/
  | vxCmpne (d : Fin 16) (k : Fin 4) (w : Word512)
  /-- CMPLT (R179): VXE opcode CMPLT returns 1.0 if v is less than B, else +0. -/
  | vxCmplt (d : Fin 16) (k : Fin 4) (w : Word512)
  /-- CMPLE (R179): VXE opcode CMPLE returns 1.0 if v is at most B, else +0. -/
  | vxCmple (d : Fin 16) (k : Fin 4) (w : Word512)
  /-- CMPGT (R179): VXE opcode CMPGT returns 1.0 if v is greater than B, else +0. -/
  | vxCmpgt (d : Fin 16) (k : Fin 4) (w : Word512)
  /-- CMPGE (R179): VXE opcode CMPGE returns 1.0 if v is at least B, else +0. -/
  | vxCmpge (d : Fin 16) (k : Fin 4) (w : Word512)
  /-- SELECT (R179): VXE opcode SELECT returns B where the lane's predicate-register bit is 1, else v. -/
  | vxSelect (d : Fin 16) (k : Fin 4) (w : Word512)
  /-- FLOOR (R179): VXE opcode FLOOR rounds v to an integral value downward. -/
  | vxFloor (d : Fin 16) (k : Fin 4) (w : Word512)
  /-- CEIL (R179): VXE opcode CEIL rounds v to an integral value upward. -/
  | vxCeil (d : Fin 16) (k : Fin 4) (w : Word512)
  /-- RINT (R179): VXE opcode RINT rounds v to an integral value, nearest even. -/
  | vxRint (d : Fin 16) (k : Fin 4) (w : Word512)
  /-- TRUNC (R179): VXE opcode TRUNC rounds v to an integral value toward zero. -/
  | vxTrunc (d : Fin 16) (k : Fin 4) (w : Word512)
  /-- FTOI (R179): VXE opcode FTOI converts v to INT32, saturating. -/
  | vxFtoi (d : Fin 16) (k : Fin 4) (w : Word512)
  /-- ITOF (R179): VXE opcode ITOF converts an INT32 to FP32. -/
  | vxItof (d : Fin 16) (k : Fin 4) (w : Word512)
  /-- IADD (R179): VXE opcode IADD adds integers modulo 2^32. -/
  | vxIadd (d : Fin 16) (k : Fin 4) (w : Word512)
  /-- ISUB (R179): VXE opcode ISUB subtracts integers modulo 2^32. -/
  | vxIsub (d : Fin 16) (k : Fin 4) (w : Word512)
  /-- IMUL (R179): VXE opcode IMUL returns the low 32 bits of the integer product. -/
  | vxImul (d : Fin 16) (k : Fin 4) (w : Word512)
  /-- AND (R179): VXE opcode AND computes a bitwise AND. -/
  | vxAnd (d : Fin 16) (k : Fin 4) (w : Word512)
  /-- OR (R179): VXE opcode OR computes a bitwise OR. -/
  | vxOr (d : Fin 16) (k : Fin 4) (w : Word512)
  /-- XOR (R179): VXE opcode XOR computes a bitwise XOR. -/
  | vxXor (d : Fin 16) (k : Fin 4) (w : Word512)
  /-- SHL (R179): VXE opcode SHL shifts v left by B mod 32. -/
  | vxShl (d : Fin 16) (k : Fin 4) (w : Word512)
  /-- SHR (R179): VXE opcode SHR shifts v right, logical, by B mod 32. -/
  | vxShr (d : Fin 16) (k : Fin 4) (w : Word512)
  /-- SAR (R179): VXE opcode SAR shifts v right, arithmetic, by B mod 32. -/
  | vxSar (d : Fin 16) (k : Fin 4) (w : Word512)
  /-- IMIN (R179): VXE opcode IMIN returns the signed lesser of v and B. -/
  | vxImin (d : Fin 16) (k : Fin 4) (w : Word512)
  /-- IMAX (R179): VXE opcode IMAX returns the signed greater of v and B. -/
  | vxImax (d : Fin 16) (k : Fin 4) (w : Word512)
  /-- GSET (R190): VXE opcode GSET sets every lane's generator seed and counter from 16 bytes of its SRCA access. -/
  | vxGset (d : Fin 16) (w : Word512)
  /-- SCAN_ADD (R200): SC SCANOP add scans one 512-lane chunk with addition, optionally chained from the carry. -/
  | scanAdd (d : Fin 16) (w : Word512)
  /-- SCAN_MAX (R200): SC SCANOP max scans one chunk with the maximum. -/
  | scanMax (d : Fin 16) (w : Word512)
  /-- SCAN_MIN (R200): SC SCANOP min scans one chunk with the minimum. -/
  | scanMin (d : Fin 16) (w : Word512)
  /-- SCAN_MULTIPLY (R200): SC SCANOP multiply scans one chunk with multiplication. -/
  | scanMultiply (d : Fin 16) (w : Word512)
  /-- SCAN_AFFINE_PAIR (R200): SC SCANOP affine pair scans one chunk of (a, b) pairs for a linear recurrence. -/
  | scanAffinePair (d : Fin 16) (w : Word512)
  /-- RSU_SUM (R208): RSUOP sum folds a word's valid elements into a slot's running sum. -/
  | rsuSum (d : Fin 16) (w : Word512)
  /-- RSU_WELFORD (R208): RSUOP Welford folds elements into a slot's mean and second moment. -/
  | rsuWelford (d : Fin 16) (w : Word512)
  /-- RSU_MAX_ARGMAX (R208): RSUOP max and arg-max folds elements into a slot's maximum and its index. -/
  | rsuMaxArgmax (d : Fin 16) (w : Word512)
  /-- RSU_SOFTMAX_NORMALISER (R208): RSUOP soft-maximum normaliser folds base-2 logits into a slot's max and scaled sum. -/
  | rsuSoftmaxNormaliser (d : Fin 16) (w : Word512)
  /-- RSU_TOPK (R208): RSUOP top-k folds elements into a slot's k greatest values and indices. -/
  | rsuTopk (d : Fin 16) (w : Word512)
  /-- RSU_FINALISE (R205): RSUOP finalise folds its own elements, presents the slot's statistics 8 steps later, and empties the slot. -/
  | rsuFinalise (d : Fin 16) (w : Word512)
  /-- VERNIER_LOOKUP (R214): VF EN evaluates a built-in or loaded entry in each of 256 lanes, presenting results 18 steps later. -/
  | vernierLookup (d : Fin 16) (w : Word512)
  /-- VERNIER_SWAP (R226): VF SWAP exchanges a bank's Ready shadow with its live image and advances GEN, or changes nothing and may raise 0x0803. -/
  | vernierSwap (d : Fin 16) (w : Word512)
  /-- TABLE_LOAD_VALIDATE (R223): The last byte of a Vernier table load arrives; the shadow is validated to Ready or Rejected. -/
  | tableLoadValidate (d : Fin 16) (c : Fin 32) (bank : Fin 2) (reread : List Byte)
  /-- TABLE_LOAD_HELD_RELEASE (R227): In-flight lookups of the old generation have read their tables, so a Held load proceeds to Loading. -/
  | tableLoadHeldRelease (d : Fin 16) (c : Fin 32) (bank : Fin 2)
  /-- BANK_LOAD_COMPLETE (R94): The bank loader writes a segment's last word; on a CRC match the bank becomes valid, and a waiting Helm issues. -/
  | bankLoadComplete (d : Fin 16)
  /-- DMA_GRANULE (R314): A DMA engine performs one granule of a transfer: translation, reads, verification or sealing, conversion and writes. -/
  | dmaGranule (d : Fin 16) (xfer : Nat)
  /-- FAULT_SLOT_ACQUIRE (R300): A fault slot frees and a waiting agent takes it, writing its fault record with WAITED = 1. -/
  | faultSlotAcquire (d : Fin 16)
  /-- DMA_TRANSFER_COMPLETE (R313): A transfer's last write is visible; it counts for releases and signals DSEM if enabled. -/
  | dmaTransferComplete (d : Fin 16) (xfer : Nat)
  /-- STREAM_ITEM_LANDED (R318): A stream item has landed or completed on every served core, so SEM is signalled in item order. -/
  | streamItemLanded (d : Fin 16) (stream : Fin 64)
  /-- SMALL_TRANSFER_COMPLETE (R321): Every served core's small transfer of a word has completed, so SEM is signalled. -/
  | smallTransferComplete (d : Fin 16)
  /-- RING_STORE_ARRIVE (R324): A ring store arrives at the receiving die and lands in the scratchpad, the saved image, or is held during a save. -/
  | ringStoreArrive (l : Fin 48) (ch : Fin 64) (store : RingStore)
  /-- MCAST_TREE_FAULT (R325): Parity fails at a multicast tree stage; the tree is faulted, chain delivery is used, and 0x0D04 is raised. -/
  | mcastTreeFault (d : Fin 16)
  /-- GME_PRODUCT_JOB (R236): GME job OP 0x1 starts a block-sparse product, dealing rounds of present strips to the cluster's cores. -/
  | gmeProductJob (d : Fin 16) (cl : Fin 4)
  /-- GME_BANKED_DRAIN (R245): GME job OP 0x2 converts and writes the window and clears the banked accumulator. -/
  | gmeBankedDrain (d : Fin 16) (cl : Fin 4)
  /-- GME_ROW_SCATTER_ADD (R246): GME job OP 0x3 adds value rows keyed by identifiers into the hash-indexed accumulator, spilling to the overflow table. -/
  | gmeRowScatterAdd (d : Fin 16) (cl : Fin 4)
  /-- GME_HASH_DRAIN (R249): GME job OP 0x4 writes resident and overflow entries to DEST and empties the hash accumulator. -/
  | gmeHashDrain (d : Fin 16) (cl : Fin 4)
  /-- GME_ROUND_DELIVER (R238): The GME fills a core's freed round slot with a round's header, stationary set and activations. -/
  | gmeRoundDeliver (d : Fin 16) (c : Fin 32)
  /-- GME_ROUND_HANDBACK (R239): A core's trigger hands a round back; the GME takes its partial rows into the banked accumulator. -/
  | gmeRoundHandback (d : Fin 16) (c : Fin 32)
  /-- PUU_UPDATE (R263): PUU command OP 0x1 checks the tag and applies the optimiser recurrence granule by granule. -/
  | puuUpdate (d : Fin 16) (cl : Fin 4)
  /-- PUU_COEF_LOAD (R262): PUU command OP 0x2 validates and loads coefficient tables record by record. -/
  | puuCoefLoad (d : Fin 16) (cl : Fin 4)
  /-- PUU_RELEASE_HOLD (R267): PUU command OP 0x3 clears the hold bit of one slot, or of every slot with ALL = 1. -/
  | puuReleaseHold (d : Fin 16) (cl : Fin 4)
  /-- FLIT_RECEIVE (R332): A link receiver accepts or discards a flit by code, CRC and sequence, sending an acknowledgement or one NAK. -/
  | flitReceive (l : Fin 48) (f : Flit) (codeOk : Bool)
  /-- NAK_RECEIVE (R332): A sender receives a NAK and replays every flit after ACKSEQ; more than 8 replays puts the link into recovery. -/
  | nakReceive (l : Fin 48) (ackseq : BitVec 12)
  /-- HOP_TIMEOUT (R332): A flit waits longer than its level's hop timeout for acknowledgement while the link is Up; 0x0E06 is raised and the link recovers. -/
  | hopTimeout (l : Fin 48)
  /-- LANE_ERROR_THRESHOLD (R342): A lane's corrected symbols exceed the LANETHR bound in one second, so the port enters Recovering. -/
  | laneErrorThreshold (l : Fin 48) (lane : Fin 5) (count : Nat)
  /-- LINK_RECOVERY_TEST (R344): The lane test in Recovering ends; a bad lane is swapped to the spare and the link retrains, or it becomes Failed. -/
  | linkRecoveryTest (l : Fin 48) (good : BitVec 5)
  /-- CHANNEL_ABANDON_NOTICE (R336): A management notice of abandonment arrives from the far end over a surviving link and abandons the channel here. -/
  | channelAbandonNotice (k : Fin 128)
  /-- BULK_HOLD_EXPIRE (R345): Bulk flits for a lost direction have been held 100 ms with no path; they are dropped and 0x0E08 is raised. -/
  | bulkHoldExpire (dir : Fin 16)
  /-- LINK_SIGNAL_FOUND (R342): A port that is Down, Failed or Miswired finds signal at its retry and enters Training. -/
  | linkSignalFound (l : Fin 48)
  /-- LINK_TRAINING_RETRY (R342): Every 1 s, a port that is Down, Failed or Miswired retries training. -/
  | linkTrainingRetry (l : Fin 48)
  /-- LINK_TRAINING_DONE (R342): Training ends with at least 4 passing lanes into Identity, steering spares, or with fewer into Failed. -/
  | linkTrainingDone (l : Fin 48) (good : BitVec 5) (shorted : BitVec 5)
  /-- LINK_IDENTITY_RECEIVED (R343): The neighbour's identity arrives in management flits; the port becomes Up or Miswired. -/
  | linkIdentityReceived (l : Fin 48) (id : Identity)
  /-- REDUCTION_ISSUE (R358): Every contributing die's ISEM holds at least 1, so a group issues with tag TAG0 + k and phase E begins. -/
  | reductionIssue (g : Fin 256)
  /-- REDUCTION_CODE_FLIT (R361): A phase-E code flit arrives at a link port, which merges the bound codes with the max operator and forwards them. -/
  | reductionCodeFlit (l : Fin 48) (f : Flit)
  /-- REDUCTION_SEGMENT_RECEIVE (R363): A phase-S segment arrives at an adder, which adds its own part, checks the checksum and forwards or accepts it. -/
  | reductionSegmentReceive (l : Fin 48) (f : Flit)
  /-- REDUCTION_SEGMENT_ACCEPTED (R364): An OP 0x3 acceptance arrives, so the sender releases its kept copy of the segment. -/
  | reductionSegmentAccepted (l : Fin 48) (f : Flit)
  /-- REDUCTION_RETRY_REQUEST (R364): An OP 0x4 retry request arrives, so the sender resends its kept copy; a third mismatch aborts with 0x0F03. -/
  | reductionRetryRequest (l : Fin 48) (f : Flit)
  /-- REDUCTION_ABORT_RECEIVE (R366): An OP 0x5 abort arrives, so the reduction stops here, CSEM is still signalled and 0x0F07 is raised. -/
  | reductionAbortReceive (l : Fin 48) (f : Flit)
  /-- REDUCTION_COMPLETE (R365): Destination writes are visible on every contributing die; tag words are written, then CSEM is signalled. -/
  | reductionComplete (g : Fin 256)
  /-- REDUCTION_HOLD_EXPIRE (R367): A segment held 100 ms for a lost ring, plane or volume route finds no path, and the reduction aborts with 0x0F04. -/
  | reductionHoldExpire (g : Fin 256)
  /-- PHASE_REBALANCE_DONE (R407): The remaining 15 regulator phases finish rebalancing, pacing to no issue ends, the stack is limited to 15/16 and 0x1008 is raised. -/
  | phaseRebalanceDone (s : Fin 16)
  /-- PCIE_LINK_TRAINED (R392): The PCIe link completes training, and 0x0108 is raised if it trained below the rate or width that both ends support. -/
  | pcieLinkTrained (degraded : Bool)
  /-- D3HOT_REQUEST (R372): A request to enter D3hot takes effect only while no context exists. -/
  | d3hotRequest
  /-- HOLD_UP_CHARGED (R474): The hold-up bank finishes charging after input qualification and HOLDUP changes from charging to full. -/
  | holdUpCharged
  /-- SPARE_TAKEOVER_END (R446): The spare takeover period that began with a change of LPOS or SPARE ends after 1 s if the ports have not yet left Training and Identity. -/
  | spareTakeoverEnd
  /-- AER_UNCORRECTABLE_ERROR (R392): The PCIe port logs an AER uncorrectable error, such as an ECRC failure on a received TLP, and 0x0109 is raised. -/
  | aerUncorrectableError
  /-- POWER_STATE_D0 (R473): A PCI-PM write returns PowerState from D3hot to D0 and WAKE# is released. -/
  | powerStateD0
  deriving DecidableEq, Repr

end Sys2Proof
end

