-- ==== Sys2Proof/WellFormed.lean ====
section
/-! DEFINITION. Well-formed commands: the operand has the bits that name its row, and its parts are in range. -/

namespace Sys2Proof

/-- Bits [hi:lo] = value that a row gives its 512-bit operand (03 Tables 3-3 to 3-9, 08 Table 8-3, 18 Table 18-7). -/
def Instr.fixed : Instr → List (Nat × Nat × Nat)
  | .launch _ _ => [(511, 504, 1), (503, 500, 0)]
  | .segmentLoad _ _ => [(511, 504, 1), (503, 500, 1)]
  | .preemptImmediate _ _ => [(511, 504, 2), (503, 500, 0)]
  | .preemptAtYield _ _ => [(511, 504, 2), (503, 500, 1)]
  | .preemptYieldTimeout .. => []
  | .dieDrainEnd .. => []
  | .contextSaveComplete .. => []
  | .resume _ _ => [(511, 504, 3), (503, 500, 0)]
  | .contextComplete .. => []
  | .msixTimerExpire .. => []
  | .msixVectorUnmask .. => []
  | .dmaFlat _ _ => [(511, 504, 4), (503, 500, 0)]
  | .dmaTransferRecord _ _ => [(511, 504, 4), (503, 500, 1)]
  | .mapLeaves _ _ => [(511, 504, 5), (503, 500, 0)]
  | .mapTablePointer _ _ => [(511, 504, 5), (503, 500, 1)]
  | .unmap _ _ => [(511, 504, 6), (503, 500, 0)]
  | .descCreate _ _ => [(511, 504, 7), (503, 500, 0)]
  | .descDestroy _ _ => [(511, 504, 8), (503, 500, 0)]
  | .redSetup _ _ => [(511, 504, 9), (503, 500, 0)]
  | .wpTake _ _ => [(511, 504, 10), (503, 500, 0)]
  | .wpReserve _ _ => [(511, 504, 10), (503, 500, 1)]
  | .wpRelease _ _ => [(511, 504, 10), (503, 500, 2)]
  | .wpRestoreHost _ _ => [(511, 504, 11), (503, 500, 0)]
  | .wpRestoreBuddy _ _ => [(511, 504, 11), (503, 500, 1)]
  | .waypointDeclarationTaken .. => []
  | .waypointCopyStart .. => []
  | .waypointSeal .. => []
  | .buddyRegionRequest .. => []
  | .latTolDevice _ _ => [(511, 504, 12), (503, 500, 0)]
  | .latTolRole _ _ => [(511, 504, 12), (503, 500, 1)]
  | .latTolContext _ _ => [(511, 504, 12), (503, 500, 2)]
  | .pwrGrant _ _ => [(511, 504, 13), (503, 500, 0)]
  | .mctpGrantSet .. => []
  | .mctpGrantReportRead .. => []
  | .grantLapse .. => []
  | .fwBlock _ _ => [(511, 504, 14), (503, 500, 0)]
  | .fwCommit _ _ => [(511, 504, 15), (503, 500, 0)]
  | .fwAbort _ _ => [(511, 504, 16), (503, 500, 0)]
  | .handoverComplete .. => []
  | .handoverTimeout .. => []
  | .attestSpdm _ _ => [(511, 504, 17), (503, 500, 0)]
  | .attestDebugUnlock _ _ => [(511, 504, 17), (503, 500, 1)]
  | .getVersion .. => []
  | .getCapabilities .. => []
  | .negotiateAlgorithms .. => []
  | .getDigests .. => []
  | .getCertificate .. => []
  | .challenge .. => []
  | .getMeasurements .. => []
  | .keyExchange .. => []
  | .finish .. => []
  | .heartbeat .. => []
  | .keyUpdate .. => []
  | .endSession .. => []
  | .ideKmRequest .. => []
  | .spdmUnsupportedRequest .. => []
  | .debugRequest .. => []
  | .ctrCfg _ _ => [(511, 504, 18), (503, 500, 0)]
  | .configApply _ _ => [(511, 504, 19), (503, 500, 0)]
  | .resetWarm _ _ => [(511, 504, 20), (503, 500, 0)]
  | .resetDie _ _ => [(511, 504, 20), (503, 500, 1)]
  | .resetLinkPort _ _ => [(511, 504, 20), (503, 500, 2)]
  | .dieSelfTestDone .. => []
  | .commandFetch .. => []
  | .fenceRelease .. => []
  | .submissionDoorbell .. => []
  | .consumerDoorbell .. => []
  | .ringEnable .. => []
  | .ringDisable .. => []
  | .hostRequestError .. => []
  | .barUnsupportedAccess .. => []
  | .registerWrite .. => []
  | .hazardMonitorEnable .. => []
  | .mcastForceChain .. => []
  | .channelBind .. => []
  | .channelAbandonClear .. => []
  | .szlIdWrite .. => []
  | .ownerLockSet .. => []
  | .ownerLockClear .. => []
  | .debugNonceRead .. => []
  | .busMasterEnableChange .. => []
  | .d3hotRequest .. => []
  | .configRequestRetry .. => []
  | .functionLevelReset .. => []
  | .hotReset .. => []
  | .pcieLinkDown .. => []
  | .perstAssert .. => []
  | .mrstPulse .. => []
  | .perstDeassert .. => []
  | .coldStart .. => []
  | .inputQualified .. => []
  | .dieIdentityTimeout .. => []
  | .inputLossEnBreak .. => []
  | .inputVoltageLoss .. => []
  | .efuseTrip .. => []
  | .efuseRetry .. => []
  | .holdupTest .. => []
  | .leakDetect .. => []
  | .cablePresenceChange .. => []
  | .reverseFlowDetect .. => []
  | .forwardFlowRestored .. => []
  | .powerSample .. => []
  | .powerWindow .. => []
  | .reclaimWindow .. => []
  | .powerReport .. => []
  | .droopDetect .. => []
  | .droopClear .. => []
  | .rampResume .. => []
  | .thermalSample .. => []
  | .thermalThrottleStep .. => []
  | .coolantSample .. => []
  | .powerPhaseFail .. => []
  | .idleStateEnter .. => []
  | .idleStateWake .. => []
  | .stackWakeComplete .. => []
  | .stackOffExit .. => []
  | .patrolScrubRead .. => []
  | .burstReread .. => []
  | .nextWord _ _ => [(511, 508, 0)]
  | .skipLimitReached .. => []
  | .loopEnd _ _ => [(511, 508, 1)]
  | .jump _ _ => [(511, 508, 2)]
  | .branchIfSet _ _ => [(511, 508, 3)]
  | .branchIfClear _ _ => [(511, 508, 4)]
  | .call _ _ => [(511, 508, 5)]
  | .returnWord _ _ => [(511, 508, 6)]
  | .bankSwitch _ _ => [(511, 508, 7)]
  | .endWord _ _ => [(511, 508, 8)]
  | .loopCountLoad _ _ => [(485, 483, 1)]
  | .vlenLoad _ _ => [(485, 483, 3)]
  | .dieBarrier _ _ => [(479, 478, 1)]
  | .contextBarrier _ _ => [(479, 478, 2)]
  | .barrierResolve .. => []
  | .semaphoreWait _ _ => [(477, 476, 1)]
  | .semWaitResolve .. => []
  | .semaphoreSignal _ _ => [(477, 476, 2), (465, 465, 0)]
  | .remoteSignal _ _ => [(477, 476, 2), (465, 465, 1)]
  | .remoteSignalArrive .. => []
  | .streamTrigger _ _ => [(464, 464, 1)]
  | .smallTransfer _ _ => [(457, 457, 1)]
  | .yield _ _ => [(456, 456, 1)]
  | .flagLoadAny _ _ => [(455, 454, 1)]
  | .flagLoadAll _ _ => [(455, 454, 2)]
  | .flagResolution .. => []
  | .counterRead _ _ => [(450, 449, 1)]
  | .skipCountRead _ _ => [(450, 449, 2)]
  | .controlWordParityError .. => []
  | .wordRedelivered .. => []
  | .mxuCompute _ _ => [(447, 446, 1)]
  | .stationaryLoad _ _ => [(447, 446, 2)]
  | .stationaryLoadTransposed _ _ => [(447, 446, 3)]
  | .transposeRowWrite _ _ => [(409, 409, 1)]
  | .accumulatorDrain _ _ => [(411, 411, 1)]
  | .tileReread .. => []
  | .mxuSelfTestDone .. => []
  | .vxPass _ k _ => [(383 - 12 * k.val, 378 - 12 * k.val, 1)]
  | .vxMul _ k _ => [(383 - 12 * k.val, 378 - 12 * k.val, 2)]
  | .vxAdd _ k _ => [(383 - 12 * k.val, 378 - 12 * k.val, 3)]
  | .vxSub _ k _ => [(383 - 12 * k.val, 378 - 12 * k.val, 4)]
  | .vxRsub _ k _ => [(383 - 12 * k.val, 378 - 12 * k.val, 5)]
  | .vxFmai _ k _ => [(383 - 12 * k.val, 378 - 12 * k.val, 6)]
  | .vxFnmai _ k _ => [(383 - 12 * k.val, 378 - 12 * k.val, 7)]
  | .vxMin _ k _ => [(383 - 12 * k.val, 378 - 12 * k.val, 8)]
  | .vxMax _ k _ => [(383 - 12 * k.val, 378 - 12 * k.val, 9)]
  | .vxAbs _ k _ => [(383 - 12 * k.val, 378 - 12 * k.val, 10)]
  | .vxNeg _ k _ => [(383 - 12 * k.val, 378 - 12 * k.val, 11)]
  | .vxClamp _ k _ => [(383 - 12 * k.val, 378 - 12 * k.val, 12)]
  | .vxCmpeq _ k _ => [(383 - 12 * k.val, 378 - 12 * k.val, 16)]
  | .vxCmpne _ k _ => [(383 - 12 * k.val, 378 - 12 * k.val, 17)]
  | .vxCmplt _ k _ => [(383 - 12 * k.val, 378 - 12 * k.val, 18)]
  | .vxCmple _ k _ => [(383 - 12 * k.val, 378 - 12 * k.val, 19)]
  | .vxCmpgt _ k _ => [(383 - 12 * k.val, 378 - 12 * k.val, 20)]
  | .vxCmpge _ k _ => [(383 - 12 * k.val, 378 - 12 * k.val, 21)]
  | .vxSelect _ k _ => [(383 - 12 * k.val, 378 - 12 * k.val, 22)]
  | .vxFloor _ k _ => [(383 - 12 * k.val, 378 - 12 * k.val, 24)]
  | .vxCeil _ k _ => [(383 - 12 * k.val, 378 - 12 * k.val, 25)]
  | .vxRint _ k _ => [(383 - 12 * k.val, 378 - 12 * k.val, 26)]
  | .vxTrunc _ k _ => [(383 - 12 * k.val, 378 - 12 * k.val, 27)]
  | .vxFtoi _ k _ => [(383 - 12 * k.val, 378 - 12 * k.val, 28)]
  | .vxItof _ k _ => [(383 - 12 * k.val, 378 - 12 * k.val, 29)]
  | .vxIadd _ k _ => [(383 - 12 * k.val, 378 - 12 * k.val, 32)]
  | .vxIsub _ k _ => [(383 - 12 * k.val, 378 - 12 * k.val, 33)]
  | .vxImul _ k _ => [(383 - 12 * k.val, 378 - 12 * k.val, 34)]
  | .vxAnd _ k _ => [(383 - 12 * k.val, 378 - 12 * k.val, 35)]
  | .vxOr _ k _ => [(383 - 12 * k.val, 378 - 12 * k.val, 36)]
  | .vxXor _ k _ => [(383 - 12 * k.val, 378 - 12 * k.val, 37)]
  | .vxShl _ k _ => [(383 - 12 * k.val, 378 - 12 * k.val, 38)]
  | .vxShr _ k _ => [(383 - 12 * k.val, 378 - 12 * k.val, 39)]
  | .vxSar _ k _ => [(383 - 12 * k.val, 378 - 12 * k.val, 40)]
  | .vxImin _ k _ => [(383 - 12 * k.val, 378 - 12 * k.val, 41)]
  | .vxImax _ k _ => [(383 - 12 * k.val, 378 - 12 * k.val, 42)]
  | .vxGset _ _ => [(383, 378, 63)]
  | .scanAdd _ _ => [(287, 285, 1)]
  | .scanMax _ _ => [(287, 285, 2)]
  | .scanMin _ _ => [(287, 285, 3)]
  | .scanMultiply _ _ => [(287, 285, 4)]
  | .scanAffinePair _ _ => [(287, 285, 5)]
  | .rsuSum _ _ => [(280, 278, 1)]
  | .rsuWelford _ _ => [(280, 278, 2)]
  | .rsuMaxArgmax _ _ => [(280, 278, 3)]
  | .rsuSoftmaxNormaliser _ _ => [(280, 278, 4)]
  | .rsuTopk _ _ => [(280, 278, 5)]
  | .rsuFinalise _ _ => [(280, 278, 6)]
  | .vernierLookup _ _ => [(255, 255, 1)]
  | .vernierSwap _ _ => [(245, 245, 1)]
  | .tableLoadValidate .. => []
  | .tableLoadHeldRelease .. => []
  | .bankLoadComplete .. => []
  | .dmaGranule .. => []
  | .faultSlotAcquire .. => []
  | .dmaTransferComplete .. => []
  | .streamItemLanded .. => []
  | .smallTransferComplete .. => []
  | .ringStoreArrive .. => []
  | .mcastTreeFault .. => []
  | .gmeProductJob .. => []
  | .gmeBankedDrain .. => []
  | .gmeRowScatterAdd .. => []
  | .gmeHashDrain .. => []
  | .gmeRoundDeliver .. => []
  | .gmeRoundHandback .. => []
  | .puuUpdate .. => []
  | .puuCoefLoad .. => []
  | .puuReleaseHold .. => []
  | .flitReceive .. => []
  | .nakReceive .. => []
  | .hopTimeout .. => []
  | .laneErrorThreshold .. => []
  | .linkRecoveryTest .. => []
  | .channelAbandonNotice .. => []
  | .bulkHoldExpire .. => []
  | .linkSignalFound .. => []
  | .linkTrainingRetry .. => []
  | .linkTrainingDone .. => []
  | .linkIdentityReceived .. => []
  | .reductionIssue .. => []
  | .reductionCodeFlit .. => []
  | .reductionSegmentReceive .. => []
  | .reductionSegmentAccepted .. => []
  | .reductionRetryRequest .. => []
  | .reductionAbortReceive .. => []
  | .reductionComplete .. => []
  | .reductionHoldExpire .. => []
  | .holdUpCharged .. => []
  | .phaseRebalanceDone .. => []
  | .spareTakeoverEnd .. => []
  | .pcieLinkTrained .. => []
  | .aerUncorrectableError .. => []
  | .powerStateD0 .. => []

/-- The 512-bit operand of a command; zero for one that has none. -/
def Instr.bits : Instr → Word512
  | .launch _ w => w
  | .segmentLoad _ w => w
  | .preemptImmediate _ w => w
  | .preemptAtYield _ w => w
  | .preemptYieldTimeout .. => 0
  | .dieDrainEnd .. => 0
  | .contextSaveComplete .. => 0
  | .resume _ w => w
  | .contextComplete .. => 0
  | .msixTimerExpire .. => 0
  | .msixVectorUnmask .. => 0
  | .dmaFlat _ w => w
  | .dmaTransferRecord _ w => w
  | .mapLeaves _ w => w
  | .mapTablePointer _ w => w
  | .unmap _ w => w
  | .descCreate _ w => w
  | .descDestroy _ w => w
  | .redSetup _ w => w
  | .wpTake _ w => w
  | .wpReserve _ w => w
  | .wpRelease _ w => w
  | .wpRestoreHost _ w => w
  | .wpRestoreBuddy _ w => w
  | .waypointDeclarationTaken .. => 0
  | .waypointCopyStart .. => 0
  | .waypointSeal .. => 0
  | .buddyRegionRequest .. => 0
  | .latTolDevice _ w => w
  | .latTolRole _ w => w
  | .latTolContext _ w => w
  | .pwrGrant _ w => w
  | .mctpGrantSet .. => 0
  | .mctpGrantReportRead .. => 0
  | .grantLapse .. => 0
  | .fwBlock _ w => w
  | .fwCommit _ w => w
  | .fwAbort _ w => w
  | .handoverComplete .. => 0
  | .handoverTimeout .. => 0
  | .attestSpdm _ w => w
  | .attestDebugUnlock _ w => w
  | .getVersion .. => 0
  | .getCapabilities .. => 0
  | .negotiateAlgorithms .. => 0
  | .getDigests .. => 0
  | .getCertificate .. => 0
  | .challenge .. => 0
  | .getMeasurements .. => 0
  | .keyExchange .. => 0
  | .finish .. => 0
  | .heartbeat .. => 0
  | .keyUpdate .. => 0
  | .endSession .. => 0
  | .ideKmRequest .. => 0
  | .spdmUnsupportedRequest .. => 0
  | .debugRequest .. => 0
  | .ctrCfg _ w => w
  | .configApply _ w => w
  | .resetWarm _ w => w
  | .resetDie _ w => w
  | .resetLinkPort _ w => w
  | .dieSelfTestDone .. => 0
  | .commandFetch .. => 0
  | .fenceRelease .. => 0
  | .submissionDoorbell .. => 0
  | .consumerDoorbell .. => 0
  | .ringEnable .. => 0
  | .ringDisable .. => 0
  | .hostRequestError .. => 0
  | .barUnsupportedAccess .. => 0
  | .registerWrite .. => 0
  | .hazardMonitorEnable .. => 0
  | .mcastForceChain .. => 0
  | .channelBind .. => 0
  | .channelAbandonClear .. => 0
  | .szlIdWrite .. => 0
  | .ownerLockSet .. => 0
  | .ownerLockClear .. => 0
  | .debugNonceRead .. => 0
  | .busMasterEnableChange .. => 0
  | .d3hotRequest .. => 0
  | .configRequestRetry .. => 0
  | .functionLevelReset .. => 0
  | .hotReset .. => 0
  | .pcieLinkDown .. => 0
  | .perstAssert .. => 0
  | .mrstPulse .. => 0
  | .perstDeassert .. => 0
  | .coldStart .. => 0
  | .inputQualified .. => 0
  | .dieIdentityTimeout .. => 0
  | .inputLossEnBreak .. => 0
  | .inputVoltageLoss .. => 0
  | .efuseTrip .. => 0
  | .efuseRetry .. => 0
  | .holdupTest .. => 0
  | .leakDetect .. => 0
  | .cablePresenceChange .. => 0
  | .reverseFlowDetect .. => 0
  | .forwardFlowRestored .. => 0
  | .powerSample .. => 0
  | .powerWindow .. => 0
  | .reclaimWindow .. => 0
  | .powerReport .. => 0
  | .droopDetect .. => 0
  | .droopClear .. => 0
  | .rampResume .. => 0
  | .thermalSample .. => 0
  | .thermalThrottleStep .. => 0
  | .coolantSample .. => 0
  | .powerPhaseFail .. => 0
  | .idleStateEnter .. => 0
  | .idleStateWake .. => 0
  | .stackWakeComplete .. => 0
  | .stackOffExit .. => 0
  | .patrolScrubRead .. => 0
  | .burstReread .. => 0
  | .nextWord _ w => w
  | .skipLimitReached .. => 0
  | .loopEnd _ w => w
  | .jump _ w => w
  | .branchIfSet _ w => w
  | .branchIfClear _ w => w
  | .call _ w => w
  | .returnWord _ w => w
  | .bankSwitch _ w => w
  | .endWord _ w => w
  | .loopCountLoad _ w => w
  | .vlenLoad _ w => w
  | .dieBarrier _ w => w
  | .contextBarrier _ w => w
  | .barrierResolve .. => 0
  | .semaphoreWait _ w => w
  | .semWaitResolve .. => 0
  | .semaphoreSignal _ w => w
  | .remoteSignal _ w => w
  | .remoteSignalArrive .. => 0
  | .streamTrigger _ w => w
  | .smallTransfer _ w => w
  | .yield _ w => w
  | .flagLoadAny _ w => w
  | .flagLoadAll _ w => w
  | .flagResolution .. => 0
  | .counterRead _ w => w
  | .skipCountRead _ w => w
  | .controlWordParityError .. => 0
  | .wordRedelivered .. => 0
  | .mxuCompute _ w => w
  | .stationaryLoad _ w => w
  | .stationaryLoadTransposed _ w => w
  | .transposeRowWrite _ w => w
  | .accumulatorDrain _ w => w
  | .tileReread .. => 0
  | .mxuSelfTestDone .. => 0
  | .vxPass _ _ w => w
  | .vxMul _ _ w => w
  | .vxAdd _ _ w => w
  | .vxSub _ _ w => w
  | .vxRsub _ _ w => w
  | .vxFmai _ _ w => w
  | .vxFnmai _ _ w => w
  | .vxMin _ _ w => w
  | .vxMax _ _ w => w
  | .vxAbs _ _ w => w
  | .vxNeg _ _ w => w
  | .vxClamp _ _ w => w
  | .vxCmpeq _ _ w => w
  | .vxCmpne _ _ w => w
  | .vxCmplt _ _ w => w
  | .vxCmple _ _ w => w
  | .vxCmpgt _ _ w => w
  | .vxCmpge _ _ w => w
  | .vxSelect _ _ w => w
  | .vxFloor _ _ w => w
  | .vxCeil _ _ w => w
  | .vxRint _ _ w => w
  | .vxTrunc _ _ w => w
  | .vxFtoi _ _ w => w
  | .vxItof _ _ w => w
  | .vxIadd _ _ w => w
  | .vxIsub _ _ w => w
  | .vxImul _ _ w => w
  | .vxAnd _ _ w => w
  | .vxOr _ _ w => w
  | .vxXor _ _ w => w
  | .vxShl _ _ w => w
  | .vxShr _ _ w => w
  | .vxSar _ _ w => w
  | .vxImin _ _ w => w
  | .vxImax _ _ w => w
  | .vxGset _ w => w
  | .scanAdd _ w => w
  | .scanMax _ w => w
  | .scanMin _ w => w
  | .scanMultiply _ w => w
  | .scanAffinePair _ w => w
  | .rsuSum _ w => w
  | .rsuWelford _ w => w
  | .rsuMaxArgmax _ w => w
  | .rsuSoftmaxNormaliser _ w => w
  | .rsuTopk _ w => w
  | .rsuFinalise _ w => w
  | .vernierLookup _ w => w
  | .vernierSwap _ w => w
  | .tableLoadValidate .. => 0
  | .tableLoadHeldRelease .. => 0
  | .bankLoadComplete .. => 0
  | .dmaGranule .. => 0
  | .faultSlotAcquire .. => 0
  | .dmaTransferComplete .. => 0
  | .streamItemLanded .. => 0
  | .smallTransferComplete .. => 0
  | .ringStoreArrive .. => 0
  | .mcastTreeFault .. => 0
  | .gmeProductJob .. => 0
  | .gmeBankedDrain .. => 0
  | .gmeRowScatterAdd .. => 0
  | .gmeHashDrain .. => 0
  | .gmeRoundDeliver .. => 0
  | .gmeRoundHandback .. => 0
  | .puuUpdate .. => 0
  | .puuCoefLoad .. => 0
  | .puuReleaseHold .. => 0
  | .flitReceive .. => 0
  | .nakReceive .. => 0
  | .hopTimeout .. => 0
  | .laneErrorThreshold .. => 0
  | .linkRecoveryTest .. => 0
  | .channelAbandonNotice .. => 0
  | .bulkHoldExpire .. => 0
  | .linkSignalFound .. => 0
  | .linkTrainingRetry .. => 0
  | .linkTrainingDone .. => 0
  | .linkIdentityReceived .. => 0
  | .reductionIssue .. => 0
  | .reductionCodeFlit .. => 0
  | .reductionSegmentReceive .. => 0
  | .reductionSegmentAccepted .. => 0
  | .reductionRetryRequest .. => 0
  | .reductionAbortReceive .. => 0
  | .reductionComplete .. => 0
  | .reductionHoldExpire .. => 0
  | .holdUpCharged .. => 0
  | .phaseRebalanceDone .. => 0
  | .spareTakeoverEnd .. => 0
  | .pcieLinkTrained .. => 0
  | .aerUncorrectableError .. => 0
  | .powerStateD0 .. => 0

/-- Field [hi:lo] of the operand. -/
def Instr.field (i : Instr) (hi lo : Nat) : Nat := (i.bits.toNat >>> lo) % 2 ^ (hi + 1 - lo)

/-- A flit carries its LEN bytes, at most 224 (16 Table 16-1). -/
def Flit.inRange (f : Flit) : Bool :=
  let len := (f.header.toNat >>> 43) % 256
  decide (len ≤ 224) && decide (len ≤ f.payload.length) && decide (f.payload.length ≤ 224)

/-- A mark names a value that the core has (07 Table 7-1, 09:R205, 10:R225). -/
def BadMark.inRange : BadMark → Bool
  | .stat l r => decide (l < 128) && decide (r < 128)
  | .statScale l g => decide (l < 128) && decide (g < 4)
  | .tile r b => decide (r < 64) && decide (b < 64)
  | .abuf b => decide (b < 64)
  | .acc r l => decide (r < 1024) && decide (l < 128)
  | .carry => true
  | .rsu k => decide (k < 4)
  | .table b _ o => decide (b < 2) && decide (o < 16384)
  | .store o => decide (o < 16384)

/-- A struck value is one that the die has (11:R242, R243, 12:R261). -/
def Struck.inRange : Struck → Bool
  | .core _ m => m.inRange
  | .gmeElem _ _ => true
  | .gmeSeg _ _ p e => decide (p < 16) && decide (e < 16)
  | .gmeHash _ _ e => decide (e < 16)
  | .coef _ t f => decide (t < 256) && decide (f < 10)
  | .puuBuf _ k e => decide (k < 4) && decide (e < 4096)

/-- The operands of a row beyond their widths. -/
def Instr.ranged : Instr → Bool
  | .launch .. => true
  | .segmentLoad .. => true
  | .preemptImmediate .. => true
  | .preemptAtYield .. => true
  | .preemptYieldTimeout .. => true
  | .dieDrainEnd .. => true
  | .contextSaveComplete .. => true
  | .resume .. => true
  | .contextComplete .. => true
  | .msixTimerExpire .. => true
  | .msixVectorUnmask .. => true
  | .dmaFlat .. => true
  | .dmaTransferRecord .. => true
  | .mapLeaves .. => true
  | .mapTablePointer .. => true
  | .unmap .. => true
  | .descCreate .. => true
  | .descDestroy .. => true
  | .redSetup .. => true
  | .wpTake .. => true
  | .wpReserve .. => true
  | .wpRelease .. => true
  | .wpRestoreHost .. => true
  | .wpRestoreBuddy .. => true
  | .waypointDeclarationTaken .. => true
  | .waypointCopyStart .. => true
  | .waypointSeal .. => true
  | .buddyRegionRequest _ _ w _ data => !w || decide (0 < data.length)
  | .latTolDevice .. => true
  | .latTolRole .. => true
  | .latTolContext .. => true
  | .pwrGrant .. => true
  | .mctpGrantSet .. => true
  | .mctpGrantReportRead .. => true
  | .grantLapse .. => true
  | .fwBlock .. => true
  | .fwCommit .. => true
  | .fwAbort .. => true
  | .handoverComplete .. => true
  | .handoverTimeout .. => true
  | .attestSpdm .. => true
  | .attestDebugUnlock .. => true
  | .getVersion .. => true
  | .getCapabilities .. => true
  | .negotiateAlgorithms .. => true
  | .getDigests .. => true
  | .getCertificate .. => true
  | .challenge .. => true
  | .getMeasurements .. => true
  | .keyExchange .. => true
  | .finish .. => true
  | .heartbeat .. => true
  | .keyUpdate .. => true
  | .endSession .. => true
  | .ideKmRequest .. => true
  | .spdmUnsupportedRequest .. => true
  | .debugRequest .. => true
  | .ctrCfg .. => true
  | .configApply .. => true
  | .resetWarm .. => true
  | .resetDie .. => true
  | .resetLinkPort .. => true
  | .dieSelfTestDone .. => true
  | .commandFetch .. => true
  | .fenceRelease .. => true
  | .submissionDoorbell .. => true
  | .consumerDoorbell .. => true
  | .ringEnable .. => true
  | .ringDisable .. => true
  | .hostRequestError .. => true
  | .barUnsupportedAccess off _ => decide (off < 8388608)
  | .registerWrite off wide _ => decide (off < 8388608) && off % (if wide then 8 else 4) == 0
  | .hazardMonitorEnable .. => true
  | .mcastForceChain .. => true
  | .channelBind .. => true
  | .channelAbandonClear .. => true
  | .szlIdWrite .. => true
  | .ownerLockSet .. => true
  | .ownerLockClear .. => true
  | .debugNonceRead .. => true
  | .busMasterEnableChange .. => true
  | .d3hotRequest .. => true
  | .configRequestRetry .. => true
  | .functionLevelReset .. => true
  | .hotReset .. => true
  | .pcieLinkDown .. => true
  | .perstAssert .. => true
  | .mrstPulse .. => true
  | .perstDeassert .. => true
  | .coldStart .. => true
  | .inputQualified vin _ => decide (400 ≤ vin.toNat) && decide (vin.toNat ≤ 600)
  | .dieIdentityTimeout .. => true
  | .inputLossEnBreak .. => true
  | .inputVoltageLoss .. => true
  | .efuseTrip .. => true
  | .efuseRetry .. => true
  | .holdupTest .. => true
  | .leakDetect .. => true
  | .cablePresenceChange .. => true
  | .reverseFlowDetect .. => true
  | .forwardFlowRestored .. => true
  | .powerSample .. => true
  | .powerWindow avg peak => decide (avg ≤ peak)
  | .reclaimWindow .. => true
  | .powerReport .. => true
  | .droopDetect .. => true
  | .droopClear .. => true
  | .rampResume .. => true
  | .thermalSample .. => true
  | .thermalThrottleStep .. => true
  | .coolantSample .. => true
  | .powerPhaseFail .. => true
  | .idleStateEnter .. => true
  | .idleStateWake .. => true
  | .stackWakeComplete .. => true
  | .stackOffExit .. => true
  | .patrolScrubRead _ _ f => (f.errs.map (·.1)).Nodup && f.arisen.all fun a => (a.2.map (·.1)).Nodup
  | .burstReread .. => true
  | .nextWord .. => true
  | .skipLimitReached .. => true
  | .loopEnd .. => true
  | .jump .. => true
  | .branchIfSet .. => true
  | .branchIfClear .. => true
  | .call .. => true
  | .returnWord .. => true
  | .bankSwitch .. => true
  | .endWord .. => true
  | .loopCountLoad .. => true
  | .vlenLoad .. => true
  | .dieBarrier .. => true
  | .contextBarrier .. => true
  | .barrierResolve .. => true
  | .semaphoreWait .. => true
  | .semWaitResolve .. => true
  | .semaphoreSignal .. => true
  | .remoteSignal .. => true
  | .remoteSignalArrive .. => true
  | .streamTrigger .. => true
  | .smallTransfer .. => true
  | .yield .. => true
  | .flagLoadAny .. => true
  | .flagLoadAll .. => true
  | .flagResolution .. => true
  | .counterRead .. => true
  | .skipCountRead .. => true
  | .controlWordParityError _ _ w => w.struck.all Struck.inRange
  | .wordRedelivered .. => true
  | .mxuCompute .. => true
  | .stationaryLoad .. => true
  | .stationaryLoadTransposed .. => true
  | .transposeRowWrite .. => true
  | .accumulatorDrain .. => true
  | .tileReread .. => true
  | .mxuSelfTestDone .. => true
  | .vxPass .. => true
  | .vxMul .. => true
  | .vxAdd .. => true
  | .vxSub .. => true
  | .vxRsub .. => true
  | .vxFmai .. => true
  | .vxFnmai .. => true
  | .vxMin .. => true
  | .vxMax .. => true
  | .vxAbs .. => true
  | .vxNeg .. => true
  | .vxClamp .. => true
  | .vxCmpeq .. => true
  | .vxCmpne .. => true
  | .vxCmplt .. => true
  | .vxCmple .. => true
  | .vxCmpgt .. => true
  | .vxCmpge .. => true
  | .vxSelect .. => true
  | .vxFloor .. => true
  | .vxCeil .. => true
  | .vxRint .. => true
  | .vxTrunc .. => true
  | .vxFtoi .. => true
  | .vxItof .. => true
  | .vxIadd .. => true
  | .vxIsub .. => true
  | .vxImul .. => true
  | .vxAnd .. => true
  | .vxOr .. => true
  | .vxXor .. => true
  | .vxShl .. => true
  | .vxShr .. => true
  | .vxSar .. => true
  | .vxImin .. => true
  | .vxImax .. => true
  | .vxGset .. => true
  | .scanAdd .. => true
  | .scanMax .. => true
  | .scanMin .. => true
  | .scanMultiply .. => true
  | .scanAffinePair .. => true
  | .rsuSum .. => true
  | .rsuWelford .. => true
  | .rsuMaxArgmax .. => true
  | .rsuSoftmaxNormaliser .. => true
  | .rsuTopk .. => true
  | .rsuFinalise .. => true
  | .vernierLookup .. => true
  | .vernierSwap .. => true
  | .tableLoadValidate _ _ _ b => decide (b.length ≤ 131072)
  | .tableLoadHeldRelease .. => true
  | .bankLoadComplete .. => true
  | .dmaGranule .. => true
  | .faultSlotAcquire .. => true
  | .dmaTransferComplete .. => true
  | .streamItemLanded .. => true
  | .smallTransferComplete .. => true
  | .ringStoreArrive _ _ st => decide (0 < st.data.length)
  | .mcastTreeFault .. => true
  | .gmeProductJob .. => true
  | .gmeBankedDrain .. => true
  | .gmeRowScatterAdd .. => true
  | .gmeHashDrain .. => true
  | .gmeRoundDeliver .. => true
  | .gmeRoundHandback .. => true
  | .puuUpdate .. => true
  | .puuCoefLoad .. => true
  | .puuReleaseHold .. => true
  | .flitReceive _ f _ => f.inRange
  | .nakReceive .. => true
  | .hopTimeout .. => true
  | .laneErrorThreshold .. => true
  | .linkRecoveryTest .. => true
  | .channelAbandonNotice .. => true
  | .bulkHoldExpire .. => true
  | .linkSignalFound .. => true
  | .linkTrainingRetry .. => true
  | .linkTrainingDone .. => true
  | .linkIdentityReceived .. => true
  | .reductionIssue .. => true
  | .reductionCodeFlit _ f => f.inRange
  | .reductionSegmentReceive _ f => f.inRange
  | .reductionSegmentAccepted _ f => f.inRange
  | .reductionRetryRequest _ f => f.inRange
  | .reductionAbortReceive _ f => f.inRange
  | .reductionComplete .. => true
  | .reductionHoldExpire .. => true
  | .holdUpCharged .. => true
  | .phaseRebalanceDone .. => true
  | .spareTakeoverEnd .. => true
  | .pcieLinkTrained .. => true
  | .aerUncorrectableError .. => true
  | .powerStateD0 .. => true

/-- A command is well formed. -/
def Instr.wf (i : Instr) : Bool :=
  (i.fixed.all fun b => i.field b.1 b.2.1 == b.2.2) && i.ranged

end Sys2Proof
end

