-- ==== Sys2Proof/Config.lean ====
section
/-! DEFINITION. What the spec leaves to the part or to outside standards: opaque values with no body. -/

namespace Sys2Proof.Config

/-- The package bytes of the built-in Vernier store, which the manual does not give (10:R220). -/
opaque builtinStore : List Byte

/-- Hub time between two records, as a free value for each of them (00:R16, log 2, DESIGN CHOICE). -/
opaque elapsed : Nat → Word64

/-- Whether the host applied the byte at an address of a write request that failed (18:R493, log 101, DESIGN CHOICE): draw and address. -/
opaque hostApplied : (draw address : Nat) → Bool

/-- What a counter of durations, of stretched steps or of TLPs reads (22 Table 22-1, log 102, DESIGN CHOICE): by counter and draw. -/
opaque timed : (counter draw : Nat) → Word64

/-- Random nonces and challenges (21:R435, R440), one for each draw (log 2, DESIGN CHOICE). -/
opaque nonce : Nat → Word64

/-- Ed448 verification of a signature over a message under a key, by reference (21:R433). -/
opaque verifySig : (key msg sig : List Byte) → Bool

/-- The 32-byte seed in the fuses of each of the 100 dies, which the part fixes and nothing reads out (21:R433). -/
opaque dieSeed : (die : Nat) → BitVec 256

/-- Ed448 signature of a message under a private key, by reference to RFC 8032 (21:R433). -/
opaque ed448Sign : (key msg : List Byte) → List Byte

/-- The message that an SPDM response signs, by reference to SPDM 1.3 (21:R436, R437): request bytes, connection number and draw. -/
opaque spdmSigned : (request : List Byte) → (connection : Nat) → (draw : Nat) → List Byte

/-- The 32-byte challenge of the identity check: draw and die (21:R435, log 2, DESIGN CHOICE). -/
opaque challenge : (draw : Nat) → (die : Nat) → BitVec 256

/-- SHAKE256 of a message to a number of bytes, by reference (21:R433). -/
opaque shake256 : (len : Nat) → List Byte → List Byte

/-- A BXI tile built from elements of several tiles, a result the manual does not state: from its 4,096 integers and exponents. -/
opaque bxiBuilt : (elements : List (Nat × Nat)) → List Byte

/-- Scale byte that a GME supplies for an MX operand whose stored scale blocks do not run along the contraction (11:R238, log 31, DESIGN CHOICE):
element along the contraction, and row or column. -/
opaque gmeScale : (k i : Nat) → Byte

/-- The body of an SPDM response, by reference to SPDM 1.3 (21:R436): request bytes, connection number and draw. -/
opaque spdmResponse : (request : List Byte) → (connection : Nat) → (draw : Nat) → List Byte

/-- The fixed hash of source, destination and flow by which bulk traffic picks a link (16:R339): which of n. -/
opaque flowHash : (source dest flow n : Nat) → Nat

/-- Code that the enforcement loop lowers a setpoint to after a window average above the ceiling (19:R400), which the manual does
not give: from the average, the ceiling and the code; it is taken modulo the code, so it is lower. -/
opaque lowerTo : (avg ceil code : Nat) → Nat

/-- What the staging area holds after a reduce-scatter stage (17:R360), whose layout the manual does not give: from the width and the owned groups'
exponents and sums. -/
opaque staged : (width : Nat) → (groups : List (Nat × List Int)) → List Byte

/-- Length, in 64 KiB units, of the region that a buddy has reserved for this module, 0 for none (20:R427, log 15, DEDUCED): by the
buddy's position and the region's number. -/
opaque buddyLen : (pos region : Nat) → Nat

/-- The serial number of the module (21:R434, R440). -/
opaque hubSerial : Word64

/-- Firmware-signing public keys by KEYIDX, and the debug public key, in the boot ROM (21 Table 21-1). -/
opaque fwKey : (idx : Nat) → List Byte
opaque debugKey : List Byte

/-- Boot ROM contents (21 Table 21-3). -/
opaque bootRom : List Byte

/-- The element, as a position in index order, that clamping gives for position `j` of a block wholly out of bounds whose place the manual does not
say (06:R150, log 77). -/
opaque clampedTo : (entry j : Nat) → Nat

/-- RECADDR of the bank loader's progress record (14 Table 14-6): the manual names no record that a load runs. -/
opaque loaderRecord : (imgBase segment : Nat) → BitVec 48

/-- What the start-up that follows a commit in recovery finds (21:R441), by the number of draws so far: no command carries it. -/
opaque restart : (draw : Nat) → StartUp

/-- Start-up time in ms when READY waits for PERST# (23:R461), which no command carries: by draw. -/
opaque readyMs : (draw : Nat) → Nat

/-- LAST of HUB_RST_STAT after the restart that ends a commit in recovery: Table 23-2 has no code for it. -/
opaque restartCause : BitVec 4

/-- A hold-up bank below rating writes its power-loss record only while enough energy remains (24:R479): by draw. -/
opaque recordKept : (draw : Nat) → Bool

/-- Which engine of a condition whose source die the manual names and whose engine it does not (23 Table 23-9, 21:R435; log 99, DESIGN CHOICE):
by code and die. -/
opaque sourceEngine : (code die : Nat) → BitVec 8

/-- Error answer of the debug port while it is locked (21:R440), whose bytes the manual does not give. -/
opaque debugError : (request : List Byte) → List Byte

/-- Answer of the debug port within DCAPS (21:R440), which the manual does not give. -/
opaque debugAnswer : (request : List Byte) → (caps : Nat) → List Byte

end Sys2Proof.Config
end

