-- ==== Sys2Proof/Machine/Bits.lean ====
section
/-! DEFINITION. Bit fields, byte order, sparse memories in canonical form, and the checksums of 05:R123 and 05:R129. -/

namespace Sys2Proof.Machine

/-- Field of `len` bits of the number `n`, from bit `lo` up. -/
def natFld (n lo len : Nat) : Nat := (n >>> lo) % 2 ^ len

/-- Field [hi:lo] of a bit vector, as a number. -/
def fld {w : Nat} (x : BitVec w) (hi lo : Nat) : Nat := natFld x.toNat lo (hi + 1 - lo)

/-- Bit `i` of a bit vector. -/
def bit {w : Nat} (x : BitVec w) (i : Nat) : Bool := x.getLsbD i

/-- `x` with field [hi:lo] replaced by `v`. -/
def setFld {w : Nat} (x : BitVec w) (hi lo v : Nat) : BitVec w :=
  (x &&& ~~~ (BitVec.ofNat w ((2 ^ (hi + 1 - lo) - 1) <<< lo))) |||
    BitVec.ofNat w ((v % 2 ^ (hi + 1 - lo)) <<< lo)

/-- A field placed at bit `lo` of a number under construction: `put v lo len`. -/
def put (v lo len : Nat) : Nat := (v % 2 ^ len) <<< lo

/-- 1 for true. -/
def b2n (b : Bool) : Nat := if b then 1 else 0

/-- Two's-complement value of the low `w` bits of `n`. -/
def toSigned (w n : Nat) : Int :=
  let m := n % 2 ^ w
  if m < 2 ^ (w - 1) then (m : Int) else (m : Int) - (2 ^ w : Nat)

/-- The low `w` bits of an integer. -/
def wrapInt (w : Nat) (i : Int) : Nat := (i % (2 ^ w : Nat)).toNat

/-- Saturating count up to `mx`. -/
def satInc (mx n : Nat) (by_ : Nat := 1) : Nat := if n + by_ > mx then mx else n + by_

/-! ### Sparse maps in one canonical form -/

/-- The value at key `a`; a key the list does not hold reads as `d`. -/
def smGet {α : Type} (d : α) : List (Nat × α) → Nat → α
  | [], _ => d
  | (k, v) :: r, a => if a = k then v else if a < k then d else smGet d r a

/-- Writing key `a`; writing the default `d` removes the entry, so equal maps are equal lists. -/
def smPut {α : Type} [DecidableEq α] (d : α) : List (Nat × α) → Nat → α → List (Nat × α)
  | [], a, x => if x = d then [] else [(a, x)]
  | (k, v) :: r, a, x =>
    if a < k then (if x = d then (k, v) :: r else (a, x) :: (k, v) :: r)
    else if a = k then (if x = d then r else (a, x) :: r)
    else (k, v) :: smPut d r a x

/-- Keys strictly rising from above `lo`, and no entry equal to the default. -/
def smWf {α : Type} [DecidableEq α] (d : α) : Option Nat → List (Nat × α) → Bool
  | _, [] => true
  | lo, (k, v) :: r =>
    (match lo with | none => true | some l => decide (l < k)) && decide (v ≠ d) && smWf d (some k) r

/-- A byte memory: what it does not list reads as zero (log 4, DESIGN CHOICE). -/
abbrev Memory := List Host.Cell

/-- One byte read. -/
def Memory.read (m : Memory) (a : Nat) : Byte := smGet (0 : Byte) m a
/-- One byte written. -/
def Memory.write (m : Memory) (a : Nat) (x : Byte) : Memory := smPut (0 : Byte) m a x
/-- The canonical form of a memory. -/
def Memory.wf (m : Memory) : Bool := smWf (0 : Byte) none m

/-- `n` bytes from `a` upwards. -/
def Memory.readN (m : Memory) (a n : Nat) : List Byte := (List.range n).map fun i => m.read (a + i)
/-- Bytes written from `a` upwards. -/
def Memory.writeN (m : Memory) (a : Nat) : List Byte → Memory
  | [] => m
  | x :: r => Memory.writeN (m.write a x) (a + 1) r

/-- A memory of which only some of the bytes that `new` changes are changed. -/
def Memory.partly (old new : Memory) (on : Nat → Bool) : Memory :=
  ((old ++ new).map (·.1)).foldl (fun m a => if on a then m.write a (new.read a) else m) old

/-- The little-endian value of bytes (00:R12). -/
def leNat : List Byte → Nat
  | [] => 0
  | x :: r => x.toNat + 256 * leNat r

/-- The `n` little-endian bytes of a value. -/
def leBytes : Nat → Nat → List Byte
  | 0, _ => []
  | n + 1, v => BitVec.ofNat 8 v :: leBytes n (v / 256)

/-- `n` little-endian bytes at `a`, as a value. -/
def Memory.readLE (m : Memory) (a n : Nat) : Nat := leNat (m.readN a n)
/-- A value stored as `n` little-endian bytes. -/
def Memory.writeLE (m : Memory) (a n v : Nat) : Memory := m.writeN a (leBytes n v)

/-- Bytes `lo` to `lo + n - 1` of a list, zero past its end. -/
def bytesAt (l : List Byte) (lo n : Nat) : List Byte := (List.range n).map fun i => l.getD (lo + i) 0

/-- The value of `n` little-endian bytes of a list. -/
def leAt (l : List Byte) (lo n : Nat) : Nat := leNat (bytesAt l lo n)

/-- Element `i` of width `w` bits (8, 16, 32 or 4) of little-endian bytes. -/
def elemAt (l : List Byte) (w i : Nat) : Nat :=
  if w = 4 then natFld (l.getD (i / 2) 0).toNat (4 * (i % 2)) 4 else leAt l (i * (w / 8)) (w / 8)

/-- The number of 1 bits below bit `n`. -/
def popCount (x : Nat) : Nat → Nat
  | 0 => 0
  | n + 1 => popCount x n + (if x.testBit n then 1 else 0)

/-! ### Checksums -/

/-- One bit of the reflected CRC-32C, polynomial 0x1EDC_6F41 (05:R123); 0x82F6_3B78 is it reflected. -/
def crc32cBit (c : Nat) : Nat := if c % 2 = 1 then (c >>> 1) ^^^ 0x82F63B78 else c >>> 1

def crc32cByte (c : Nat) (x : Byte) : Nat :=
  crc32cBit (crc32cBit (crc32cBit (crc32cBit (crc32cBit (crc32cBit (crc32cBit (crc32cBit (c ^^^ x.toNat))))))))

/-- CRC-32C with initial value and final XOR 0xFFFF_FFFF (05:R123). -/
def crc32c (l : List Byte) : Nat := (l.foldl crc32cByte 0xFFFFFFFF) ^^^ 0xFFFFFFFF

def crc16Bit (c : Nat) : Nat := if c.testBit 15 then ((c <<< 1) % 65536) ^^^ 0x1021 else (c <<< 1) % 65536

def crc16Byte (c : Nat) (x : Byte) : Nat :=
  crc16Bit (crc16Bit (crc16Bit (crc16Bit (crc16Bit (crc16Bit (crc16Bit (crc16Bit (c ^^^ (x.toNat <<< 8)))))))))

/-- CRC-16, polynomial 0x1021 unreflected, initial value 0xFFFF, final XOR 0 (05:R123). -/
def crc16 (l : List Byte) : Nat := l.foldl crc16Byte 0xFFFF

def fletcherByte (p : Nat × Nat) (x : Byte) : Nat × Nat :=
  ((p.1 + x.toNat) % 255, (p.2 + (p.1 + x.toNat) % 255) % 255)

/-- The CBC checksum of 05:R129. -/
def fletcher (l : List Byte) : Nat := let p := l.foldl fletcherByte (0, 0); p.2 * 256 + p.1

/-- The list with element `i` replaced through `f`. -/
def updAt {α : Type} : List α → Nat → (α → α) → List α
  | [], _, _ => []
  | a :: r, 0, f => f a :: r
  | a :: r, n + 1, f => a :: updAt r n f

/-- The least of `d` and the numbers of a list. -/
def minOf (d : Nat) (l : List Nat) : Nat := l.foldl min d

end Sys2Proof.Machine
end

