-- ==== Sys2Proof/Machine/DieKeys.lean ====
section
/-! DEFINITION. The Ed448 keys of the dies and what their signing logic signs (21:R433, R435). -/

namespace Sys2Proof.Machine

/-- The ASCII string GELVOKIN-DRD1-DIEKEY. -/
def dieKeyName : List Byte :=
  [0x47, 0x45, 0x4C, 0x56, 0x4F, 0x4B, 0x49, 0x4E, 0x2D, 0x44, 0x52, 0x44, 0x31, 0x2D, 0x44, 0x49, 0x45, 0x4B, 0x45, 0x59]

/-- The Ed448 private key of a die: 57 bytes of SHAKE256 of its seed, the name and its package die index (21:R433). -/
def dieKey (n : Nat) : List Byte :=
  Config.shake256 57 (leBytes 32 (Config.dieSeed n).toNat ++ dieKeyName ++ [BitVec.ofNat 8 n])

/-- What a die's signing logic answers to a message. -/
def dieSign (n : Nat) (msg : List Byte) : List Byte := Config.ed448Sign (dieKey n) msg

/-- A die's answer to its challenge: a signature of the challenge followed by its die index (21:R435). -/
def dieAnswer (draw n : Nat) : List Byte := dieSign n (leBytes 32 (Config.challenge draw n).toNat ++ [BitVec.ofNat 8 n])

end Sys2Proof.Machine
end

