-- ==== Sys2Proof/Machine/StateCore.lean ====
section
/-! DEFINITION. The state of one core (01:R24, 02:R38, 03:R61, 05:R126, 07 Table 7-1, 08:R188, 09:R203-R205, 10:R225). -/

namespace Sys2Proof.Machine

/-- A scratchpad write not yet visible: steps since it was issued, and its bytes (02:R47). -/
structure PendWrite where
  age : Nat
  cells : List Host.Cell
  deriving DecidableEq, Repr

/-- An accumulator update of a compute word, not yet seen by drains (07:R169). -/
structure AccUpd where
  age : Nat
  row : Nat
  add : Bool
  vals : List Nat
  deriving DecidableEq, Repr

/-- Tile guard states (05 Table 5-6). -/
inductive GuardSt where
  | unverified
  | verified
  | local_
  deriving DecidableEq, Repr

/-- A tile guard slot; slots stand in order of registration (05:R126). -/
structure Guard where
  base : Nat
  size : Nat
  fmt : Nat
  st : GuardSt
  deriving DecidableEq, Repr

/-- Partial state of an RSU slot (09:R205). -/
inductive RsuPart where
  | empty
  | sum (s : Nat)
  | welford (n u q : Nat)
  | best (v i : Nat)
  | norm (m s : Nat)
  | topk (l : List (Nat × Nat))
  deriving DecidableEq, Repr

/-- One of the four RSU slots (09:R205, R206); operation 0 is none recorded. -/
structure RsuSlot where
  op : BitVec 3
  k : BitVec 7
  part : RsuPart
  n : BitVec 32
  q : BitVec 32
  deriving DecidableEq, Repr

def RsuSlot.init : RsuSlot := ⟨0, 0, .empty, 0, 0⟩

/-- The outputs that writing address generators take (03 Table 3-10 WSRC). -/
inductive OutUnit where
  | chain
  | vernier
  | scan
  | rsu
  | drain
  | status
  deriving DecidableEq, Repr

/-- One lane of a unit output: its 32 bits, type I or F, validity, and the value after the output conversion (08:R178, R181, R182). -/
structure Lane where
  v : Nat
  isInt : Bool
  valid : Bool
  out : Nat
  deriving DecidableEq, Repr

def Lane.zero : Lane := ⟨0, false, false, 0⟩

/-- A result in a pipeline: it presents when `left` steps have passed (02:R46, R496). -/
structure Flight where
  unit : OutUnit
  left : Nat
  lanes : List Lane
  /-- bytes of one stored element -/
  osize : Nat
  /-- PSET of that word (08:R185) -/
  pset : Bool
  /-- the 8-byte value of a status read (03:R74) -/
  status : Nat
  /-- a valid element saturated in FTOI or in the output conversion (08:R196) -/
  sat : Bool
  deriving DecidableEq, Repr

/-- Shadow states of a Vernier bank (10:R225). -/
inductive ShState where
  | empty
  | loading
  | ready
  | rejected
  | held
  deriving DecidableEq, Repr

/-- One Vernier table bank (10:R225); an empty list is the Empty image. -/
structure VBank where
  live : List Byte
  liveOk : Bool
  gen : BitVec 8
  shadow : List Byte
  sst : ShState
  reason : BitVec 8
  /-- bytes of a load that has arrived while Held (10:R227) -/
  arrived : List Byte
  /-- step of the last swap that exchanged the images (10:R227) -/
  swapped : Option (BitVec 48)
  deriving DecidableEq, Repr

def VBank.init : VBank := ⟨[], false, 0, [], .empty, 0, [], none⟩

/-- An entry of a control FIFO: the word, its skip mark, its address, and the value of its status read (03:R59, R74, R85). -/
structure FifoEntry where
  w : Word512
  skipped : Bool
  /-- bank and index of the word -/
  waddr : BitVec 17
  status : Nat
  /-- its parity fails at this core (03:R60) -/
  bad : Bool
  deriving DecidableEq, Repr

/-- A 128-byte scratchpad unit with an external write that is not yet ordered: where the write came from (a package die for that die's
transfers, 16 + k for ordered channel k, 255 for the host), and the semaphores that a signal of that origin has since reached (02:R48, R51). -/
structure Unord where
  unit : Nat
  org : Nat
  sems : List Nat
  deriving DecidableEq, Repr

/-- One core. Memories and sparse maps list only what differs from zero. -/
structure Core where
  /-- words executed, modulo 2^48 (02:R38) -/
  step : BitVec 48
  lc : Vector Word32 8
  lcStart : Vector Word32 8
  /-- words taken from the tree and not yet executed; the first has failed parity (03:R59, R60) -/
  fifo : List FifoEntry
  /-- the first word has been found with bad parity and awaits its re-delivery (03:R60) -/
  await : Bool
  /-- the step at which the core stopped at a split boundary (03:R76) -/
  split : Option (BitVec 48)
  /-- scratchpad, 4 MiB (13:R273) -/
  spad : Memory
  spadPend : List PendWrite
  guards : List Guard
  /-- external writes that no acquire has ordered yet (02:R48) -/
  unord : List Unord
  /-- stationary columns: byte 64·lane + b (07 Table 7-1) -/
  stat : Memory
  /-- stationary scales: byte 4·lane + group -/
  statScale : Memory
  statFmt : BitVec 3
  abuf : Memory
  /-- transpose register tile: byte 64·row + b -/
  ttile : Memory
  /-- accumulator: key 128·row + lane -/
  acc : List (Nat × Word32)
  accPend : List AccUpd
  carry : Word32
  carryPend : List (Nat × Word32)
  rsu : Vector RsuSlot 4
  vtab : Vector VBank 2
  vlen : BitVec 17
  pos : BitVec 17
  pred : BitVec 512
  genSeed : Vector Word64 512
  genCtr : Vector Word64 512
  /-- GSET words not yet in force: steps left, seed and base (08:R190) -/
  gsetPend : List (Nat × Word64 × Word64)
  flight : List Flight
  bad : List BadMark
  /-- the core raised 0x0601 in this launch, so its self-test runs at the end (07:R172) -/
  mxuFail : Bool
  deriving DecidableEq, Repr

/-- The launch state of a core (04:R103, 07:R168, 08:R188, 10:R225). -/
def Core.init : Core where
  step := 0
  lc := Vector.replicate 8 0
  lcStart := Vector.replicate 8 0
  fifo := []
  await := false
  split := none
  spad := []
  spadPend := []
  guards := []
  unord := []
  stat := []
  statScale := []
  statFmt := 0
  abuf := []
  ttile := []
  acc := []
  accPend := []
  carry := 0
  carryPend := []
  rsu := Vector.replicate 4 RsuSlot.init
  vtab := Vector.replicate 2 VBank.init
  vlen := 0
  pos := 0
  pred := 0
  genSeed := Vector.replicate 512 0
  genCtr := Vector.replicate 512 0
  gsetPend := []
  flight := []
  bad := []
  mxuFail := false

end Sys2Proof.Machine
end

