-- ==== Sys2Proof/Machine/StateMem.lean ====
section
/-! DEFINITION. The state of a memory stack and its channels (13). -/

namespace Sys2Proof.Machine

/-- Where a tile or block record is read that fails its verification (05:R125, R130): a tile or a record in memory, or a scratchpad tile. -/
inductive TileAt where
  | mem
  | cbc
  | pad
  deriving DecidableEq, Repr

/-- The bytes that the re-read of a tile returned, and which verified (05:R127). -/
structure Reread where
  at_ : TileAt
  addr : Nat
  bytes : List Byte
  deriving DecidableEq, Repr

/-- Channel states (13 Table 13-3). -/
inductive ChSt where
  | healthy
  | degraded
  | critical
  | failed
  deriving DecidableEq, Repr

/-- One of the 256 channels of a stack (13 Table 13-2). -/
structure Chan where
  st : ChSt
  spused : BitVec 2
  /-- erasure positions in order of marking -/
  eras : List (BitVec 7)
  corr : BitVec 24
  /-- bursts decoded since the last via test -/
  seen : Nat
  /-- which of them had unmarked positions corrected, among the last 256 (13:R281) -/
  hist : List (Nat × List (BitVec 7))
  /-- 0x0B01 raised since the last via test (13:R282) -/
  told : Bool
  deriving DecidableEq, Repr

def Chan.init : Chan := ⟨.healthy, 0, [], 0, 0, [], false⟩

/-- Memory stack states (13 Table 13-7). -/
inductive MSt where
  | on
  | retention
  | off
  deriving DecidableEq, Repr

/-- One stack: 4 GiB, 256 channels (13:R276). -/
structure Stack where
  mem : Memory
  chans : Vector Chan 256
  /-- bursts whose codeword is uncorrectable until wholly rewritten (13:R285), by stack offset / 64 -/
  bad : List Nat
  /-- symbol errors that stand in a burst, by stack offset / 64: symbol and the value by which it is wrong (13:R278, log 68) -/
  errs : List (Nat × List (Nat × Nat))
  ueCount : BitVec 16
  ueBurst : BitVec 26
  scrub : BitVec 16
  mst : MSt
  deriving DecidableEq, Repr

def Stack.init : Stack := ⟨[], Vector.replicate 256 Chan.init, [], [], 0, 0, 16, .on⟩

end Sys2Proof.Machine
end

