-- ==== Sys2Proof/Machine/StateDie.lean ====
section
/-! DEFINITION. The state of one compute die and of the context on it (02-06, 11, 12, 14, 15). -/

namespace Sys2Proof.Machine

/-! ### Agents -/

/-- Why an agent does not run: at a translation fault (14:R299, R300), at a burst or tile that awaits its one
re-read (13:R284, 05:R127), or stopped by a failure that persists (STATE 0x4 of 14 Table 14-6). -/
inductive Stall where
  | run
  | fault (va kind level access : Nat) (slot : Option (Fin 64))
  | burst (stack burst : Nat)
  /-- a tile awaits its re-read, in the format that its reader expects; `got` are tiles of the granule whose re-reads have verified -/
  | tile (at_ : TileAt) (addr fmt : Nat) (got : List Reread)
  /-- every re-read so far has verified: the granule goes on with these bytes -/
  | passed (got : List Reread)
  /-- a map command covers the faulting address: the granule is tried again, with the fault slot still held (14:R300, R301) -/
  | retry (va kind level access : Nat) (slot : Option (Fin 64))
  /-- the agent stands at another item's fault, and an agent has one fault outstanding: this item tries again when that one has ended (14:R300) -/
  | behind
  | failed
  deriving DecidableEq, Repr

/-! ### Helm (03:R56, 04:R94) -/

/-- STATE of CD_HELM_STAT (03 Table 3-1). -/
inductive HelmSt where
  | idle
  | issuing
  | fifoFull
  | waitBank
  | waitFlag
  | preempting
  | stopped
  deriving DecidableEq, Repr

/-- Why Helm holds a fetched word (03:R66-R68, R71, R73, 02:R52). -/
inductive HeldWhy where
  | bank
  | flag
  | fifo
  | sem
  | dieBar
  | ctxBar
  deriving DecidableEq, Repr

/-- A flag load of the last 128 words (03:R73), and what the cores have read; older ones are folded into HF. -/
structure FlagPend where
  flag : BitVec 3
  all : Bool
  step : BitVec 48
  /-- values read so far by active cores -/
  votes : List (Nat × Nat)
  deriving DecidableEq, Repr

/-- Helm as it stood before it issued a word; a die that stops at a split boundary issues again from there (03:R60, R76). -/
structure HelmSnap where
  w : Word512
  bank : BitVec 1
  index : BitVec 17
  lc : Vector Word32 8
  lcStart : Vector Word32 8
  stack : List (BitVec 18)
  skips : BitVec 9
  step : BitVec 48
  epoch : BitVec 16
  statFmt : BitVec 3
  /-- the segments that the two banks held -/
  segs : List (Option (BitVec 12))
  deriving DecidableEq, Repr

structure Helm where
  st : HelmSt
  bank : BitVec 1
  /-- index of the next word; 65,536 is one past the bank -/
  index : BitVec 17
  lc : Vector Word32 8
  lcStart : Vector Word32 8
  /-- return stack, latest first: bank in bit 17, index below -/
  stack : List (BitVec 18)
  hf : BitVec 8
  flags : List FlagPend
  skips : BitVec 9
  step : BitVec 48
  epoch : BitVec 16
  /-- the last 64 issued words, latest first (03:R60) -/
  replay : List HelmSnap
  /-- the stationary format that R77 compares -/
  statFmt : BitVec 3
  held : Option (Word512 × HeldWhy)
  /-- the word at this step has had its barrier resolved (02:R52) -/
  resolved : Option (BitVec 48)
  /-- words before this step are issued again after a split boundary; what they waited for is resolved (03:R76) -/
  redo : Option (BitVec 48)
  deriving DecidableEq, Repr

def Helm.init : Helm where
  st := .idle
  bank := 0
  index := 0
  lc := Vector.replicate 8 0
  lcStart := Vector.replicate 8 0
  stack := []
  hf := 0
  flags := []
  skips := 0
  step := 0
  epoch := 0
  replay := []
  statFmt := 0
  held := none
  resolved := none
  redo := none

/-- One instruction-memory bank (03:R56, 04 Table 4-3). -/
structure IBank where
  valid : Bool
  loading : Bool
  drv : Bool
  seg : BitVec 12
  loaded : BitVec 17
  words : BitVec 17
  code : List (Nat × Word512)
  deriving DecidableEq, Repr

def IBank.init : IBank := ⟨false, false, false, 0xFFF, 0, 0, []⟩

/-- A request to the bank loader (04:R95, R96): the outstanding command that made it, if the driver did. -/
structure LoadReq where
  bank : BitVec 1
  seg : BitVec 12
  drv : Bool
  held : Bool
  started : Bool
  next : Nat
  retried : Bool
  cmd : Option Nat
  stall : Stall
  /-- the segment whose successor is asked for, when its table entry could not be read at the switch; the loader reads it first (04:R95) -/
  after : Option (BitVec 12)
  deriving DecidableEq, Repr

/-! ### Movement (15) -/

/-- A transfer of an issue or fetch stream (15:R314). -/
structure Xfer where
  id : Nat
  stream : Fin 64
  item : Nat
  core : Nat
  rank : Nat
  /-- the transfer record and the descriptors as the transfer started with them (06:R136) -/
  rcd : Word512
  srcD : Word512
  dstD : Word512
  lst : Word512
  /-- the destination's window record, zero for none (06:R148) -/
  win : Word512
  origin : List Int
  /-- scratchpad byte address of this item -/
  sp : Nat
  /-- scratchpad sources as their trigger steps left them (02:R50): core and bytes -/
  snap : List (Nat × List Byte)
  /-- for a rotate, the guard slots of each source (15:R326) -/
  snapGuards : List (Nat × List Guard)
  next : Nat
  total : Nat
  stall : Stall
  /-- the transfer is dropped whole: it stands for its item until that completes in item order (06:R136, 15:R322) -/
  dropped : Bool
  /-- it began in chain form (15:R325) -/
  chained : Bool
  /-- a ring store's channel and how many of the channel's flits the neighbour must have acknowledged (15:R323) -/
  ack : Option (Nat × Nat)
  deriving DecidableEq, Repr

/-- A small transfer of one word: what each served core still has to write (15:R321). -/
structure Small where
  id : Nat
  /-- step count of its word -/
  step : Nat
  /-- slot of its record -/
  slot : Nat
  rcd : Word512
  parts : List (Nat × Nat × List Byte)
  stall : Stall
  /-- it has been written; a ring store then waits for the neighbour's acknowledgement, as `Xfer.ack` has it (15:R323) -/
  sent : Bool
  ack : Option (Nat × Nat)
  deriving DecidableEq, Repr

/-- A bound stream (15:R316-R320). -/
structure StreamSt where
  slot : BitVec 12
  rcd : Word512
  isOpen : Bool
  /-- triggers executed by each core -/
  trig : List (Nat × Nat)
  /-- items issued for each core -/
  issued : List (Nat × Nat)
  /-- items landed or completed for each core -/
  landed : List (Nat × Nat)
  /-- items whose semaphore has been signalled -/
  signalled : Nat
  /-- jobs or commands started (MODE 0x3 and 0x4) -/
  started : Nat
  /-- Q that set the slot pitch of a GME stream (11:R238) -/
  q : Option Nat
  /-- step of the word that last started a job of a GME stream (15:R320) -/
  lastStart : Option (BitVec 48)
  /-- what a rotate takes of each core at its own trigger (15:R315): item, core, bytes and guard slots -/
  snaps : List (Nat × Nat × List Byte × List Guard)
  deriving DecidableEq, Repr

/-- A signal that waits for its release condition (02:R51, 03:R69, R70). -/
structure PendSig where
  /-- target die of the package, or a link, channel and die of the neighbour -/
  remote : Option (Nat × Nat)
  die : Nat
  sem : BitVec 6
  amount : Nat
  /-- step count of the signalling word: every healthy core must have executed it -/
  step : BitVec 48
  waits : List Nat
  deriving DecidableEq, Repr

/-! ### GME (11) -/

/-- A round of a product job (11:R237). -/
structure Round where
  /-- the stream and the job that it belongs to -/
  stream : Fin 64
  job : Nat
  /-- core-in-die that takes it -/
  core : Nat
  slice : Nat
  cgroup : Nat
  strips : List Nat
  last : Bool
  status : BitVec 8
  /-- transfer number of the hand-back -/
  id : Nat
  deriving DecidableEq, Repr

/-- A GME job (11:R233); `addr` is where its record lies. -/
structure GJob where
  id : Nat
  stream : Fin 64
  addr : Nat
  rcd : Word512
  /-- its slots, and the window record of DEST, as they stood at the job's start (06:R136) -/
  slotA : Word512
  slotB : Word512
  win : Word512
  /-- the record has been read, or is not read because it lies elsewhere than in the local stack (11:R233) -/
  known : Bool
  foreign : Bool
  /-- it has been validated -/
  started : Bool
  /-- a product has dealt its rounds; a scatter-add has set up its table -/
  dealt : Bool
  /-- cores that have handed back a LASTW round (11:R237) -/
  lastw : List Nat
  /-- rounds not yet delivered, in order -/
  todo : List Round
  /-- next granule of a drain or scatter-add -/
  next : Nat
  stall : Stall
  deriving DecidableEq, Repr

/-- The window of the banked accumulator (11:R241, R245). -/
structure GWin where
  r0 : Nat
  c0 : Nat
  rb : Nat
  cb : Nat
  e : Int
  deriving DecidableEq, Repr

/-- A hash entry (11:R246): place bucket × 8 + way, key and 16 FP32 elements. -/
structure HEntry where
  place : Nat
  key : Nat
  val : List Nat
  deriving DecidableEq, Repr

/-- A segment on its way into a bank (11:R242, R243): one row of one output block, 16 window elements. -/
structure Seg where
  /-- which 128 bytes of the bank: 16 × slot + row -/
  pos : Nat
  vals : List Word64
  /-- elements whose parity fails -/
  bad : List Nat
  /-- the rounds that it carries partials of -/
  ids : List Nat
  deriving DecidableEq, Repr

/-- A round handed back: its partial rows as the trigger's step sees them, and how many the GME has taken (11:R239). -/
structure Back where
  round : Round
  data : List Byte
  row : Nat
  deriving DecidableEq, Repr

structure Gme where
  bjobs : List GJob
  hjobs : List GJob
  win : Option GWin
  contrib : BitVec 9
  /-- the window elements of the 32 banks, by byte address / 8 (11:R242); FLAGS and SUM of Table 11-5 -/
  elems : List (Nat × Word64)
  /-- the conflict queues of the banks, head first, and the segments that wait for each (11:R243) -/
  queues : Vector (List Seg) 32
  waits : Vector (List Seg) 32
  hash : List HEntry
  spilled : List Nat
  ovBase : Nat
  ovLog2 : Nat
  nseg : Option Nat
  lastref : BitVec 8
  /-- delivered rounds of each core that it has not handed back, oldest first -/
  rounds : List Round
  /-- rounds handed back whose partial rows have not all been taken -/
  back : List Back
  /-- rounds taken that have segments not yet added into a bank (11:R240) -/
  adding : List Nat
  /-- empty rounds that streams still deliver after the jobs that they follow (11:R237) -/
  extra : List Round
  /-- window elements, and values of hash entries by place × 16 + element, whose parity fails (11:R253) -/
  badElems : List Nat
  badHash : List Nat
  /-- identifiers and updates that were dropped (11:R246, R248) -/
  idDrops : Word64
  keyDrops : Word64
  deriving DecidableEq, Repr

def Gme.init : Gme where
  bjobs := []
  hjobs := []
  win := none
  contrib := 0
  elems := []
  queues := Vector.replicate 32 []
  waits := Vector.replicate 32 []
  hash := []
  spilled := []
  ovBase := 0
  ovLog2 := 0
  nseg := none
  lastref := 0
  rounds := []
  back := []
  adding := []
  extra := []
  badElems := []
  badHash := []
  idDrops := 0
  keyDrops := 0

/-! ### PUU (12) -/

/-- A command of a PUU: its transfer number, stream, record address, and the record once read. -/
structure PCmd where
  id : Nat
  stream : Fin 64
  addr : Nat
  rcd : Option Word512
  /-- it has been validated, with its slots as they stood then (06:R136) -/
  begun : Bool
  /-- its tag word, if it checks one, has matched (12:R266) -/
  tagged : Bool
  pD : Word512
  gD : Word512
  next : Nat
  stall : Stall
  deriving DecidableEq, Repr

structure Puu where
  queue : List PCmd
  done : BitVec 28
  table : BitVec 8
  lastref : BitVec 8
  pslot : BitVec 12
  /-- loaded coefficient tables (12:R261) -/
  tables : List (Nat × Word512)
  /-- coefficients, by table × 10 + field, whose parity fails; and buffered values of the next granule, by component × 4,096 + element, the
  gradient being component 3 (12:R270) -/
  badTables : List Nat
  badBuf : List Nat
  deriving DecidableEq, Repr

def Puu.init : Puu := ⟨[], 0, 0, 0, 0, [], [], []⟩

/-! ### The context's part of a die (14 Table 14-7) -/

/-- Pre-emption of a die (14:R303, 03:R75): none, at the next YIELD with the words left, or at once. -/
inductive Pre where
  | none
  | atYield (left : Nat)
  | now
  deriving DecidableEq, Repr

structure DieCtx where
  helm : Helm
  banks : Vector IBank 2
  loads : List LoadReq
  sems : Vector Word32 64
  /-- occupied descriptor slots (06:R133) -/
  slots : List (Nat × Word512)
  /-- slots whose hold bit is set (12:R267) -/
  holds : List Nat
  lastHeld : BitVec 12
  streams : List (Nat × StreamSt)
  xfers : List Xfer
  smalls : List Small
  /-- the stream that each DMA engine served last (15:R311) -/
  rr : List (Nat × Nat)
  sigs : List PendSig
  nextId : Nat
  /-- fault slots in use (14:R300) -/
  fslots : List (Fin 64)
  /-- the fault record last written for each fault slot -/
  frecs : List (Nat × Word512)
  /-- agents waiting for a fault slot, in order -/
  waitq : List Agent
  pre : Pre
  /-- YMODE of the save-area header (14 Table 14-8) -/
  ymode : Bool
  /-- stop code, 0 for none (04:R106) -/
  stop : BitVec 16
  /-- sequence number of the stopping condition -/
  stopSeq : Word64
  ldie : BitVec 4
  rootStk : BitVec 4
  rootOff : BitVec 19
  spImg : BitVec 48
  saveBase : BitVec 48
  /-- offset of the save area in the local stack, in 64 KiB units -/
  saveOff : BitVec 16
  imgBase : BitVec 48
  /-- declared by the image (04 Table 4-1) -/
  coef : Nat
  gmes : Vector Gme 4
  puus : Vector Puu 4
  cores : Vector Core 32
  /-- conditions raised once in this launch -/
  raised : List (Nat × Nat)
  deriving DecidableEq, Repr

def DieCtx.init : DieCtx where
  helm := Helm.init
  banks := Vector.replicate 2 IBank.init
  loads := []
  sems := Vector.replicate 64 0
  slots := []
  holds := []
  lastHeld := 0
  streams := []
  xfers := []
  smalls := []
  rr := []
  sigs := []
  nextId := 0
  fslots := []
  frecs := []
  waitq := []
  pre := .none
  ymode := false
  stop := 0
  stopSeq := 0
  ldie := 0
  rootStk := 0
  rootOff := 0
  spImg := 0
  saveBase := 0
  saveOff := 0
  imgBase := 0
  coef := 0
  gmes := Vector.replicate 4 Gme.init
  puus := Vector.replicate 4 Puu.init
  cores := Vector.replicate 32 Core.init
  raised := []

/-! ### The die -/

/-- A cached leaf of a DTU (14:R297): table root, page, size, entry and where the entry lies. -/
structure CLeaf where
  rootStk : BitVec 4
  rootOff : BitVec 19
  page : Nat
  large : Bool
  entry : Word64
  atStk : Nat
  atOff : Nat
  deriving DecidableEq, Repr

/-- The hazard monitor of a die (02 Tables 2-4, 2-5). -/
structure Hzm where
  logSize : BitVec 4
  unordered : Bool
  early : Bool
  wrap : Bool
  enable : Bool
  base : BitVec 36
  dropped : BitVec 32
  full : Bool
  head : BitVec 16
  deriving DecidableEq, Repr

def Hzm.init : Hzm := ⟨0, false, false, false, false, 0, 0, false, 0⟩

/-- Where a die stands in its context's life (14:R303-R305). -/
inductive DPhase where
  | idle
  | running
  | draining
  | saved
  deriving DecidableEq, Repr

structure Die where
  /-- cores not retired (01:R25) -/
  healthy : BitVec 32
  /-- engines that failed the self-test (23:R460) -/
  stFail : Bool
  idFail : Bool
  /-- a channel of its stack is Failed (13:R283) -/
  chFail : Bool
  /-- power die failed (23 Table 23-1) -/
  unpowered : Bool
  resetting : Bool
  /-- thermal shutdown or die off (19:R405, R412) -/
  off : Bool
  owner : Option (BitVec 16)
  phase : DPhase
  hzm : Hzm
  skipBase : BitVec 36
  mcFault : Bool
  mcChained : BitVec 24
  dtu : List CLeaf
  cx : DieCtx
  deriving DecidableEq, Repr

/-- A die with nothing on it; every core healthy (log 7, DESIGN CHOICE). -/
def Die.init : Die where
  healthy := 0xFFFFFFFF
  stFail := false
  idFail := false
  chFail := false
  unpowered := false
  resetting := false
  off := false
  owner := none
  phase := .idle
  hzm := Hzm.init
  skipBase := 0
  mcFault := false
  mcChained := 0
  dtu := []
  cx := DieCtx.init

end Sys2Proof.Machine
end

