-- ==== Sys2Proof/Machine/StateChip.lean ====
section
/-! DEFINITION. The state of the package: dies, stacks, contexts, reduction groups, Waypoint takes and regions (14, 17, 18, 20). -/

namespace Sys2Proof.Machine

/-- A die-list entry (18 Table 18-10). -/
structure DieEnt where
  die : Fin 16
  saveOff : BitVec 16
  imgBase : BitVec 48
  saveBase : BitVec 48
  deriving DecidableEq, Repr

/-- A context that exists runs, is stopping for a pre-emption, or is saved (18:R385). -/
inductive CtxSt where
  | running
  | stopping
  | saved
  deriving DecidableEq, Repr

/-- What arrives on an ordered channel and waits (15:R324, 20:R425). -/
inductive Arrival where
  | store (st : RingStore)
  | signal (die : Nat) (sem : Fin 64) (amount : Nat)
  deriving DecidableEq, Repr

/-- A context (01:R28, 04:R105, 14:R303, 17:R354). -/
structure Ctx where
  num : BitVec 16
  role : BitVec 3
  /-- dies in logical order -/
  ents : List DieEnt
  st : CtxSt
  /-- the LAUNCH or RESUME that last started it, while outstanding -/
  cmd : Option Nat
  /-- PREEMPT commands that wait for its save -/
  pre : List Nat
  segcnt : Nat
  /-- a pre-emption that waits for a Waypoint copy to end (20 Table 20-9): at yield or not -/
  preLater : Option Bool
  /-- module reduction channels in order of its own channel numbers (17:R354) -/
  chans : List Nat
  /-- context tolerance (19:R411) -/
  tol : Option Word32
  /-- saved state of dies, by package die index -/
  save : List (Nat × DieCtx)
  /-- conditions raised once in this launch for the context as a whole -/
  raised : List Nat
  /-- status it is to end with: 0 none, 3 stopped, 5 reset -/
  ending : Nat
  /-- code of the stopping condition and its sequence number -/
  stopCode : BitVec 16
  stopSeq : Word64
  /-- RESET FORM 1 commands that wait for its completion (23:R466) -/
  resets : List Nat
  /-- arrivals held while a Waypoint take copies (20:R425) -/
  holding : Bool
  /-- with the ordered channel that each came on -/
  arrivals : List (Nat × Arrival)
  /-- segment loads for the saved context, served at resumption (18:R385): die and request -/
  loads : List (Nat × LoadReq)
  /-- restored from a Waypoint and not resumed since: the next take copies every range whole (20:R429) -/
  restored : Bool
  deriving DecidableEq, Repr

/-! ### Reductions (17) -/

/-- Where an issue stands: waiting for the channel, agreeing codes (E), summing (S), written. -/
inductive RedPhase where
  | queued
  | codes
  | sums
  | written
  deriving DecidableEq, Repr

/-- A segment sent and not yet accepted (17:R364): ring direction, stage code, segment and its bytes. -/
structure RedKept where
  plus : Bool
  stage : Nat
  seg : Nat
  bytes : List Byte
  sent : Bool
  deriving DecidableEq, Repr

/-- An issue in flight of a reduction group (17:R358-R365). -/
structure RedIssue where
  k : Word32
  phase : RedPhase
  /-- source elements of each contributing die, in index order of groups, as FP32 bits -/
  src : List (List Nat)
  /-- bound codes by group: own in phase E, agreed once it is over -/
  codes : List Nat
  /-- integers by group: own sums, and final sums of what has been received -/
  vals : List (List Int)
  /-- position in the schedule -/
  stage : Nat
  /-- units handled, as (stage × 16 + piece) × 2^24 + unit -/
  got : List Nat
  /-- flits of stages or phases not yet reached -/
  early : List Flit
  /-- segments being assembled from their flits: direction, stage, segment, bytes -/
  parts : List (Bool × Nat × Nat × List Byte)
  kept : List RedKept
  /-- checksum mismatches seen here: stage, segment, count -/
  misses : List (Nat × Nat × Nat)
  /-- a source read that waits for its re-read -/
  stall : Stall
  /-- source and destination of each contributing die, as their slots stood at the start (06:R136) -/
  srcD : List Word512
  dstD : List Word512
  /-- the window of 64 code flits that goes through both phases now (17:R361, log 100, DESIGN CHOICE) -/
  window : Nat
  deriving DecidableEq, Repr

/-- A reduction-group slot (17 Tables 17-2, 17-5). -/
structure Group where
  rcd : Word512
  issued : Word32
  aborted : BitVec 16
  last : BitVec 8
  issues : List RedIssue
  deriving DecidableEq, Repr

def Group.init : Group := ⟨0, 0, 0, 0, []⟩

/-! ### Waypoints (20) -/

/-- Stages of a take (20:R425). -/
inductive TakeSt where
  | declare
  | drain
  | copy
  deriving DecidableEq, Repr

structure Take where
  ctx : BitVec 16
  cmd : Nat
  st : TakeSt
  host : Bool
  buddy : BitVec 16
  region : BitVec 4
  full : Bool
  dsem : BitVec 6
  csem : BitVec 6
  workVa : BitVec 48
  /-- base of a host region -/
  hostBase : Word64
  /-- offset of slot B in the region -/
  half : Nat
  extents : List Word64
  /-- target slot: B when true, and the generation it is to hold -/
  slotB : Bool
  gen : Word32
  deriving DecidableEq, Repr

/-- A buddy region of this module (20:R427). -/
structure Region where
  owner : Option (BitVec 16)
  extents : List Word64
  deriving DecidableEq, Repr

/-- A host transfer of FORM 1 that waits for a re-read (18:R387). -/
structure HostX where
  cmd : Nat
  die : Fin 16
  x : Xfer
  deriving DecidableEq, Repr

/-- The package. -/
structure Chip where
  dies : Vector Die 16
  stk : Vector Stack 16
  ctxs : List Ctx
  groups : Vector Group 256
  /-- issues taken, by module channel, in order: channel and group -/
  redq : List (Nat × Nat)
  /-- reduction flits that came before their issue -/
  redEarly : List (Nat × Flit)
  takes : List Take
  regions : Vector Region 16
  /-- what this module has written to buddy regions, by LPOS × 16 + region (log 15, DEDUCED) -/
  remote : List (Nat × Memory)
  hostX : List HostX
  deriving DecidableEq, Repr

def Chip.init : Chip where
  dies := Vector.replicate 16 Die.init
  stk := Vector.replicate 16 Stack.init
  ctxs := []
  groups := Vector.replicate 256 Group.init
  redq := []
  redEarly := []
  takes := []
  regions := Vector.replicate 16 ⟨none, []⟩
  remote := []
  hostX := []

end Sys2Proof.Machine
end

