-- ==== Sys2Proof/Machine/StateCtr.lean ====
section
/-! DEFINITION. The state of the performance counters and their filters (22). -/

namespace Sys2Proof.Machine

structure Ctr where
  filt : Vector (BitVec 256) 28
  /-- counts by location number (22 Table 22-2); a count not listed is zero -/
  counts : List (Nat × Word64)
  deriving DecidableEq, Repr

/-- Reset filter of group g: PRIV 0b111, CLS 0xFFF, GRP g (22 Table 22-4). -/
def filtReset (g : Nat) : BitVec 256 :=
  BitVec.ofNat 256 (put 7 253 3 + put 0xFFF 240 12 + put g 80 7)

def Ctr.init : Ctr := ⟨Vector.ofFn fun g => filtReset g.val, []⟩

end Sys2Proof.Machine
end

