-- ==== Sys2Proof/Machine/StateHost.lean ====
section
/-! DEFINITION. The state of the host interface: rings, commands, MSI-X, start-up status (18, 20, 23). -/

namespace Sys2Proof.Machine

/-- Ring states (18 Table 18-5). -/
inductive RingSt where
  | disabled
  | running
  | draining
  | stopped
  deriving DecidableEq, Repr

def RingSt.code : RingSt → Nat
  | .disabled => 0
  | .running => 1
  | .draining => 2
  | .stopped => 3

/-- An entry that waits in the hub for its ring (18:R380): its 64 bytes as a number and whether it counts toward MSI-X. -/
structure HeldEntry where
  entry : Word512
  counts : Bool
  /-- submission ring of a completion, for SQHEAD (18 Table 18-8) -/
  sq : Option (Fin 64)
  deriving DecidableEq, Repr

/-- One ring and its registers (18 Table 18-5). -/
structure Ring where
  base : Word64
  log2 : BitVec 4
  target : BitVec 8
  irqen : Bool
  cnt : BitVec 16
  timeus : BitVec 16
  wb : Word64
  lost : BitVec 16
  head : BitVec 16
  tail : BitVec 16
  st : RingSt
  held : List HeldEntry
  /-- entries written since the last message that count toward it (18:R379) -/
  since : Nat
  /-- an entry of the ring was held since enable: 0x0103 raised (18:R380) -/
  waited : Bool
  /-- records lost and not yet reported by 0x0104 -/
  lostNew : Nat
  deriving DecidableEq, Repr

def Ring.init : Ring := ⟨0, 0, 0, false, 0, 0, 0, 0, 0, 0, .disabled, [], 0, false, 0⟩

/-- Why a command has not started (18:R382, R383, R374). -/
inductive CmdWait where
  | running
  | fence
  | mgmt
  | bme
  /-- it waits for its context's LAUNCH or RESUME, or for a map of the same root -/
  | validate
  deriving DecidableEq, Repr

/-- What a long command has done (18:R387). -/
inductive CmdWork where
  | none
  /-- host DMA FORM 0: granules completed -/
  | flat (granule : Nat)
  /-- host DMA FORM 1: transfer number on its die -/
  | rcd (die : Nat) (xfer : Nat)
  /-- a burst that the command read waits for its re-read (13:R284) -/
  | burst (stack burst : Nat)
  deriving DecidableEq, Repr

/-- A command outstanding (18:R382): its copy and its argument block, read once. -/
structure Cmd where
  id : Nat
  q : Fin 64
  w : Word512
  wait : CmdWait
  arg : List Byte
  work : CmdWork
  deriving DecidableEq, Repr

structure HostIf where
  /-- next device-local sequence number (20:R418) -/
  seq : Word64
  hubTime : Word64
  /-- draws of the free elapsed time so far (log 2, DESIGN CHOICE) -/
  ticks : Nat
  mem : Memory
  rings : Vector Ring 130
  cmds : List Cmd
  nextCmd : Nat
  /-- next submission ring of the round robin (18:R382) -/
  rr : Fin 64
  msixAddr : Vector Word64 256
  msixData : Vector Word32 256
  msixMask : BitVec 256
  msixPend : BitVec 256
  /-- messages sent, for each vector -/
  msixSent : List (Nat × Nat)
  /-- all messages sent and all event records lost, for the counters (22 Table 22-1) -/
  msgs : Nat
  lostAll : Nat
  bme : Bool
  d3hot : Bool
  wake : Bool
  ready : Bool
  handover : Bool
  perst : Bool
  pcieUp : Bool
  barSeen : Bool
  bootStep : BitVec 4
  vstore : Bool
  pwrFail : BitVec 16
  chFail : BitVec 16
  stFail : BitVec 16
  /-- the root or the identity check leaves every compute die unavailable (21:R435, R441) -/
  noDies : Bool
  elapsed : BitVec 10
  rstLast : BitVec 4
  warms : BitVec 16
  deriving DecidableEq, Repr

def HostIf.init : HostIf where
  seq := 1
  hubTime := 1
  ticks := 0
  mem := []
  rings := Vector.replicate 130 Ring.init
  cmds := []
  nextCmd := 0
  rr := 0
  msixAddr := Vector.replicate 256 0
  msixData := Vector.replicate 256 0
  msixMask := BitVec.allOnes 256
  msixPend := 0
  msixSent := []
  msgs := 0
  lostAll := 0
  bme := false
  d3hot := false
  wake := false
  ready := false
  handover := false
  perst := true
  pcieUp := false
  barSeen := false
  bootStep := 1
  vstore := false
  pwrFail := 0
  chFail := 0
  stFail := 0
  noDies := false
  elapsed := 0
  rstLast := 1
  warms := 0

end Sys2Proof.Machine
end

