-- ==== Sys2Proof/Machine/StateLinks.lean ====
section
/-! DEFINITION. The state of the 48 link ports, the ordered channels and the routing entries (16). -/

namespace Sys2Proof.Machine

/-- Port states (16 Table 16-7), in the order of the STATE code of Table 16-8. -/
inductive PortSt where
  | disabled
  | down
  | training
  | identity
  | up
  | recovering
  | failed
  | miswired
  | sleep
  deriving DecidableEq, Repr

def PortSt.code : PortSt → Nat
  | .disabled => 0
  | .down => 1
  | .training => 2
  | .identity => 3
  | .up => 4
  | .recovering => 5
  | .failed => 6
  | .miswired => 7
  | .sleep => 8

/-- One link port (16:R332, Tables 16-5 and 16-8). -/
structure Port where
  dir : BitVec 4
  /-- DIR as the last training read it (16:R338) -/
  dirNow : BitVec 4
  lanethr : BitVec 4
  check : Bool
  expLink : BitVec 6
  expId : BitVec 20
  nbrValid : Bool
  ndir : BitVec 4
  nspare : Bool
  nlink : BitVec 6
  npos : BitVec 16
  nphysid : BitVec 20
  st : PortSt
  mwreason : BitVec 4
  laneok : BitVec 5
  spared : BitVec 3
  retry : Word32
  /-- transmitters off on shorted lanes (24 Table 24-6) -/
  shorted : BitVec 5
  /-- active link lane found over LANETHR, for the lane test (16:R338, R342) -/
  suspect : Option (Fin 5)
  /-- idle lanes put quiet (19 Table 19-9) -/
  quiet : Bool
  txSeq : BitVec 12
  rxNext : BitVec 12
  /-- unacknowledged flits, oldest first (16:R332) -/
  replay : List Flit
  /-- flits that wait for room in the replay buffer or for the link -/
  waiting : List Flit
  /-- how often each unacknowledged flit has been replayed in this recovery cycle, in the order of `replay` -/
  reps : List Nat
  /-- a NAK was sent and no flit accepted since -/
  nakSent : Bool
  /-- receive buffers of each ordered channel at the neighbour (16:R333, log 72, DESIGN CHOICE) -/
  rxBufs : Nat
  /-- of those, the ones taken by flits sent and not yet returned by CREDIT, by channel -/
  used : List (Nat × Nat)
  /-- receive buffers at this end that hold flits, by channel -/
  rxHeld : List (Nat × Nat)
  /-- receive buffers to return to the neighbour, by channel -/
  due : List (Nat × Nat)
  /-- the last idle flit sent (16:R331, R332) -/
  idle : Option Flit
  /-- link domain off after an identity failure (21 Table 21-2) -/
  locked : Bool
  /-- the port has left Training and Identity since the takeover began (21:R446) -/
  leftSince : Bool
  /-- RESET FORM 2 commands that wait for this port (23:R466) -/
  resets : List Nat
  deriving DecidableEq, Repr

/-- The default mapping of 16:R338. -/
def defaultDir (l : Nat) : BitVec 4 :=
  if l < 8 then 0 else if l < 16 then 1 else if l < 21 then 2 else if l < 26 then 3 else if l < 31 then 4
  else if l < 36 then 5 else if l < 41 then 6 else if l < 46 then 7 else 8

def Port.init (l : Nat) : Port where
  dir := defaultDir l
  dirNow := defaultDir l
  lanethr := 8
  check := false
  expLink := 0
  expId := 0
  nbrValid := false
  ndir := 0
  nspare := false
  nlink := 0
  npos := 0
  nphysid := 0
  st := .down
  mwreason := 0
  laneok := 0
  spared := 7
  retry := 0
  shorted := 0
  suspect := none
  quiet := false
  txSeq := 0
  rxNext := 0
  replay := []
  waiting := []
  reps := []
  nakSent := false
  rxBufs := 2048
  used := []
  rxHeld := []
  due := []
  idle := none
  locked := false
  leftSince := false
  resets := []

/-- A ring store or remote signal that the neighbour has not acknowledged in full: the flits of its channel that it needs acknowledged, and the
condition that its loss raises at its die (15:R323, R324, 03:R70). -/
structure Owed where
  upto : Nat
  die : Nat
  eng : Nat
  code : Nat
  /-- transfer number of a store -/
  id : Nat
  deriving DecidableEq, Repr

/-- LD_CHBIND (16 Table 16-3). -/
structure ChBind where
  bound : Bool
  /-- BOUND has been written 1 while ABANDONED was 0, and the channel has not been abandoned since (Table 16-3) -/
  opened : Bool
  abandoned : Bool
  ctx : BitVec 16
  /-- flits of the channel that this end has sent and that the neighbour has acknowledged -/
  sent : Nat
  acked : Nat
  /-- flits of an abandonment that still stand unacknowledged in a replay buffer -/
  stale : Nat
  owed : List Owed
  deriving DecidableEq, Repr

def ChBind.init : ChBind := ⟨false, false, false, 0, 0, 0, 0, []⟩

structure Links where
  ports : Vector Port 48
  idValid : Bool
  spare : Bool
  lpos : BitVec 16
  physid : BitVec 20
  ovr : Vector Word64 64
  chb : Vector ChBind 128
  /-- bulk flits and reduction segments held for a lost direction, by direction; 8 stands for the spare ports (16:R345, 17:R367) -/
  bulkHeld : List (Nat × Flit)
  /-- a spare takeover is in progress (21:R446) -/
  takeover : Bool
  /-- bulk and management flits accepted for this module -/
  delivered : List Flit
  /-- channels whose abandonment the link manager has told the far end (16:R336) -/
  notices : List Nat
  deriving DecidableEq, Repr

def Links.init : Links where
  ports := Vector.ofFn fun l => Port.init l.val
  idValid := false
  spare := false
  lpos := 0
  physid := 0
  ovr := Vector.replicate 64 0
  chb := Vector.replicate 128 ChBind.init
  bulkHeld := []
  takeover := false
  delivered := []
  notices := []

end Sys2Proof.Machine
end

