-- ==== Sys2Proof/Machine/StatePower.lean ====
section
/-! DEFINITION. The state of the power manager, idle states and module hardware (19, 24). -/

namespace Sys2Proof.Machine

/-- HUB_PWR_CFG (19 Table 19-3). -/
structure PwrCfg where
  gsrc : BitVec 2
  /-- GSRC has been written since start-up: it is write-once -/
  gsrcDone : Bool
  fsgrant : BitVec 16
  gtmo : BitVec 16
  reclaim : Bool
  vmax : BitVec 6
  deriving DecidableEq, Repr

/-- The grant in force, the next one, and held grants (19:R396, R397, Table 19-4). -/
structure Grant where
  gseq : BitVec 16
  /-- grant in force -/
  grant : BitVec 16
  /-- E of the present window -/
  ceil : BitVec 16
  /-- a grant has been accepted since start-up -/
  accepted : Bool
  /-- accepted, in force from the next window: grant and GSEQ -/
  next : Option (BitVec 16 × BitVec 16)
  /-- GSEQ last accepted -/
  last : BitVec 16
  lapsed : Bool
  /-- grants held during a handover: source code, grant, GSEQ and the command of a host grant -/
  held : List (BitVec 2 × BitVec 16 × BitVec 16 × Option Nat)
  deriving DecidableEq, Repr

/-- What the power manager holds for a compute die (19 Table 19-2). -/
structure PwrDie where
  vset : BitVec 6
  vnow : BitVec 6
  tj : BitVec 8
  dstate : BitVec 4
  mxg : Bool
  vxg : Bool
  paced : Bool
  recl : Bool
  droops : Word32
  /-- detectors that see a droop (19:R402) -/
  droop : BitVec 64
  ramp : Bool
  throttling : Bool
  /-- junction still above the temperature at which it may rise -/
  hot : Bool
  /-- paced without a break since the end of the last window -/
  pacedWin : Bool
  /-- a full window of pacing has been reported in this launch -/
  pacedTold : Bool
  deriving DecidableEq, Repr

def PwrDie.init : PwrDie := ⟨0, 0, 0, 0, false, false, false, false, 0, 0, false, false, false, false, false⟩

/-- Rows of Table 19-7 for the coolant. -/
inductive CoolRow where
  | rated
  | reported
  | limit2100
  | limit800
  | shutdown
  deriving DecidableEq, Repr

/-- Input state at J1 (24:R474-R478). -/
inductive InputSt where
  | absent
  | qualified
  | lost
  | tripped
  deriving DecidableEq, Repr

/-- Module hardware (24 Table 24-5). -/
structure ModHw where
  vin : BitVec 10
  holdup : BitVec 2
  tj2 : BitVec 8
  tj3 : BitVec 8
  flow : BitVec 8
  revflow : Bool
  leak : Bool
  cpres : BitVec 12
  trips : BitVec 8
  /-- consecutive trips without a successful retry (24 Table 24-6) -/
  inRow : Nat
  input : InputSt
  pwrgd : Bool
  /-- power-loss record in firmware storage: cause and sequence (24:R476) -/
  lossRec : Option (BitVec 4 × Word64)
  /-- trips to report at the next start -/
  tripRec : Bool
  deriving DecidableEq, Repr

structure Power where
  cfg : PwrCfg
  grant : Grant
  avg : BitVec 16
  peak : BitVec 16
  reclaimw : BitVec 16
  ldon : BitVec 3
  pcieon : Bool
  /-- pacing held by the enforcement loop (19:R400) -/
  pacing : Bool
  /-- a sample above 1.15 × E limits the stacks (19:R400) -/
  excess : Bool
  /-- average of the window before the first reclaim step (19:R410) -/
  base : Nat
  /-- VIN at the last window, which the input limit follows (24:R474) -/
  vinWin : BitVec 10
  per : Vector PwrDie 16
  /-- junction temperatures of the other dies that throttle, by package die index -/
  hotDies : List Nat
  /-- dies above 85 °C since the thermal shutdown -/
  aboveCool : List Nat
  phaseLost : BitVec 16
  rebalancing : BitVec 16
  /-- HUB_LATTOL (19:R411) -/
  tol : Vector Word32 4
  cool : CoolRow
  /-- the reversed-flow limit is in force (24:R482) -/
  revLimit : Bool
  /-- thermal shutdown in progress (19:R405) -/
  shutdown : Bool
  /-- its dies are off -/
  shutOff : Bool
  standby : Bool
  /-- die base domains in retention (19 Table 19-9) -/
  retained : BitVec 16
  /-- dies put off by an idle state -/
  idleOff : BitVec 16
  /-- MCTP reports sent: path and the report bytes -/
  reports : List (GrantPath × List Byte)
  mod : ModHw
  deriving DecidableEq, Repr

def Power.init : Power where
  cfg := ⟨2, false, 1500, 0, true, 30⟩
  grant := ⟨0, 1500, 1500, false, none, 0, false, []⟩
  avg := 0
  peak := 0
  reclaimw := 0
  ldon := 7
  pcieon := true
  pacing := false
  excess := false
  base := 0
  vinWin := 540
  per := Vector.replicate 16 PwrDie.init
  hotDies := []
  aboveCool := []
  phaseLost := 0
  rebalancing := 0
  tol := #v[100, 0xFFFFFFFF, 0xFFFFFFFF, 0xFFFFFFFF]
  cool := .rated
  revLimit := false
  shutdown := false
  shutOff := false
  standby := false
  retained := 0
  idleOff := 0
  reports := []
  mod := ⟨540, 0, 30, 30, 80, false, false, 0, 0, 0, .absent, false, none, false⟩

end Sys2Proof.Machine
end

