-- ==== Sys2Proof/Machine/StateSec.lean ====
section
/-! DEFINITION. The state of the security root, firmware storage and configuration storage (21, 23). -/

namespace Sys2Proof.Machine

/-- An image bank of firmware storage (21:R441): blocks by image block number. -/
structure FwBank where
  blocks : List (Nat × List Byte)
  valid : Bool
  deriving DecidableEq, Repr

/-- An SPDM connection of one transport (21:R436): messages served and whether a secure session is open. -/
structure Spdm where
  served : Nat
  negotiated : Bool
  session : Bool
  deriving DecidableEq, Repr

/-- Stored configuration (23:R467): the mask of stored fields and their values, as a block of Table 23-4. -/
abbrev StoredCfg := Word512

structure Sec where
  idDone : Bool
  hubBad : Bool
  debug : Bool
  recovery : Bool
  idFails : BitVec 8
  dcaps : BitVec 4
  idFail : BitVec 100
  /-- the signatures with which the dies answered the last identity check, by die (21:R435) -/
  idSigs : List (Nat × List Byte)
  stage : BitVec 4
  bank : BitVec 1
  ucPend : Bool
  svnFuse : BitVec 6
  keyRev : BitVec 4
  recvd : BitVec 12
  version : Word32
  lock : Bool
  key : Word32
  fails : BitVec 4
  /-- draws of entropy so far; HUB_DBG_NONCE reads as `Config.nonce draws` (log 2, DESIGN CHOICE) -/
  draws : Nat
  /-- the draw that HUB_DBG_NONCE last returned, until a token uses it (21:R440) -/
  lastNonce : Option Nat
  banks : Vector FwBank 2
  /-- the FW_COMMIT in progress -/
  commit : Option Nat
  stored : StoredCfg
  spdm : Vector Spdm 3
  ideKeyed : Bool
  /-- payload bytes of the link-port and power-die microcode in force (21 Table 21-3) -/
  uc : List Byte × List Byte
  /-- responses given on MCTP transports, latest first: transport and bytes -/
  answers : List (Transport × List Byte)
  deriving DecidableEq, Repr

def Sec.init : Sec where
  idDone := false
  hubBad := false
  debug := false
  recovery := false
  idFails := 0
  dcaps := 0
  idFail := 0
  idSigs := []
  stage := 0
  bank := 0
  ucPend := false
  svnFuse := 0
  keyRev := 0
  recvd := 0
  version := 0
  lock := false
  key := 0
  fails := 0
  draws := 0
  lastNonce := none
  banks := Vector.replicate 2 ⟨[], true⟩
  commit := none
  stored := 0
  spdm := Vector.replicate 3 ⟨0, false, false⟩
  ideKeyed := false
  uc := ([], [])
  answers := []

end Sys2Proof.Machine
end

