-- ==== Sys2Proof/Machine/State.lean ====
section
/-! DEFINITION. The whole state of the block, its queue of commands, its faults and refusals, and the state after reset. -/

namespace Sys2Proof.Machine

/-- What works without the management cores: package, links, host interface and counters (21:R448). -/
structure Hw where
  chip : Chip
  links : Links
  host : HostIf
  ctr : Ctr
  deriving DecidableEq, Repr

/-- The block: its waiting commands, first in first out, and everything the spec gives it. -/
structure State where
  pending : List Instr
  hw : Hw
  power : Power
  sec : Sec
  deriving DecidableEq, Repr

/-- The model stops in no fault: the spec's own faults are conditions, records and statuses, all of them next states. -/
inductive Fault where
  deriving DecidableEq, Repr

/-- Why the model answers with no next state. -/
inductive Refusal where
  /-- Raised by an arm of `exec` whose command has no meaning yet; safe, since nothing is claimed of it. -/
  | notModelled (mnemonic : String)
  deriving DecidableEq, Repr

def Hw.init : Hw := ⟨Chip.init, Links.init, HostIf.init, Ctr.init⟩

/-- Cold start's state before any start-up step has run: every field as 23 Table 23-3 and the registers' tables give it. -/
def State.reset : State := ⟨[], Hw.init, Power.init, Sec.init⟩

end Sys2Proof.Machine
end

