-- ==== Sys2Proof/Machine/Ops.lean ====
section
/-! DEFINITION. Named operations over the state: access to its parts, counters, rings, condition records, completions (18, 20, 22). -/

namespace Sys2Proof.Machine

/-- What a command answers. -/
abbrev Out := Host.Outcome State Fault Refusal

/-! ### Parts of the state -/

/-- Element `i` of a vector, or `d` past its end. -/
def vget {α : Type} {n : Nat} (v : Vector α n) (i : Nat) (d : α) : α := v.toList.getD i d

/-- A vector with element `i` replaced through `f`. -/
def vupd {α : Type} {n : Nat} (v : Vector α n) (i : Nat) (f : α → α) : Vector α n :=
  if h : i < n then v.set i (f v[i]) h else v

/-- A command whose effect stays within the part of the state that works without the management cores. -/
def State.onHw (s : State) (f : Hw → Hw) : State := { s with hw := f s.hw }

def Hw.onChip (h : Hw) (f : Chip → Chip) : Hw := { h with chip := f h.chip }
def Hw.onHost (h : Hw) (f : HostIf → HostIf) : Hw := { h with host := f h.host }
def Hw.onLinks (h : Hw) (f : Links → Links) : Hw := { h with links := f h.links }

def Hw.die (h : Hw) (n : Nat) : Die := vget h.chip.dies n Die.init
def Hw.cx (h : Hw) (n : Nat) : DieCtx := (h.die n).cx
def Hw.stk (h : Hw) (s : Nat) : Stack := vget h.chip.stk s Stack.init
def Hw.ring (h : Hw) (r : Nat) : Ring := vget h.host.rings r Ring.init
def Hw.port (h : Hw) (l : Nat) : Port := vget h.links.ports l (Port.init l)
def Hw.group (h : Hw) (g : Nat) : Group := vget h.chip.groups g Group.init

def Chip.updDie (c : Chip) (n : Nat) (f : Die → Die) : Chip := { c with dies := vupd c.dies n f }
def Chip.updStk (c : Chip) (s : Nat) (f : Stack → Stack) : Chip := { c with stk := vupd c.stk s f }

def Hw.updDie (h : Hw) (n : Nat) (f : Die → Die) : Hw := h.onChip fun c => c.updDie n f
def Hw.updCx (h : Hw) (n : Nat) (f : DieCtx → DieCtx) : Hw := h.updDie n fun d => { d with cx := f d.cx }
def Hw.updHelm (h : Hw) (n : Nat) (f : Helm → Helm) : Hw := h.updCx n fun x => { x with helm := f x.helm }
def Hw.updStk (h : Hw) (s : Nat) (f : Stack → Stack) : Hw := h.onChip fun c => c.updStk s f
def Hw.updRing (h : Hw) (r : Nat) (f : Ring → Ring) : Hw := h.onHost fun x => { x with rings := vupd x.rings r f }
def Hw.updPort (h : Hw) (l : Nat) (f : Port → Port) : Hw := h.onLinks fun x => { x with ports := vupd x.ports l f }
def Hw.updGroup (h : Hw) (g : Nat) (f : Group → Group) : Hw :=
  h.onChip fun c => { c with groups := vupd c.groups g f }
def Hw.updCtx (h : Hw) (num : BitVec 16) (f : Ctx → Ctx) : Hw :=
  h.onChip fun c => { c with ctxs := c.ctxs.map fun x => if x.num = num then f x else x }

def Hw.ctx? (h : Hw) (num : BitVec 16) : Option Ctx := h.chip.ctxs.find? fun x => x.num == num

/-- Update of an association list at a key, with a default for a key it does not hold. -/
def alPut {α : Type} (l : List (Nat × α)) (k : Nat) (x : α) : List (Nat × α) :=
  if l.any fun e => e.1 == k then l.map fun e => if e.1 = k then (k, x) else e else l ++ [(k, x)]

def alGet {α : Type} (d : α) (l : List (Nat × α)) (k : Nat) : α := ((l.find? fun e => e.1 == k).map (·.2)).getD d

/-! ### Performance counters (22:R451-R454) -/

/-- Register numbers of the counters, eight bytes each from BAR0 0x0004_0000 (22 Table 22-2). -/
def ctrCore (die core e : Nat) : Nat := 96 * (32 * die + core) + e
def ctrDie (n e : Nat) : Nat := 49152 + 256 * n + e
def ctrLink (l e : Nat) : Nat := 53248 + 32 * l + e
def ctrHub (e : Nat) : Nat := 54784 + e

/-- Group of a counter (22 Table 22-1). -/
def ctrGroup (key : Nat) : Nat :=
  if key < 49152 then key % 96 / 16 else if key < 53248 then 6 + (key - 49152) % 256 / 16
  else if key < 54784 then 22 + (key - 53248) % 32 / 16 else 24 + (key - 54784) / 16

/-- Whose work an event is (22:R454), as a bit of PRIV. -/
inductive Priv where
  | program
  | driver
  | firmware
  deriving DecidableEq, Repr

def Priv.bitNo : Priv → Nat
  | .program => 253
  | .driver => 254
  | .firmware => 255

/-- Every enabled test of a filter passes (22:R454). -/
def filtPass (f : BitVec 256) (p : Priv) (cls master : Nat) (addr : Option Nat) : Bool :=
  bit f p.bitNo && bit f (240 + cls) && ((master ^^^ fld f 231 208) &&& fld f 207 184) == 0 &&
    (!bit f 87 || match addr with
      | none => false
      | some a => decide (fld f 183 136 ≤ a) && decide (a ≤ fld f 135 88))

/-- The source bytes of 01:R19. -/
def srcBytes (die core eng : Nat) : Nat := die * 65536 + core * 256 + eng

/-- An event of amount `n` (22:R451). -/
def Ctr.count (c : Ctr) (key n : Nat) (p : Priv) (cls master : Nat) (addr : Option Nat) : Ctr :=
  if filtPass (vget c.filt (ctrGroup key) 0) p cls master addr then
    { c with counts := smPut (0 : Word64) c.counts key (smGet (0 : Word64) c.counts key + BitVec.ofNat 64 n) }
  else c

def Hw.count (h : Hw) (key n : Nat) (p : Priv) (cls master : Nat) (addr : Option Nat := none) : Hw :=
  { h with ctr := h.ctr.count key n p cls master addr }

/-- Counters of durations, of steps that were stretched and of TLPs, which measure time and the link's packets: neither is in the state (log 102). -/
def ctrTimed (key : Nat) : Bool :=
  if key < 49152 then [3, 4].contains (key % 96)
  else if key < 53248 then [1, 2, 3, 17, 18, 65, 100, 130, 146, 209].contains ((key - 49152) % 256)
  else if key < 54784 then (key - 53248) % 32 == 21 else decide (key - 54784 < 4)

/-- What a counter register reads (22:R453). -/
def Hw.counter (h : Hw) (key : Nat) : Word64 := if ctrTimed key then Config.timed key h.host.ticks else smGet (0 : Word64) h.ctr.counts key

/-- An event of the hub (22 Table 22-1 groups 24-27). -/
def Hw.countHub (h : Hw) (e n : Nat) (p : Priv) (eng : Nat) : Hw := h.count (ctrHub e) n p 11 (srcBytes 99 0xFF eng)

/-! ### Rings (18:R376-R380) -/

/-- Entries of a ring; LOG2SIZE below 4 is applied as 4. -/
def Ring.size (r : Ring) : Nat := 2 ^ r.log2.toNat

/-- One more entry would make TAIL equal HEAD. -/
def Ring.full (r : Ring) : Bool := (r.tail.toNat + 1) % r.size == r.head.toNat

/-- The 64 bytes of an entry. -/
def entryBytes (e : Word512) : List Byte := leBytes 64 e.toNat

/-- An MSI-X message of a vector: pending while masked, and while Bus Master Enable is 0 (18:R374, R379). -/
def HostIf.message (x : HostIf) (v : Nat) : HostIf :=
  if bit x.msixMask v || !x.bme then { x with msixPend := x.msixPend ||| (1 <<< v) }
  else { x with msixSent := alPut x.msixSent v (alGet 0 x.msixSent v + 1), msgs := x.msgs + 1 }

/-- Messages of ring `r` after its write-back, when CNT is reached or no delay is allowed (18:R379). -/
def HostIf.ringMessage (x : HostIf) (r : Nat) : HostIf :=
  let g := vget x.rings r Ring.init
  if g.irqen && decide (0 < g.since) && (decide (max 1 g.cnt.toNat ≤ g.since) || g.timeus == 0) then
    ({ x with rings := vupd x.rings r fun g => { g with since := 0 } }).message g.target.toNat
  else x

/-- SQHEAD of a completion as it is written (18 Table 18-8). -/
def HostIf.sqHead (x : HostIf) (e : HeldEntry) : Word512 :=
  match e.sq with
  | some q => setFld e.entry 479 464 (vget x.rings q.val Ring.init).head.toNat
  | none => e.entry

/-- One entry goes into consumer ring `r`: the entry, then its tail write-back word, then its message (18:R379, R390). -/
def HostIf.writeEntry (x : HostIf) (r : Nat) (e : HeldEntry) : HostIf :=
  let g := vget x.rings r Ring.init
  let t := (g.tail.toNat + 1) % g.size
  let mem := (x.mem.writeN (g.base.toNat + 64 * g.tail.toNat) (entryBytes (x.sqHead e))).writeLE g.wb.toNat 8 t
  ({ x with
    mem := mem
    rings := vupd x.rings r fun g => { g with tail := BitVec.ofNat 16 t, since := g.since + (if e.counts then 1 else 0) } }).ringMessage r

/-- The ring can take an entry now. -/
def HostIf.canWrite (x : HostIf) (r : Nat) : Bool :=
  let g := vget x.rings r Ring.init
  g.st == .running && x.bme && !g.full

/-- An entry for ring `r` is written at once or waits in the hub behind those that wait (18:R380). -/
def HostIf.push (x : HostIf) (r : Nat) (e : HeldEntry) : HostIf :=
  if x.canWrite r && (vget x.rings r Ring.init).held.isEmpty then x.writeEntry r e
  else { x with rings := vupd x.rings r fun g => { g with held := g.held ++ [e] } }

/-- Held entries are written while there is room. -/
def HostIf.flush (r : Nat) : List HeldEntry → HostIf → HostIf
  | [], x => x
  | e :: l, x =>
    if x.canWrite r then
      HostIf.flush r l ({ x with rings := vupd x.rings r fun g => { g with held := l } }.writeEntry r e)
    else x

/-! ### Condition records (20:R418-R420) -/

/-- Codes of severity Info, Error; every other reported code is a Warning. -/
def infoCodes : List Nat :=
  [0x0106, 0x0206, 0x0207, 0x0301, 0x0305, 0x0502, 0x0503, 0x0603, 0x0701, 0x0702, 0x0703, 0x0704, 0x0705, 0x0804, 0x0806,
   0x0903, 0x0904, 0x0906, 0x0A05, 0x0B01, 0x0B08, 0x0C02, 0x0C04, 0x0D01, 0x0E01, 0x0F09, 0x0F0A, 0x1009, 0x100A, 0x1103,
   0x1205, 0x120B, 0x120C, 0x1302, 0x1407, 0x1409]
def errorCodes : List Nat :=
  [0x0104, 0x0105, 0x0107, 0x0109, 0x0202, 0x0204, 0x0205, 0x0302, 0x0303, 0x0304, 0x0307, 0x0401, 0x0402, 0x0404, 0x0405,
   0x0406, 0x0407, 0x0501, 0x0504, 0x0505, 0x0601, 0x0707, 0x0805, 0x0901, 0x0905, 0x0907, 0x0A01, 0x0A02, 0x0A06, 0x0B04,
   0x0B06, 0x0B07, 0x0B21, 0x0B23, 0x0C03, 0x0C05, 0x0C06, 0x0D03, 0x0E04, 0x0E05, 0x0E07, 0x0E08, 0x0F01, 0x0F03, 0x0F04,
   0x0F05, 0x0F06, 0x0F07, 0x0F08, 0x1007, 0x1101, 0x1102, 0x1104, 0x1105, 0x1201, 0x1202, 0x1206, 0x1209, 0x1402, 0x1405]

/-- SEVERITY of a code (20 Table 20-2): 1 Info, 2 Warning, 3 Error. -/
def sevOf (code : Nat) : Nat := if infoCodes.contains code then 1 else if errorCodes.contains code then 3 else 2

/-- Where a condition comes from and what its record says. -/
structure Cond where
  code : Nat
  die : Nat
  core : Nat := 0xFF
  eng : Nat
  arg0 : Nat := 0
  arg1 : Nat := 0
  ctx : Option (BitVec 16) := none
  deriving DecidableEq, Repr

/-- The event-ring entry of a condition (20 Table 20-2, R420). -/
def condEntry (c : Cond) (seq hubTime : Word64) : Word512 :=
  BitVec.ofNat 512 (put c.code 240 16 + put (sevOf c.code) 236 4 + put c.die 224 8 + put c.core 216 8 + put c.eng 208 8 +
    put seq.toNat 144 64 + put hubTime.toNat 80 64 + put c.arg0 64 16 + put c.arg1 0 64 +
    (match c.ctx with | some n => put n.toNat 256 16 + put 1 272 1 | none => 0))

/-- The next sequence number and a hub time, which has advanced by a free amount (00:R16, log 2, DESIGN CHOICE). -/
def HostIf.stamp (x : HostIf) : HostIf :=
  { x with seq := x.seq + 1, hubTime := x.hubTime + Config.elapsed x.ticks, ticks := x.ticks + 1 }

/-- Records the hub holds for the event ring (18:R380). -/
def eventHold : Nat := 4096

/-- Records lost so far are reported by one record 0x0104 once there is room, before the held ones (18:R380). -/
def HostIf.reportLost (x : HostIf) : HostIf :=
  let g := vget x.rings 128 Ring.init
  if 0 < g.lostNew && x.canWrite 128 then
    let y := ({ x with rings := vupd x.rings 128 fun g => { g with lostNew := 0 } }).stamp
    y.writeEntry 128 ⟨condEntry ⟨0x0104, 99, 0xFF, 0x67, 0, g.lostNew, none⟩ x.seq y.hubTime, true, none⟩
  else x

/-- A Warning or Error in D3hot drives WAKE# (24:R473). -/
def HostIf.driveWake (x : HostIf) (code : Nat) : HostIf := if x.d3hot && decide (2 ≤ sevOf code) then { x with wake := true } else x

/-- A record for the event ring is written, held, or lost and counted (18:R380). -/
def HostIf.record (x : HostIf) (e : HeldEntry) : HostIf :=
  if eventHold ≤ (vget x.rings 128 Ring.init).held.length then
    { x with
      lostAll := x.lostAll + 1
      rings := vupd x.rings 128 fun g => { g with
        lost := BitVec.ofNat 16 (satInc 65535 g.lost.toNat), lostNew := g.lostNew + 1 } }
  else x.push 128 e

/-- A condition is raised: its record takes the next sequence number and the hub time of that moment, and goes to the event ring (20:R418, 00:R16). -/
def HostIf.raise (x : HostIf) (c : Cond) : HostIf :=
  let y := (x.driveWake c.code).stamp
  y.record ⟨condEntry c x.seq y.hubTime, true, none⟩

/-- A change of the host interface, with the messages sent and the records lost counted (22 Table 22-1 group 25). -/
def Hw.hostEv (h : Hw) (f : HostIf → HostIf) : Hw :=
  let x := f h.host
  let g := { h with host := x }
  let g := if x.msgs = h.host.msgs then g else g.countHub 18 (x.msgs - h.host.msgs) .driver 0x67
  if x.lostAll = h.host.lostAll then g else g.countHub 19 (x.lostAll - h.host.lostAll) .driver 0x67

def Hw.raise (h : Hw) (c : Cond) : Hw := h.hostEv fun x => x.raise c
def State.raise (s : State) (c : Cond) : State := s.onHw fun h => h.raise c

/-- A condition of the hub. -/
def Hw.raiseHub (h : Hw) (code eng : Nat) (arg0 arg1 : Nat := 0) : Hw := h.raise ⟨code, 99, 0xFF, eng, arg0, arg1, none⟩

/-- A condition of a compute die, for the context on it. -/
def Hw.raiseDie (h : Hw) (n code core eng : Nat) (arg0 arg1 : Nat := 0) : Hw :=
  h.raise ⟨code, n, core, eng, arg0, arg1, (h.die n).owner⟩

/-- A condition reported once in a launch (once for each die: log 16, DESIGN CHOICE). -/
def Hw.raiseOnce (h : Hw) (n code core eng : Nat) (sub : Nat := 0) (arg0 arg1 : Nat := 0) : Hw :=
  if (h.cx n).raised.contains (code, sub) then h
  else (h.updCx n fun x => { x with raised := (code, sub) :: x.raised }).raiseDie n code core eng arg0 arg1

/-- All that waits for ring `r` is written as far as it can be. -/
def HostIf.drain (x : HostIf) (r : Nat) : HostIf :=
  let x := if r = 128 then x.reportLost else x
  HostIf.flush r (vget x.rings r Ring.init).held x

/-- The rings whose entries may wait. -/
def HostIf.drainAll (x : HostIf) : HostIf := (List.range 66).foldl (fun x k => x.drain (64 + k)) x

/-! ### Commands and completions (18:R381-R386) -/

def cmOpcode (w : Word512) : Nat := fld w 511 504
def cmForm (w : Word512) : Nat := fld w 503 500
def cmCid (w : Word512) : Nat := fld w 495 480
def cmFence (w : Word512) : Bool := bit w 479
def cmIrqsup (w : Word512) : Bool := bit w 478
def cmCtx (w : Word512) : BitVec 16 := BitVec.ofNat 16 (fld w 463 448)
def cmArg (w : Word512) : Nat := fld w 447 384

def Hw.cmd? (h : Hw) (id : Nat) : Option Cmd := h.host.cmds.find? fun c => c.id == id

/-- How a command ends (18 Table 18-8). -/
structure Result where
  status : Nat
  reason : Nat := 0
  code : Nat := 0
  result : Nat := 0
  deriving DecidableEq, Repr

/-- The completion entry but for SQHEAD, which is filled when it is written. -/
def complEntry (c : Cmd) (r : Result) (seq : Word64) : Word512 :=
  BitVec.ofNat 512 (put (cmCid c.w) 496 16 + put c.q.val 490 6 + put r.status 456 8 + put r.reason 448 8 + put r.code 432 16 +
    put seq.toNat 368 64 + r.result % 2 ^ 256)

/-- A completion for a ring that cannot take it waits; the first since enable to wait for a full ring, or one stopped as if full, raises 0x0103 (18:R380). -/
def HostIf.pushCompletion (x : HostIf) (r : Nat) (e : HeldEntry) : HostIf :=
  let g := vget x.rings r Ring.init
  let x := if (g.st == .stopped || (g.st == .running && g.full)) && !g.waited then
      ({ x with rings := vupd x.rings r fun g => { g with waited := true } }).raise ⟨0x0103, 99, 0xFF, 0x67, 0, 0, none⟩
    else x
  x.push r e

/-- The command leaves; a draining submission ring with none left is disabled (18:R377). -/
def HostIf.retire (x : HostIf) (c : Cmd) : HostIf :=
  let l := x.cmds.filter fun d => d.id != c.id
  { x with
    cmds := l
    rings := vupd x.rings c.q.val fun g =>
      if g.st == .draining && !l.any fun d => d.q == c.q then { g with st := .disabled } else g }

/-- A command completes: one entry, after every condition it raised (18:R384). -/
def HostIf.complete (x : HostIf) (id : Nat) (r : Result) : HostIf :=
  match x.cmds.find? fun c => c.id == id with
  | none => x
  | some c =>
    let ring := 64 + (vget x.rings c.q.val Ring.init).target.toNat % 64
    let e : HeldEntry := ⟨complEntry c r x.seq, !cmIrqsup c.w, some c.q⟩
    (({ x with seq := x.seq + 1 }).retire c).pushCompletion ring e

def Hw.complete (h : Hw) (id : Nat) (r : Result) : Hw :=
  if (h.cmd? id).isNone then h else (h.hostEv fun x => x.complete id r).countHub 17 1 .driver 0x67
def State.complete (s : State) (id : Nat) (r : Result) : State := s.onHw fun h => h.complete id r

/-- Engines of a core (01 Table 1-2), whose core byte names the core. -/
def coreEngines : List Nat := [0x02, 0x03, 0x04, 0x05, 0x06, 0x07, 0x08, 0x09, 0x0A]

/-- Engines of a die that carry core byte 0xFF, and the channel interface of a memory die (01 Table 1-2). -/
def dieEngines (die : Nat) : List Nat :=
  if die < 16 then [0x01, 0x10, 0x11, 0x12, 0x13, 0x14, 0x15, 0x16, 0x17, 0x18, 0x20, 0x21, 0x22, 0x23, 0x24, 0x25, 0x26, 0x27, 0x28, 0x29, 0x2A, 0x2B]
  else if die < 80 then [0x40] else if die < 96 then [0x48] else if die < 99 then (List.range 16).map (0x50 + ·)
  else [0x60, 0x61, 0x62, 0x63, 0x64, 0x65, 0x66, 0x67]

/-- The engine of a condition whose source die the manual names and whose engine it does not: one of `l`, left open (log 99, DESIGN CHOICE). -/
def engineAmong (code die : Nat) (l : List Nat) : Nat := l.getD ((Config.sourceEngine code die).toNat % l.length) 0

/-- All of a list of commands complete alike. -/
def Hw.completeAll (h : Hw) (ids : List Nat) (r : Result) : Hw := ids.foldl (fun h i => h.complete i r) h

/-- Engines of the DMA agents: stream s uses engine 0x20 + s mod 8 (15 Table 15-1). -/
def dmaEngine (stream : Nat) : Nat := 0x20 + stream % 8

/-- Engine identifier of the agent whose progress record has index `i` (14 Table 14-4, 01 Table 1-2). -/
def agentEngine : Agent → Nat
  | .core _ => 0x0A
  | .helm => 0x01
  | .loader => 0x09
  | .xfer _ => 0x20
  | .gme cl => 0x10 + cl.val
  | .puu cl => 0x14 + cl.val
  | .walk => 0x18
  | .small _ => 0x28
  | .reduction _ => 0x50
  | .hostDma => 0x61
  | .waypoint => 0x62

end Sys2Proof.Machine
end

