-- ==== Sys2Proof/Machine/Mesh.lean ====
section
/-! DEFINITION. The package fabric: mesh, attachment ports, routes, and what the routers count (01:R26, R29-R31, R33, Table 1-5). -/

namespace Sys2Proof.Machine

/-- For whom an access is made, for the counters (22:R454). -/
structure Who where
  priv : Priv
  cls : Nat
  src : Nat
  deriving DecidableEq, Repr

/-- The die whose agent makes an access. -/
def Who.die (w : Who) : Nat := w.src / 65536

/-! ### The mesh (01:R30) -/

/-- Place of compute die `n` in the 4 × 4 mesh. -/
def meshCol (n : Nat) : Nat := n % 4
def meshRow (n : Nat) : Nat := n / 4

/-- The mesh links, each with the dies it joins, the lower number first. -/
def meshLinks : List (Nat × Nat) :=
  (List.range 16).flatMap fun n => (if meshCol n < 3 then [(n, n + 1)] else []) ++ (if meshRow n < 3 then [(n, n + 4)] else [])

/-- Compute dies to which a link die or the hub is attached (01 Table 1-5). -/
def attachments (die : Nat) : List Nat :=
  if die = 96 then [0, 1, 2, 3] else if die = 97 then [12, 13, 14, 15] else if die = 98 then [4, 7, 8, 11]
  else if die = 99 then [5, 6, 9, 10] else []

/-- The die at the attachment port of a compute die's router. -/
def attached (n : Nat) : Nat := ([96, 97, 98, 99].find? fun d => (attachments d).contains n).getD 99

/-- The link die of a link port (01:R19). -/
def linkDie (l : Nat) : Nat := 96 + l / 16

/-- Mesh hops between two compute dies. -/
def meshHops (a b : Nat) : Nat :=
  (meshCol a - meshCol b) + (meshCol b - meshCol a) + (meshRow a - meshRow b) + (meshRow b - meshRow a)

/-- The attachment of a link die or the hub with the fewest mesh hops from a compute die; the lowest number of those that tie (01:R31). -/
def attachOf (die n : Nat) : Nat :=
  (attachments die).foldl (fun a b => if meshHops b n < meshHops a n then b else a) ((attachments die).headD 0)

/-- Numbers from `a` towards `b`, both included. -/
def towards (a b : Nat) : List Nat :=
  if a ≤ b then (List.range (b - a + 1)).map (a + ·) else (List.range (a - b + 1)).map (a - ·)

/-- Compute dies on the way between two of them: along the row first, then along the column (01:R31). -/
def meshPath (a b : Nat) : List Nat :=
  (towards (meshCol a) (meshCol b)).map (fun c => 4 * meshRow a + c) ++
    ((towards (meshRow a) (meshRow b)).drop 1).map fun r => 4 * r + meshCol b

/-- Routers that traffic between two dies of the package passes, in order (01:R31). Between two dies that are no compute dies it enters at the
attachment of the first with the fewest hops to the other's (DEDUCED, log 66). -/
def fabricPath (a b : Nat) : List Nat :=
  if a < 16 then (if b < 16 then meshPath a b else meshPath a (attachOf b a))
  else if b < 16 then meshPath (attachOf a b) b
  else
    let out := (attachments b).foldl (fun p q => if meshHops (attachOf a q) q < meshHops (attachOf a p) p then q else p) ((attachments b).headD 0)
    meshPath (attachOf a out) out

/-! ### What the routers count (22 Table 22-1 group 18) -/

/-- `n` bytes pass from die `a` to die `b`: sourced at the first router if `a` is its die, sunk at the last if `b` is its die, forwarded by the
others. A router does so in every idle, reset and power state of its die (01:R29). -/
def Hw.carry (h : Hw) (a b n : Nat) (w : Who) (addr : Option Nat := none) : Hw :=
  if a = b || n = 0 then h
  else (fabricPath a b).foldl (fun h d =>
    h.count (ctrDie d (if d = a then 193 else if d = b then 194 else 192)) n w.priv w.cls w.src addr) h

end Sys2Proof.Machine
end

