-- ==== Sys2Proof/Machine/Rs.lean ====
section
/-! DEFINITION. The burst code: RS(68,64) over GF(2^8), decoded with erasures within its capacity (13:R278, R279). -/

namespace Sys2Proof.Machine

/-- Product in GF(2^8): Horner over the bits of `b`, the highest first. -/
def gfMul (a b : Nat) : Nat :=
  (List.range 8).foldl (fun r i =>
    let r := 2 * r
    let r := if 256 ≤ r then r ^^^ 0x11D else r
    if (b >>> (7 - i)) % 2 = 1 then r ^^^ a else r) 0

def gfPow (a : Nat) : Nat → Nat
  | 0 => 1
  | n + 1 => gfMul a (gfPow a n)

/-- Inverse of a non-zero element: its 254th power. -/
def gfInv (a : Nat) : Nat := gfPow a 254

/-- Locator of a symbol position; symbol 0 is the coefficient of x^67. -/
def rsLoc (p : Nat) : Nat := gfPow 2 (67 - p)

/-- The four syndromes of an error vector. -/
def rsSyndromes (e : List (Nat × Nat)) : List Nat :=
  (List.range 4).map fun k => e.foldl (fun a x => a ^^^ gfMul x.2 (gfPow (rsLoc x.1) k)) 0

/-- Solution of linear equations in `n` unknowns over GF(2^8), each row its coefficients and then its right side. -/
def gfSolve : Nat → List (List Nat) → Option (List Nat)
  | 0, rows => if rows.all fun r => r.headD 0 = 0 then some [] else none
  | n + 1, rows =>
    match rows.find? fun r => r.headD 0 ≠ 0 with
    | none => none
    | some p =>
      let i := gfInv (p.headD 0)
      let q := p.map fun x => gfMul i x
      let rest := (rows.erase p).map fun r => (List.zipWith (fun x y => x ^^^ gfMul (r.headD 0) y) r q).tail
      match gfSolve n rest with
      | none => none
      | some s => some ((List.zipWith gfMul q.tail s).foldl (· ^^^ ·) (q.tail.getD n 0) :: s)

/-- The error values at a set of positions that give the syndromes. -/
def rsSolve (syn : List Nat) (ps : List Nat) : Option (List (Nat × Nat)) :=
  let locs := ps.map rsLoc
  let rows := (List.range 4).map fun k => locs.map (fun l => gfPow l k) ++ [syn.getD k 0]
  (gfSolve ps.length rows).map fun v => ps.zip v

/-- The decoder: erasures `f`, and up to (4 − |f|) / 2 unknown errors; none when it finds the burst uncorrectable. -/
def rsDecode (f : List Nat) (err : List (Nat × Nat)) : Option (List (Nat × Nat)) :=
  let syn := rsSyndromes err
  let free := (List.range 68).filter fun p => !f.contains p
  let try_ (u : List Nat) : Option (List (Nat × Nat)) :=
    match rsSolve syn (f ++ u) with
    | some l => if u.all fun p => l.any fun x => x.1 == p && x.2 != 0 then some (l.filter fun x => x.2 != 0) else none
    | none => none
  match try_ [] with
  | some l => some l
  | none =>
    if 2 < f.length then none
    else match free.findSome? fun p => try_ [p] with
      | some l => some l
      | none =>
        if f.isEmpty then free.findSome? fun p => free.findSome? fun q => if p < q then try_ [p, q] else none
        else none

end Sys2Proof.Machine
end

