-- ==== Sys2Proof/Machine/Chans.lean ====
section
/-! DEFINITION. The channels of a stack: decoding, corrections, erasures, failure; and the pre-emption that a failure starts (13, 14:R303). -/

namespace Sys2Proof.Machine

/-- Why an agent stops before a granule: a translation fault, a burst it must re-read, a tile that failed
verification, or host memory that it may not reach now (14:R299, 13:R284, 05:R127, 18:R374). -/
inductive Stop where
  | fault (va kind level access : Nat)
  | burst (stack burst : Nat)
  | tile (at_ : TileAt) (addr fmt : Nat)
  | wait
  deriving DecidableEq, Repr

/-! ### Pre-emption of a context (14:R303, 04:R106) -/

/-- Helm of a die stops at the boundary after its last word; a word it holds is fetched again later (03:R75, R89). -/
def Die.preemptNow (d : Die) : Die :=
  if d.phase == .running then
    { d with
      phase := .draining
      cx := { d.cx with
        pre := .now
        ymode := false
        helm := { d.cx.helm with
          held := none
          st := if d.cx.helm.st = .idle || d.cx.helm.st = .stopped then d.cx.helm.st else .preempting } } }
  else d

/-- Every die of the context is pre-empted in immediate mode. -/
def Hw.preemptCtx (h : Hw) (num : BitVec 16) : Hw :=
  let h := h.updCtx num fun c => { c with st := if c.st = .saved then .saved else .stopping }
  h.onChip fun c => { c with dies := c.dies.map fun d => if d.owner = some num then d.preemptNow else d }

/-- The context on a die is pre-empted, if there is one. -/
def Hw.preemptOf (h : Hw) (n : Nat) : Hw :=
  match (h.die n).owner with
  | some num => h.preemptCtx num
  | none => h

/-- The context is to end with a status: 5 after a reset counts over 3 after a stop. -/
def Ctx.endWith (c : Ctx) (status : Nat) : Ctx := { c with ending := max c.ending status }

/-! ### Channels (13:R276, R280-R283) -/

/-- Channel of a stack offset (13:R276). -/
def chanOf (o : Nat) : Nat := ((o >>> 8) ^^^ (o >>> 16) ^^^ (o >>> 24)) % 256

/-- The memory die of a channel of stack `s` (01 Table 1-1). -/
def memDie (s c : Nat) : Nat := 16 + 4 * s + c / 64

/-- A condition of a channel; the core byte is the channel of its memory die (01:R19, 13:R276, log 67, DEDUCED). -/
def Hw.raiseChan (h : Hw) (s c code : Nat) : Hw := h.raise ⟨code, memDie s c, c % 64, 0x40, 0, 0, none⟩

def Hw.chan (h : Hw) (s c : Nat) : Chan := vget (h.stk s).chans c Chan.init
def Hw.updChan (h : Hw) (s c : Nat) (f : Chan → Chan) : Hw := h.updStk s fun k => { k with chans := vupd k.chans c f }

/-- A persistent uncorrectable burst: reported and recorded (13:R284, Table 13-5). -/
def Hw.raiseUE (h : Hw) (s b : Nat) (n eng : Nat) (ctx : Option (BitVec 16)) : Hw :=
  (h.updStk s fun k => { k with
    ueCount := BitVec.ofNat 16 (satInc 65535 k.ueCount.toNat), ueBurst := BitVec.ofNat 26 b }).raise
    ⟨0x0B04, n, 0xFF, eng, s, 64 * b, ctx⟩

/-- State by erasures (13 Table 13-3). -/
def chanSt (eras : Nat) : ChSt := if eras = 0 then .healthy else if eras ≤ 2 then .degraded else if eras ≤ 4 then .critical else .failed

/-- A channel fails: its die is unavailable, and a context that runs there stops with status 0x3 (13:R283). -/
def Hw.failChan (h : Hw) (s c : Nat) : Hw :=
  let seq := h.host.seq
  let h := (h.updChan s c fun k => { k with st := .failed }).raiseChan s c 0x0B06
  let h := h.updDie s fun d => { d with chFail := true }
  match (h.die s).owner with
  | none => h
  | some num =>
    let h := h.updCtx num fun k =>
      let k := k.endWith 3
      if k.stopCode = 0 then { k with stopCode := 0x0B06, stopSeq := seq } else k
    h.preemptCtx num

/-! ### Decoding (13:R279, R281, R282) -/

/-- The latent symbol errors of burst `b`. -/
def Stack.errsOf (k : Stack) (b : Nat) : List (Nat × Nat) := alGet [] k.errs b

/-- Erasures of the channel that holds burst `b`. -/
def Stack.erasOf (k : Stack) (b : Nat) : List Nat := (vget k.chans (chanOf (64 * b)) Chan.init).eras.map (·.toNat)

/-- A channel in state Failed makes every read uncorrectable (13 Table 13-3). -/
def Stack.chanFailed (k : Stack) (o : Nat) : Bool := (vget k.chans (chanOf o) Chan.init).st == .failed

/-- The burst at a stack offset is uncorrectable. -/
def Stack.burstBad (k : Stack) (b : Nat) : Bool :=
  k.bad.contains b || k.chanFailed (64 * b) || (!(k.errsOf b).isEmpty && (rsDecode (k.erasOf b) (k.errsOf b)).isNone)

/-- How often a position was corrected among the last 256 bursts of a channel. -/
def Chan.hits (k : Chan) (p : Nat) : Nat :=
  (k.hist.filter fun e => decide (k.seen < e.1 + 256) && e.2.contains (BitVec.ofNat 7 p)).length

/-- A burst of a channel has been decoded with these positions corrected. -/
def Chan.decodedAs (k : Chan) (ps : List Nat) : Chan :=
  let hist := (k.hist.filter fun e => decide (k.seen + 1 < e.1 + 256)) ++ (if ps.isEmpty then [] else [(k.seen + 1, ps.map (BitVec.ofNat 7))])
  { k with seen := k.seen + 1, hist := hist }

/-- Symbols of a burst changed by the given values. -/
def Memory.flip (m : Memory) (b : Nat) (vs : List (Nat × Nat)) : Memory :=
  vs.foldl (fun m e => m.write (64 * b + e.1) (m.read (64 * b + e.1) ^^^ BitVec.ofNat 8 e.2)) m

/-- The data symbols in which a decoded codeword differs from the one written: empty but for a miscorrection (13:R279). -/
def rsNet (err fix : List (Nat × Nat)) : List (Nat × Nat) :=
  (List.range 64).filterMap fun p =>
    let v := alGet 0 err p ^^^ alGet 0 fix p
    if v = 0 then none else some (p, v)

/-- The latent errors of burst `b` are `err`, as seen from the codeword that the decoder returns: where it is another than the one written, that is
what the burst holds from now on. -/
def Stack.latent (k : Stack) (b : Nat) (err : List (Nat × Nat)) : Stack :=
  let rest := k.errs.filter fun e => e.1 != b
  if err.isEmpty then { k with errs := rest }
  else match rsDecode (k.erasOf b) err with
    | none => { k with errs := rest ++ [(b, err)] }
    | some fix => { k with
        errs := if fix.isEmpty then rest else rest ++ [(b, fix)]
        mem := k.mem.flip b (rsNet err fix) }

/-- What stands in burst `b` once errors have arisen besides those that it has. -/
def Stack.errsWith (k : Stack) (b : Nat) (err : List (Nat × Nat)) : List (Nat × Nat) :=
  let old := k.errsOf b
  (List.range 68).filterMap fun p =>
    let v := alGet 0 old p ^^^ alGet 0 err p
    if v = 0 then none else some (p, v)

/-- Errors arise in burst `b`. -/
def Stack.arise (k : Stack) (b : Nat) (err : List (Nat × Nat)) : Stack := k.latent b (k.errsWith b err)

/-- What the decoder returns for the latent errors of a channel, or of all, once erasures have changed. -/
def Stack.relatent (k : Stack) (c : Option Nat) : Stack :=
  (k.errs.filter fun e => c.all (chanOf (64 * e.1) == ·)).foldl (fun k e => k.latent e.1 e.2) k

/-- The first burst of those `p` names that cannot be read. -/
def Stack.badAmong (k : Stack) (p : Nat → Bool) : Option Nat :=
  (k.bad ++ (k.errs.map (·.1)).filter fun b => k.burstBad b).find? p

/-- A position that reached 8 corrections is marked, or fails the channel as a fifth erasure (13:R281). -/
def Hw.markPos (h : Hw) (s c p : Nat) : Hw :=
  let k := h.chan s c
  if k.hits p < 8 || k.st == .failed || k.eras.contains (BitVec.ofNat 7 p) then h
  else
    let h := h.raiseChan s c 0x0B02
    if 4 ≤ k.eras.length then h.failChan s c
    else
      let n := k.eras.length + 1
      let h := (h.updChan s c fun k => { k with eras := k.eras ++ [BitVec.ofNat 7 p], st := chanSt n }).updStk s fun k => k.relatent (some c)
      if n = 3 then h.raiseChan s c 0x0B03 else h

/-- The corrected burst is counted; the first since the via test is reported (13:R282). -/
def Hw.countCorrected (h : Hw) (s c : Nat) (w : Who) : Hw :=
  let k := h.chan s c
  let h := h.updChan s c fun k => { k with corr := BitVec.ofNat 24 (satInc (2 ^ 24 - 1) k.corr.toNat), told := true }
  let h := h.count (ctrDie s 162) 1 w.priv w.cls w.src
  if k.told then h else h.raiseChan s c 0x0B01

/-- The decoder has corrected burst `b` by `fix`. -/
def Hw.corrected (h : Hw) (s b : Nat) (fix : List (Nat × Nat)) (w : Who) : Hw :=
  let c := chanOf (64 * b)
  let eras := (h.chan s c).eras.map (·.toNat)
  let unknown := (fix.map (·.1)).filter fun p => !eras.contains p
  let h := h.updChan s c fun k => k.decodedAs unknown
  if fix.isEmpty then h else unknown.foldl (fun h p => h.markPos s c p) (h.countCorrected s c w)

/-- Bursts that a range touches. -/
def burstsOf (off n : Nat) : List Nat :=
  if n = 0 then [] else (List.range ((off + n - 1) / 64 - off / 64 + 1)).map (· + off / 64)

/-- Channels count the bursts that they decode (13:R281). -/
def Stack.decoded (k : Stack) (bs : List Nat) : Stack :=
  { k with chans := bs.foldl (fun v b => vupd v (chanOf (64 * b)) fun (c : Chan) => { c with seen := c.seen + 1 }) k.chans }

/-- An agent's read or partial write decodes bursts, each by what stands in it (13:R281, R282). -/
def Hw.decodeBursts (h : Hw) (s : Nat) (bs : List Nat) (w : Who) : Hw :=
  if (h.stk s).errs.isEmpty then h.updStk s fun k => k.decoded bs
  else bs.foldl (fun h b =>
    match (h.stk s).errsOf b with
    | [] => h.updStk s fun k => k.decoded [b]
    | err => match rsDecode ((h.stk s).erasOf b) err with
      | some fix => h.corrected s b fix w
      | none => h) h

/-- A burst lies wholly in a range. -/
def burstWhole (off n b : Nat) : Bool := decide (off ≤ 64 * b) && decide (64 * b + 64 ≤ off + n)

/-- The first uncorrectable burst of a read. -/
def Stack.badRead (k : Stack) (off n : Nat) : Option Nat := (burstsOf off n).find? fun b => k.burstBad b

/-- The first uncorrectable burst that a write covers only in part (13:R285). -/
def Stack.badWrite (k : Stack) (off n : Nat) : Option Nat :=
  (burstsOf off n).find? fun b => k.burstBad b && !burstWhole off n b

/-- Bytes are stored; every burst written holds a fresh codeword, and one wholly written is readable again (13:R277, R285). A stack in retention is
on again (13:R288). -/
def Stack.store (k : Stack) (off : Nat) (data : List Byte) : Stack :=
  { k with
    mem := k.mem.writeN off data
    bad := k.bad.filter fun b => !burstWhole off data.length b
    errs := k.errs.filter fun e => !(decide (off < 64 * e.1 + 64) && decide (64 * e.1 < off + data.length) &&
      (burstWhole off data.length e.1 || !k.burstBad e.1))
    mst := if k.mst = .retention then .on else k.mst }

def Stack.wake (k : Stack) : Stack := { k with mst := if k.mst = .retention then .on else k.mst }

/-- An access wakes a stack in retention, which is counted (13:R288, 22 Table 22-1). -/
def Hw.wakeStk (h : Hw) (s : Nat) (w : Who) : Hw :=
  if (h.stk s).mst == .retention then (h.updStk s Stack.wake).count (ctrDie s 165) 1 w.priv w.cls w.src else h

/-- Stacks that work of the hub reaches wake first (13:R288). -/
def Hw.wakeStks (h : Hw) (l : List Nat) (w : Who) : Hw := l.foldl (fun h s => h.wakeStk s w) h

/-- What a read does to the stack besides delivering its bytes: wake, decoding, counts. -/
def Hw.stkTouch (h : Hw) (s off n : Nat) (w : Who) : Hw :=
  ((h.wakeStk s w).decodeBursts s (burstsOf off n) w).count (ctrDie s 160) n w.priv w.cls w.src

/-- A read of a stack. -/
def Hw.stkRead (h : Hw) (s off n : Nat) (w : Who) : Except Stop (List Byte × Hw) :=
  match (h.stk s).badRead off n with
  | some b => .error (.burst s b)
  | none => .ok ((h.stk s).mem.readN off n, h.stkTouch s off n w)

/-- Bytes put into a stack, whose partly written bursts are read first (13:R277). -/
def Hw.stkPut (h : Hw) (s off : Nat) (data : List Byte) (w : Who) : Hw :=
  (((h.wakeStk s w).decodeBursts s ((burstsOf off data.length).filter fun b => !burstWhole off data.length b) w).updStk s
    fun k => k.store off data).count (ctrDie s 161) data.length w.priv w.cls w.src

/-- A write of a stack. -/
def Hw.stkWrite (h : Hw) (s off : Nat) (data : List Byte) (w : Who) : Except Stop Hw :=
  match (h.stk s).badWrite off data.length with
  | some b => .error (.burst s b)
  | none => .ok (h.stkPut s off data w)

end Sys2Proof.Machine
end

