-- ==== Sys2Proof/Machine/Access.lean ====
section
/-! DEFINITION. Address translation: table entries, walks, DTU caches, translated reads and writes (14). -/

namespace Sys2Proof.Machine

/-! ### Table entries (14 Table 14-2) -/

def teV (e : Nat) : Bool := e.testBit 63
def teTgt (e : Nat) : Nat := natFld e 61 2
def teW (e : Nat) : Bool := e.testBit 60
def tePin (e : Nat) : Bool := e.testBit 59
def teLeaf (e : Nat) : Bool := e.testBit 58
def teD (e : Nat) : Bool := e.testBit 57
def teStack (e : Nat) : Nat := natFld e 52 4
def teAddr (e : Nat) : Nat := natFld e 0 48

/-- Malformed under 14:R294. -/
def teMalformed (level e : Nat) : Bool :=
  natFld e 56 1 ≠ 0 || natFld e 48 4 ≠ 0 || teTgt e = 3 || (teTgt e ≠ 1 && teStack e ≠ 0) ||
    (if teLeaf e then
      level = 1 || (teTgt e ≠ 2 && 2 ^ 16 ≤ teAddr e) || (level = 2 && teAddr e % 0x200 ≠ 0)
    else
      level = 3 || teTgt e = 2 || 2 ^ 20 ≤ teAddr e || (level = 1 && teAddr e % 16 ≠ 0))

/-- The stack that an entry targets from die `n`, if it targets one. -/
def teStackOf (n e : Nat) : Option Nat := if teTgt e = 0 then some n else if teTgt e = 1 then some (teStack e) else none

/-- The stack is off, or its compute die is unavailable under 13:R283. -/
def Hw.stkUnavailable (h : Hw) (s : Nat) : Bool := (h.stk s).mst == .off || (h.die s).chFail

/-- The kind of fault an entry gives, in the order of 14:R294; none when the walk may pass it. -/
def Hw.entryFault (h : Hw) (n level e access : Nat) : Option Nat :=
  if !teV e then some 1
  else if teMalformed level e then some 3
  else if (teStackOf n e).any h.stkUnavailable then some 4
  else if teLeaf e && access ≠ 1 && !teW e then some 2
  else none

/-- The root of a translation table (14 Table 14-8): stack and byte offset. -/
structure Root where
  stk : Nat
  off : Nat
  deriving DecidableEq, Repr

def DieCtx.root (x : DieCtx) : Root := ⟨x.rootStk.toNat, 8192 * x.rootOff.toNat⟩

/-- A resolved page: its host or stack address of byte 0, its size, and where its entry lies. -/
structure Leaf where
  host : Bool
  stk : Nat
  base : Nat
  size : Nat
  entry : Nat
  atStk : Nat
  atOff : Nat
  deriving DecidableEq, Repr

/-- One table entry, read like any stack access (14:R293). -/
def Hw.readEntry (h : Hw) (s off : Nat) : Except Stop Nat :=
  match (h.stk s).badRead off 8 with
  | some b => .error (.burst s b)
  | none => .ok ((h.stk s).mem.readLE off 8)

/-- Place of the level-`l` entry that an address selects in a table at (s, off). -/
def entryOff (level off va : Nat) : Nat :=
  off + 8 * (if level = 1 then natFld va 38 10 else if level = 2 then natFld va 25 13 else natFld va 16 9)

/-- A leaf entry resolved. -/
def mkLeaf (n level e s off : Nat) : Leaf where
  host := teTgt e == 2
  stk := (teStackOf n e).getD 0
  base := teAddr e * 65536
  size := if level = 2 then 2 ^ 25 else 2 ^ 16
  entry := e
  atStk := s
  atOff := off

/-- The walk from a level on; three levels at most (14:R293). -/
def Hw.walkFrom (h : Hw) (n va access : Nat) : Nat → Nat → Nat → Nat → Except Stop Leaf
  | 0, _, _, _ => .error (.fault va 3 3 access)
  | fuel + 1, level, s, off => do
    let a := entryOff level off va
    let e ← h.readEntry s a
    match h.entryFault n level e access with
    | some k => .error (.fault va k level access)
    | none =>
      if teLeaf e then .ok (mkLeaf n level e s a)
      else h.walkFrom n va access fuel (level + 1) ((teStackOf n e).getD 0) (teAddr e * 4096)

/-- The leaf of an address on die `n`. -/
def Hw.walk (h : Hw) (n : Nat) (root : Root) (va access : Nat) : Except Stop Leaf :=
  h.walkFrom n va access 3 1 root.stk root.off

/-- Where the walk of an address reads entries, in order, as far as it goes. -/
def Hw.walkPath (h : Hw) (n va : Nat) : Nat → Nat → Nat → Nat → List (Nat × Nat)
  | 0, _, _, _ => []
  | fuel + 1, level, s, off =>
    let a := entryOff level off va
    match h.readEntry s a with
    | .error _ => [(s, a)]
    | .ok e =>
      (s, a) :: if (h.entryFault n level e 1).isSome || teLeaf e then []
        else h.walkPath n va fuel (level + 1) ((teStackOf n e).getD 0) (teAddr e * 4096)

/-- Table walks, for the counters (22 Table 22-4). -/
def walkWho (n : Nat) (p : Priv) : Who := ⟨p, 7, srcBytes n 0xFF 0x18⟩

/-- The entries that a walk reads are stack accesses like any other: they wake a stack, are decoded and counted, and pass the fabric (14:R293, 01:R33). -/
def Hw.walkTouch (h : Hw) (n : Nat) (root : Root) (va : Nat) (p : Priv) : Hw :=
  (h.walkPath n va 3 1 root.stk root.off).foldl (fun h e => (h.stkTouch e.1 e.2 8 (walkWho n p)).carry e.1 n 8 (walkWho n p)) h

/-- The last `k` elements of a list. -/
def lastN {α : Type} (k : Nat) (l : List α) : List α := l.drop (l.length - k)

/-- The leaf enters the cache of the die (14:R297): 4,096 small-page and 256 large-page leaves. -/
def Die.cacheLeaf (d : Die) (root : Root) (va : Nat) (l : Leaf) : Die :=
  let c : CLeaf := ⟨BitVec.ofNat 4 root.stk, BitVec.ofNat 19 (root.off / 8192), va / l.size, l.size != 65536,
    BitVec.ofNat 64 l.entry, l.atStk, l.atOff⟩
  let rest := d.dtu.filter fun x => !(x.rootStk == c.rootStk && x.rootOff == c.rootOff && x.page == c.page && x.large == c.large)
  let same := (rest.filter fun x => x.large == c.large)
  let other := (rest.filter fun x => x.large != c.large)
  { d with dtu := other ++ lastN (if c.large then 255 else 4095) same ++ [c] }

/-- Is the leaf of an address cached? -/
def Die.cached (d : Die) (root : Root) (va : Nat) : Bool :=
  d.dtu.any fun x => x.rootStk.toNat == root.stk && 8192 * x.rootOff.toNat == root.off &&
    x.page == va / (if x.large then 2 ^ 25 else 2 ^ 16)

/-- The first write through a leaf with D = 0 sets D before the access (14:R296). -/
def Hw.setD (h : Hw) (n : Nat) (l : Leaf) (access : Nat) (p : Priv) : Hw :=
  if access ≠ 1 && !teD l.entry then
    (h.stkPut l.atStk l.atOff (leBytes 8 (l.entry ||| 2 ^ 57)) (walkWho n p)).carry n l.atStk 8 (walkWho n p)
  else h

/-- A translated access: walk, D bit, cache and DTU counters (14:R292-R297). The cache never changes a result: a leaf that is cached saves the reads of the
walk. -/
def Hw.translate (h : Hw) (n : Nat) (root : Root) (va access : Nat) (w : Who) : Except Stop (Leaf × Hw) := do
  let l ← h.walk n root va access
  let hit := (h.die n).cached root va
  let h := if hit then h else h.walkTouch n root va w.priv
  let h := h.setD n l access w.priv
  let h := h.updDie n fun d => d.cacheLeaf root va l
  .ok (l, h.count (ctrDie n (if hit then 144 else 145)) 1 w.priv 7 (srcBytes n 0xFF 0x18) (some va))

/-- An address range cut at 64 KiB page boundaries: address and length. -/
def pagesOf : Nat → Nat → Nat → List (Nat × Nat)
  | 0, _, _ => []
  | fuel + 1, va, n =>
    if n = 0 then [] else
      let m := min n (65536 - va % 65536)
      (va, m) :: pagesOf fuel (va + m) (n - m)

def pagesOfRange (va n : Nat) : List (Nat × Nat) := pagesOf (n / 65536 + 2) va n

/-- The bytes of one page piece, which come from host memory or a stack, through the fabric where that is another die's than the agent's (01:R33, 14:R295). -/
def Hw.leafRead (h : Hw) (l : Leaf) (va len : Nat) (w : Who) : Except Stop (List Byte × Hw) :=
  let a := l.base + va % l.size
  if l.host then (if h.host.bme then .ok (h.host.mem.readN a len, h.carry 99 w.die len w (some va)) else .error .wait)
  else do
    let r ← h.stkRead l.stk a len w
    .ok (r.1, r.2.carry l.stk w.die len w (some va))

def Hw.leafWrite (h : Hw) (l : Leaf) (va : Nat) (data : List Byte) (w : Who) : Except Stop Hw :=
  let a := l.base + va % l.size
  if l.host then
    (if h.host.bme then .ok ((h.onHost fun x => { x with mem := x.mem.writeN a data }).carry w.die 99 data.length w (some va)) else .error .wait)
  else do
    let r ← h.stkWrite l.stk a data w
    .ok (r.carry w.die l.stk data.length w (some va))

/-- Reads of the pieces in order. -/
def Hw.readPieces (n : Nat) (root : Root) (access : Nat) (w : Who) : List (Nat × Nat) → Hw → Except Stop (List Byte × Hw)
  | [], h => .ok ([], h)
  | p :: r, h => do
    let t ← h.translate n root p.1 access w
    let x ← t.2.leafRead t.1 p.1 p.2 w
    let y ← Hw.readPieces n root access w r x.2
    .ok (x.1 ++ y.1, y.2)

/-- A read of `len` bytes at a device virtual address by an agent of die `n`. -/
def Hw.vaReadR (h : Hw) (n : Nat) (root : Root) (va len : Nat) (w : Who) : Except Stop (List Byte × Hw) :=
  Hw.readPieces n root 1 w (pagesOfRange va len) h

def Hw.writePieces (n : Nat) (root : Root) (access : Nat) (w : Who) : List (Nat × Nat) → List Byte → Hw → Except Stop Hw
  | [], _, h => .ok h
  | p :: r, data, h => do
    let t ← h.translate n root p.1 access w
    let x ← t.2.leafWrite t.1 p.1 (data.take p.2) w
    Hw.writePieces n root access w r (data.drop p.2) x

/-- A write at a device virtual address; nothing is written when any part of it stops. -/
def Hw.vaWriteR (h : Hw) (n : Nat) (root : Root) (va : Nat) (data : List Byte) (w : Who) (access : Nat := 2) : Except Stop Hw :=
  Hw.writePieces n root access w (pagesOfRange va data.length) data h

def Hw.vaRead (h : Hw) (n va len : Nat) (w : Who) : Except Stop (List Byte × Hw) := h.vaReadR n (h.cx n).root va len w
def Hw.vaWrite (h : Hw) (n va : Nat) (data : List Byte) (w : Who) (access : Nat := 2) : Except Stop Hw :=
  h.vaWriteR n (h.cx n).root va data w access

/-- Pages of a range map with PIN = 1 to stack memory (17 Table 17-3, 18:R385). -/
def Hw.pinned (h : Hw) (n : Nat) (root : Root) (va len access : Nat) : Bool :=
  (pagesOfRange va len).all fun p => match h.walk n root p.1 access with
    | .ok l => tePin l.entry && !l.host
    | .error _ => false

/-- Pages of a range map with PIN = 1 onto stack `s` from offset `off` in one run. -/
def Hw.pinnedAt (h : Hw) (n : Nat) (root : Root) (va len s off : Nat) : Bool :=
  (pagesOfRange va len).all fun p => match h.walk n root p.1 1 with
    | .ok l => tePin l.entry && !l.host && l.stk == s && l.base + p.1 % l.size == off + (p.1 - va)
    | .error _ => false

end Sys2Proof.Machine
end

