-- ==== Sys2Proof/Machine/Operands.lean ====
section
/-! DEFINITION. The operand fields of a control word (03 Tables 3-2 to 3-10). -/

namespace Sys2Proof.Machine

/-! ### SEQ (Table 3-3) and IMM (Table 3-4) -/

/-- SEQ.CLASS. -/
def cwClass (w : Word512) : Nat := fld w 511 508

/-- SEQ.TARGET. -/
def cwTarget (w : Word512) : Nat := fld w 507 492

/-- SEQ.LC. -/
def cwLc (w : Word512) : Nat := fld w 491 489

/-- SEQ.LDLC. -/
def cwLdlc (w : Word512) : Nat := fld w 488 486

/-- SEQ.IMMUSE. -/
def cwImmuse (w : Word512) : Nat := fld w 485 483

/-- SEQ.FLAG. -/
def cwFlag (w : Word512) : Nat := fld w 482 480

/-- IMM. -/
def cwImm (w : Word512) : Nat := fld w 31 0

/-! ### SYNC (Table 3-5) -/

/-- SYNC: BAR. -/
def cwBar (w : Word512) : Nat := fld w 479 478

/-- SYNC: SEMOP. -/
def cwSemop (w : Word512) : Nat := fld w 477 476

/-- SYNC: SEM. -/
def cwSem (w : Word512) : Nat := fld w 475 470

/-- SYNC: SEMN. -/
def cwSemn (w : Word512) : Nat := fld w 469 466

/-- SYNC: SIGREM. -/
def cwSigrem (w : Word512) : Nat := fld w 465 465

/-- SYNC: TRIG. -/
def cwTrig (w : Word512) : Nat := fld w 464 464

/-- SYNC: STREAM. -/
def cwStream (w : Word512) : Nat := fld w 463 458

/-- SYNC: SMALL. -/
def cwSmall (w : Word512) : Nat := fld w 457 457

/-- SYNC: YIELD. -/
def cwYield (w : Word512) : Nat := fld w 456 456

/-- SYNC: FLOP. -/
def cwFlop (w : Word512) : Nat := fld w 455 454

/-- SYNC: FLAGN. -/
def cwFlagn (w : Word512) : Nat := fld w 453 451

/-- SYNC: SRD. -/
def cwSrd (w : Word512) : Nat := fld w 450 449

/-- SYNC: the reserved bit. -/
def cwSyncRsv (w : Word512) : Nat := fld w 448 448

/-! ### MX (Table 3-6) -/

/-- MX: MODE. -/
def mxMode (w : Word512) : Nat := fld w 447 446

/-- MX: FMTA. -/
def mxFmta (w : Word512) : Nat := fld w 445 443

/-- MX: FMTS. -/
def mxFmts (w : Word512) : Nat := fld w 442 440

/-- MX: ACCROW. -/
def mxAccrow (w : Word512) : Nat := fld w 439 430

/-- MX: ACC, or HALF in MODE 0b11 (07:R164). -/
def mxAcc (w : Word512) : Nat := fld w 429 429

/-- MX: STROW. -/
def mxStrow (w : Word512) : Nat := fld w 428 422

/-- MX: DROW. -/
def mxDrow (w : Word512) : Nat := fld w 421 412

/-- MX: DRN. -/
def mxDrn (w : Word512) : Nat := fld w 411 411

/-- MX: DZERO. -/
def mxDzero (w : Word512) : Nat := fld w 410 410

/-- MX: TWR. -/
def mxTwr (w : Word512) : Nat := fld w 409 409

/-- MX: TROW. -/
def mxTrow (w : Word512) : Nat := fld w 408 403

/-- MX: ROWLC. -/
def mxRowlc (w : Word512) : Nat := fld w 402 402

/-- MX: MXLC. -/
def mxLc (w : Word512) : Nat := fld w 401 399

/-- MX: reserved bits. -/
def mxRsv (w : Word512) : Nat := fld w 398 384

/-! ### VX (Table 3-7) -/

/-- VX: SRCA. -/
def vxSrca (w : Word512) : Nat := fld w 335 332

/-- VX: VLU. -/
def vxVlu (w : Word512) : Nat := fld w 331 331

/-- VX: CX. -/
def vxCx (w : Word512) : Nat := fld w 330 329

/-- VX: PSRC. -/
def vxPsrc (w : Word512) : Nat := fld w 328 326

/-- VX: PSET. -/
def vxPset (w : Word512) : Nat := fld w 325 325

/-- VX: RND. -/
def vxRnd (w : Word512) : Nat := fld w 324 323

/-- VX: OFMT. -/
def vxOfmt (w : Word512) : Nat := fld w 322 319

/-- VX: reserved bits. -/
def vxRsv (w : Word512) : Nat := fld w 318 288

/-- Slot `i` of the chain, 12 bits; SLOT0 is the highest. -/
def vxSlot (w : Word512) (i : Nat) : Nat := natFld w.toNat (288 + 84 - 12 * i) 12
/-- Opcode of a slot; 0 is empty. -/
def slotOp (x : Nat) : Nat := natFld x 6 6
/-- SRCB of a slot. -/
def slotSrcb (x : Nat) : Nat := natFld x 3 3
/-- Modifier of a slot (08 Table 8-2). -/
def slotMod (x : Nat) : Nat := natFld x 0 3
/-- The number of non-empty slots, which come first in a word that is not skipped (03:R78). -/
def vxN (w : Word512) : Nat := ((List.range 4).filter fun i => slotOp (vxSlot w i) ≠ 0).length

/-! ### SC (Table 3-8) -/

/-- SC: SCANOP. -/
def scOp (w : Word512) : Nat := fld w 287 285

/-- SC: SSRC. -/
def scSrc (w : Word512) : Nat := fld w 284 283

/-- SC: SEG. -/
def scSeg (w : Word512) : Nat := fld w 282 282

/-- SC: CARRY. -/
def scCarry (w : Word512) : Nat := fld w 281 281

/-- SC: RSUOP. -/
def rsuOp (w : Word512) : Nat := fld w 280 278

/-- SC: RSRC. -/
def rsuSrc (w : Word512) : Nat := fld w 277 276

/-- SC: TOPK. -/
def rsuTopk (w : Word512) : Nat := fld w 275 270

/-- SC: RSLOT. -/
def rsuSlot (w : Word512) : Nat := fld w 269 268

/-- SC: reserved bits. -/
def scRsv (w : Word512) : Nat := fld w 267 256

/-! ### VF (Table 3-9) -/

/-- VF: EN. -/
def vfEn (w : Word512) : Nat := fld w 255 255

/-- VF: ENTRY. -/
def vfEntry (w : Word512) : Nat := fld w 254 247

/-- VF: BANK. -/
def vfBank (w : Word512) : Nat := fld w 246 246

/-- VF: SWAP. -/
def vfSwap (w : Word512) : Nat := fld w 245 245

/-- VF: VSRC. -/
def vfSrc (w : Word512) : Nat := fld w 244 243

/-- VF: reserved bits. -/
def vfRsv (w : Word512) : Nat := fld w 242 224

/-! ### Address generators (Table 3-10) -/

/-- Generator `g` of the word, 48 bits: AG0 is the highest. -/
def agBits (w : Word512) (g : Nat) : Nat := natFld w.toNat (176 - 48 * g) 48
def agEn (a : Nat) : Bool := a.testBit 47
def agWidth (a : Nat) : Nat := natFld a 44 3
def agBase (a : Nat) : Nat := natFld a 28 16
def agStride (a : Nat) : Nat := natFld a 12 16
def agLc (a : Nat) : Nat := natFld a 9 3
def agLcen (a : Nat) : Bool := a.testBit 8
def agWsrc (a : Nat) : Nat := natFld a 4 4
def agDir (a : Nat) : Bool := a.testBit 3
def agRsv (a : Nat) : Nat := natFld a 0 3
/-- Bytes of an access: 64 to 4,096. -/
def agBytes (a : Nat) : Nat := 64 <<< agWidth a
/-- Generator `g` reads: enabled, AG2 excepted, AG3 only with DIR = 0. -/
def agReads (w : Word512) (g : Nat) : Bool := let a := agBits w g; agEn a && g ≠ 2 && !(g == 3 && agDir a)
/-- Generator `g` writes: AG2, or AG3 with DIR = 1. -/
def agWrites (w : Word512) (g : Nat) : Bool := let a := agBits w g; agEn a && (g == 2 || (g == 3 && agDir a))

end Sys2Proof.Machine
end

