-- ==== Sys2Proof/Machine/Formats.lean ====
section
/-! DEFINITION. Element formats, exact values, rounding and conversion (05:R109-R115), and FP32 arithmetic (08:R180). -/

namespace Sys2Proof.Machine

/-- The exact value of an encoding: a NaN, an infinity, or (-1)^neg · m · 2^e with its sign kept for zeros. -/
inductive Val where
  | nan
  | inf (neg : Bool)
  | num (neg : Bool) (m : Nat) (e : Int)
  deriving DecidableEq, Repr

/-- How a floating-point format ends its range (Table 5-1). -/
inductive FKind where
  /-- exponent all ones holds infinities and NaN -/
  | ieee
  /-- OCP E4M3: one NaN code, no infinity, conversion saturates -/
  | e4m3
  /-- E2M1 elements of MXFP4: neither NaN nor infinity -/
  | e2m1
  deriving DecidableEq, Repr

/-- A floating-point layout: exponent and fraction bits, bias and kind. -/
structure FFmt where
  eb : Nat
  mb : Nat
  bias : Nat
  kind : FKind
  deriving DecidableEq, Repr

def fFP32 : FFmt := ⟨8, 23, 127, .ieee⟩
def fBF16 : FFmt := ⟨8, 7, 127, .ieee⟩
def fFP16 : FFmt := ⟨5, 10, 15, .ieee⟩
def fE4M3 : FFmt := ⟨4, 3, 7, .e4m3⟩
def fE5M2 : FFmt := ⟨5, 2, 15, .ieee⟩
def fE2M1 : FFmt := ⟨2, 1, 1, .e2m1⟩

/-- Exponent of the unit of the least binade. -/
def FFmt.qmin (f : FFmt) : Int := 1 - (f.bias : Int) - (f.mb : Int)
/-- The magnitude code of the largest finite value. -/
def FFmt.maxMag (f : FFmt) : Nat :=
  match f.kind with
  | .ieee => (2 ^ f.eb - 1) * 2 ^ f.mb - 1
  | .e4m3 => 0x7E
  | .e2m1 => 7
/-- The canonical NaN, sign 0 (Table 5-1, 05:R110); E2M1 has none and gives 0. -/
def FFmt.nan (f : FFmt) : Nat :=
  match f.kind with
  | .ieee => (2 ^ f.eb - 1) * 2 ^ f.mb + 2 ^ (f.mb - 1)
  | .e4m3 => 0x7F
  | .e2m1 => 0

/-- The exact value of an encoding of format `f`. -/
def decodeF (f : FFmt) (n : Nat) : Val :=
  let mag := n % 2 ^ (f.eb + f.mb)
  let neg := n.testBit (f.eb + f.mb)
  let ex := mag >>> f.mb
  let fr := mag % 2 ^ f.mb
  let fin : Val := if ex = 0 then .num neg fr f.qmin else .num neg (2 ^ f.mb + fr) (f.qmin + (ex : Int) - 1)
  match f.kind with
  | .ieee => if ex = 2 ^ f.eb - 1 then (if fr = 0 then .inf neg else .nan) else fin
  | .e4m3 => if mag = 0x7F then .nan else fin
  | .e2m1 => fin

/-- Number of significant bits. -/
def bitLen (m : Nat) : Nat := if m = 0 then 0 else Nat.log2 m + 1

/-- Rounding of a magnitude to an integral multiple of a unit. -/
inductive Rnd where
  /-- to nearest, ties to even (05:R114) -/
  | even
  /-- stochastic with a 32-bit draw (05:R115) -/
  | stoch (draw : Nat)
  deriving DecidableEq, Repr

/-- m·2^e divided by 2^q, rounded to an integer under `r`. -/
def roundTo (r : Rnd) (m : Nat) (e q : Int) : Nat :=
  if q ≤ e then m <<< (e - q).toNat
  else
    let s := (q - e).toNat
    if bitLen m + 40 < s then 0
    else
      let lo := m >>> s
      let rem := m % 2 ^ s
      match r with
      | .even => if 2 * rem > 2 ^ s || (2 * rem == 2 ^ s && lo % 2 == 1) then lo + 1 else lo
      | .stoch d => if (rem <<< 24) / 2 ^ s + d % 2 ^ 24 ≥ 2 ^ 24 then lo + 1 else lo

/-- The magnitude code of m·2^e in format `f`, before overflow is handled. -/
def magCode (f : FFmt) (r : Rnd) (m : Nat) (e : Int) : Nat :=
  let q := max f.qmin (e + (bitLen m : Int) - (f.mb + 1 : Nat))
  let k := roundTo r m e q
  k + (q - f.qmin).toNat * 2 ^ f.mb

/-- What an overflowing magnitude becomes (05:R111). -/
def overflowMag (f : FFmt) : Nat :=
  match f.kind with
  | .ieee => (2 ^ f.eb - 1) * 2 ^ f.mb
  | .e4m3 => f.maxMag
  | .e2m1 => f.maxMag

/-- Conversion of an exact value to format `f` under `r` (05:R111). -/
def encodeF (f : FFmt) (r : Rnd) (v : Val) : Nat :=
  let sgn (neg : Bool) : Nat := if neg then 2 ^ (f.eb + f.mb) else 0
  match v with
  | .nan => f.nan
  | .inf neg => sgn neg + overflowMag f
  | .num neg m e =>
    if m = 0 then sgn neg
    else if e + (bitLen m : Int) > 2 ^ f.eb + 8 then sgn neg + overflowMag f
    else
      let c := magCode f r m e
      sgn neg + (if c > f.maxMag then overflowMag f else c)

def toF32 (v : Val) : Nat := encodeF fFP32 .even v
def ofF32 (n : Nat) : Val := decodeF fFP32 n

/-- The canonical FP32 NaN. -/
def nan32 : Nat := 0x7FC00000
/-- 1.0 in FP32. -/
def one32 : Nat := 0x3F800000
def isNan32 (n : Nat) : Bool := n % 2 ^ 31 > 0x7F800000
/-- A NaN payload never propagates (05:R110). -/
def canon32 (x : Nat) : Nat := if isNan32 x then nan32 else x
def isZero32 (n : Nat) : Bool := n % 2 ^ 31 == 0

/-! ### Exact arithmetic -/

def Val.isNan : Val → Bool
  | .nan => true
  | _ => false

def Val.isNeg : Val → Bool
  | .nan => false
  | .inf n => n
  | .num n _ _ => n

def Val.neg : Val → Val
  | .nan => .nan
  | .inf n => .inf (!n)
  | .num n m e => .num (!n) m e

def Val.abs : Val → Val
  | .nan => .nan
  | .inf _ => .inf false
  | .num _ m e => .num false m e

/-- m·2^e as an integer multiple of 2^q, for q ≤ e. -/
def sgnInt (neg : Bool) (m : Nat) (e q : Int) : Int :=
  let k : Int := ((m <<< (e - q).toNat : Nat) : Int)
  if neg then -k else k

/-- The exact product; 0 × ∞ is NaN. -/
def Val.mul : Val → Val → Val
  | .nan, _ => .nan
  | _, .nan => .nan
  | .inf a, .inf b => .inf (a != b)
  | .inf a, .num b m _ => if m = 0 then .nan else .inf (a != b)
  | .num a m _, .inf b => if m = 0 then .nan else .inf (a != b)
  | .num a m e, .num b k f => .num (a != b) (m * k) (e + f)

/-- The exact sum; ∞ − ∞ is NaN, and a zero sum is −0 only for two negative zeros. -/
def Val.add : Val → Val → Val
  | .nan, _ => .nan
  | _, .nan => .nan
  | .inf a, .inf b => if a = b then .inf a else .nan
  | .inf a, .num _ _ _ => .inf a
  | .num _ _ _, .inf b => .inf b
  | .num a m e, .num b k f =>
    if m = 0 && k = 0 then .num (a && b) 0 0
    else if m = 0 then .num b k f
    else if k = 0 then .num a m e
    else
      let q := min e f
      let s := sgnInt a m e q + sgnInt b k f q
      if s = 0 then .num false 0 0 else .num (decide (s < 0)) s.natAbs q

def Val.sub (a b : Val) : Val := a.add b.neg

/-- The quotient to 80 bits with a sticky last bit, so that any later rounding to 64 bits or fewer is exact. -/
def Val.div : Val → Val → Val
  | .nan, _ => .nan
  | _, .nan => .nan
  | .inf _, .inf _ => .nan
  | .inf a, .num b _ _ => .inf (a != b)
  | .num a _ _, .inf b => .num (a != b) 0 0
  | .num a m e, .num b k f =>
    if k = 0 then (if m = 0 then .nan else .inf (a != b))
    else
      let s := 80 + bitLen k
      let qn := (m <<< s) / k
      let st := if (m <<< s) % k = 0 then 0 else 1
      .num (a != b) (2 * qn + st) (e - f - (s : Int) - 1)

/-- The square root to 80 bits with a sticky last bit. -/
def Val.sqrt : Val → Val
  | .nan => .nan
  | .inf neg => if neg then .nan else .inf false
  | .num neg m e =>
    if m = 0 then .num neg 0 0
    else if neg then .nan
    else
      let s : Nat := if (e - 160) % 2 = 0 then 160 else 161
      let x := m <<< s
      let rt := Nat.sqrt x
      let st := if rt * rt = x then 0 else 1
      .num false (2 * rt + st) ((e - (s : Int)) / 2 - 1)

/-- Exact value times 2^n. -/
def Val.scale2 (v : Val) (n : Int) : Val :=
  match v with
  | .num a m e => .num a m (e + n)
  | x => x

/-- a < b for numbers and infinities; false with a NaN. -/
def Val.lt (a b : Val) : Bool :=
  match a.sub b with
  | .num n m _ => n && m ≠ 0
  | .inf n => n
  | .nan =>
    match a, b with
    | .inf x, .inf y => x && !y
    | _, _ => false

def Val.ofInt (i : Int) : Val := .num (decide (i < 0)) i.natAbs 0

/-- Rounding directions to an integral value. -/
inductive IRnd where
  | down | up | even | zero
  deriving DecidableEq, Repr

/-- The integer a finite value rounds to. -/
def roundInt (r : IRnd) (neg : Bool) (m : Nat) (e : Int) : Int :=
  if 0 ≤ e then (let k : Int := ((m <<< e.toNat : Nat) : Int); if neg then -k else k)
  else
    let s := (-e).toNat
    if bitLen m + 2 < s then
      match r with
      | .down => if neg && m ≠ 0 then -1 else 0
      | .up => if !neg && m ≠ 0 then 1 else 0
      | _ => 0
    else
      let lo := m >>> s
      let rem := m % 2 ^ s
      let up : Bool := match r with
        | .down => neg && rem ≠ 0
        | .up => !neg && rem ≠ 0
        | .even => 2 * rem > 2 ^ s || (2 * rem == 2 ^ s && lo % 2 == 1)
        | .zero => false
      let k : Int := ((if up then lo + 1 else lo : Nat) : Int)
      if neg then -k else k

/-- floor of a finite value, used by the reductions of Table 10-1. -/
def Val.floor (v : Val) : Int :=
  match v with
  | .num n m e => roundInt .down n m e
  | _ => 0

/-! ### FP32 operations, each rounded once (08:R180) -/

def fmul (a b : Nat) : Nat := toF32 ((ofF32 a).mul (ofF32 b))
def fadd (a b : Nat) : Nat := toF32 ((ofF32 a).add (ofF32 b))
def fsub (a b : Nat) : Nat := toF32 ((ofF32 a).sub (ofF32 b))
def fdiv (a b : Nat) : Nat := toF32 ((ofF32 a).div (ofF32 b))
def fsqrt (a : Nat) : Nat := toF32 (ofF32 a).sqrt
/-- a × b + c with one rounding. -/
def ffma (a b c : Nat) : Nat := toF32 (((ofF32 a).mul (ofF32 b)).add (ofF32 c))
def fneg (a : Nat) : Nat := if isNan32 a then nan32 else a ^^^ 0x80000000
def fabs (a : Nat) : Nat := if isNan32 a then nan32 else a % 2 ^ 31

/-- Order key of a number, −0 below +0 (08:R180). -/
def fkey (a : Nat) : Int := if a.testBit 31 then -((a % 2 ^ 31 : Nat) : Int) - 1 else ((a % 2 ^ 31 : Nat) : Int)

def fmin (a b : Nat) : Nat := if isNan32 a || isNan32 b then nan32 else if fkey b < fkey a then b else a
def fmax (a b : Nat) : Nat := if isNan32 a || isNan32 b then nan32 else if fkey a < fkey b then b else a

/-- Value order of two numbers, zeros equal. -/
def flt (a b : Nat) : Bool :=
  !isNan32 a && !isNan32 b && !(isZero32 a && isZero32 b) && decide (fkey a < fkey b)
def feq (a b : Nat) : Bool :=
  !isNan32 a && !isNan32 b && ((isZero32 a && isZero32 b) || a % 2 ^ 32 == b % 2 ^ 32)

/-- An FP32 value rounded to an integral value, the sign of zero kept (08:R180). -/
def fround (r : IRnd) (a : Nat) : Nat :=
  match ofF32 a with
  | .nan => nan32
  | .inf _ => a % 2 ^ 32
  | .num n m e =>
    let k := roundInt r n m e
    if k = 0 then (if n then 0x80000000 else 0) else toF32 (Val.ofInt k)

/-- An exact value to a two's-complement integer of `w` bits: rounded, saturated; NaN gives 0 (05:R111).
The flag says that a range limit was given instead of the rounded value. -/
def valToInt (w : Nat) (r : Rnd) (v : Val) : Nat × Bool :=
  let hi : Int := (2 ^ (w - 1) : Nat) - 1
  let lo : Int := -(2 ^ (w - 1) : Nat)
  match v with
  | .nan => (0, false)
  | .inf n => (wrapInt w (if n then lo else hi), true)
  | .num n m e =>
    if m = 0 then (0, false)
    else if e + (bitLen m : Int) > 64 then (wrapInt w (if n then lo else hi), true)
    else
      let k : Int := (roundTo r m e 0 : Nat)
      let k := if n then -k else k
      if k > hi then (wrapInt w hi, true) else if k < lo then (wrapInt w lo, true) else (wrapInt w k, false)

/-! ### The formats of Table 5-1 by their 8-bit code -/

/-- Bits of one element of a format code; BXI elements are 32 and 48 bits. -/
def fmtBits (code : Nat) : Nat :=
  match code with
  | 0x01 => 32 | 0x02 => 16 | 0x03 => 16 | 0x04 => 8 | 0x05 => 8 | 0x06 => 4 | 0x07 => 8 | 0x08 => 8
  | 0x09 => 8 | 0x0A => 32 | 0x0B => 32 | 0x0C => 48 | _ => 8

def fmtIsMx (code : Nat) : Bool := code == 6 || code == 7 || code == 8
def fmtIsBxi (code : Nat) : Bool := code == 0xB || code == 0xC
def fmtIsInt (code : Nat) : Bool := code == 9 || code == 0xA
def fmtValid (code : Nat) : Bool := 1 ≤ code && code ≤ 0xC

/-- The floating layout of a format code's elements (E2M1, E4M3 and E5M2 for MX). -/
def fmtF (code : Nat) : FFmt :=
  match code with
  | 0x02 => fBF16 | 0x03 => fFP16 | 0x04 => fE4M3 | 0x05 => fE5M2 | 0x06 => fE2M1 | 0x07 => fE4M3
  | 0x08 => fE5M2 | _ => fFP32

/-- The exact value of an element; an MX element is scaled by 2^(scale − 127), NaN under scale 0xFF (05:R112). -/
def elemVal (code n scale : Nat) : Val :=
  if fmtIsInt code then .ofInt (toSigned (fmtBits code) n)
  else if fmtIsMx code then
    if scale = 0xFF then .nan else (decodeF (fmtF code) n).scale2 ((scale : Int) - 127)
  else decodeF (fmtF code) n

/-- A value converted to a non-MX, non-BXI format code, to nearest even (05:R114). -/
def elemEnc (code : Nat) (v : Val) : Nat :=
  if fmtIsInt code then (valToInt (fmtBits code) .even v).1 else encodeF (fmtF code) .even v

/-- floor(log2 |v|) of a non-zero number. -/
def Val.ilog (v : Val) : Int :=
  match v with
  | .num _ m e => e + (bitLen m : Int) - 1
  | _ => 0

def Val.isZero (v : Val) : Bool :=
  match v with
  | .num _ m _ => m == 0
  | _ => false

def Val.isNum (v : Val) : Bool :=
  match v with
  | .num _ _ _ => true
  | _ => false

/-- emax of the element formats of MX (05:R112). -/
def mxEmax (code : Nat) : Int := if code = 6 then 2 else if code = 7 then 8 else 15

/-- An element of an MX block: rounded to nearest even and saturated to the element maximum. -/
def mxElem (code : Nat) (v : Val) : Nat :=
  let f := fmtF code
  match v with
  | .num neg m e =>
    (if neg then 2 ^ (f.eb + f.mb) else 0) +
      (if m = 0 then 0 else if e + (bitLen m : Int) > 2 ^ f.eb + 8 then f.maxMag else min (magCode f .even m e) f.maxMag)
  | _ => 0

/-- One MX scale block written from wider values: its scale and its elements (05:R112). -/
def mxBlock (code : Nat) (vs : List Val) : Nat × List Nat :=
  if vs.any (fun v => !v.isNum) then (0xFF, vs.map fun _ => 0)
  else if vs.all Val.isZero then (0x7F, vs.map fun _ => 0)
  else
    let top := (vs.filter fun v => !v.isZero).foldl (fun a v => max a v.ilog) (-100000)
    let x := max (-127) (min 127 (top - mxEmax code))
    ((x + 127).toNat, vs.map fun v => mxElem code (v.scale2 (-x)))

end Sys2Proof.Machine
end

