-- ==== Sys2Proof/Machine/Tiles.lean ====
section
/-! DEFINITION. Stored tiles: layout, header, compression, sealing and verification (05:R116-R124), and the CBC format (05:R128, R129). -/

namespace Sys2Proof.Machine

/-- Dense payload bytes of a format code (Table 5-3). -/
def tilePayload (code : Nat) : Nat :=
  match code with
  | 0x01 => 16384 | 0x0A => 16384 | 0x02 => 8192 | 0x03 => 8192 | 0x04 => 4096 | 0x05 => 4096 | 0x09 => 4096
  | 0x07 => 4224 | 0x08 => 4224 | 0x06 => 2176 | 0x0B => 16448 | 0x0C => 24640 | _ => 4096

/-- Dense stored size of a tile, and the size of every tile slot (05:R120, R121). -/
def tileStored (code : Nat) : Nat := 64 + tilePayload code

/-- A compressed block, padded to 64 bytes (Table 5-3). -/
def tileBlock (code : Nat) : Nat :=
  match code with
  | 0x01 => 1024 | 0x0A => 1024 | 0x02 => 512 | 0x03 => 512 | 0x04 => 256 | 0x05 => 256 | 0x09 => 256
  | 0x07 => 320 | 0x08 => 320 | 0x06 => 192 | _ => 0

/-- Where the elements of a dense payload start: BXI tiles put 64 exponent bytes first (05:R117). -/
def tileElem0 (code : Nat) : Nat := if fmtIsBxi code then 64 else 0

/-- Raw bits of element number `i` of a dense payload (05:R117). -/
def tileRaw (code : Nat) (p : Array Byte) (i : Nat) : Nat :=
  if code = 6 then natFld (p.getD (i / 2) 0).toNat (4 * (i % 2)) 4
  else
    let n := fmtBits code / 8
    leNat ((List.range n).map fun j => p.getD (tileElem0 code + i * n + j) 0)

/-- Scale byte of row `r`, scale block `g` of a dense MX payload (05:R117). -/
def tileScale (code : Nat) (p : Array Byte) (r g : Nat) : Nat :=
  (p.getD ((4096 * fmtBits code) / 8 + 2 * r + g) 0).toNat

/-- Exponent byte of tile row `r` of a BXI payload. -/
def tileBxiExp (p : Array Byte) (r : Nat) : Nat := (p.getD r 0).toNat

/-- Exact value of element (r, c) of a dense payload, BXI excepted. -/
def tileVal (code : Nat) (p : Array Byte) (r c : Nat) : Val :=
  elemVal code (tileRaw code p (64 * r + c)) (if fmtIsMx code then tileScale code p r (c / 32) else 0x7F)

/-- Element numbers of block `b`, row-major within the block (05:R116). -/
def blockElems (b : Nat) : List Nat :=
  (List.range 256).map fun i => 64 * (16 * (b / 4) + i / 16) + 16 * (b % 4) + i % 16

/-- The present blocks of a dense payload, as a 16-bit mask (05:R119). -/
def tilePresent (code : Nat) (p : Array Byte) : Nat :=
  (List.range 16).foldl (fun m b => if (blockElems b).any (fun i => tileRaw code p i ≠ 0) then m + 2 ^ b else m) 0

/-- Blocks of a presence mask in ascending order. -/
def maskBlocks (m : Nat) : List Nat := (List.range 16).filter fun b => m.testBit b

/-- Pairs of 4-bit elements packed, low nibble first (05:R117). -/
def pack4 : List Nat → List Byte
  | [] => []
  | [a] => [BitVec.ofNat 8 (a % 16)]
  | a :: b :: r => BitVec.ofNat 8 (a % 16 + 16 * (b % 16)) :: pack4 r

/-- Raw elements packed as bytes of a format code (05:R117). -/
def packElems (code : Nat) (l : List Nat) : List Byte :=
  if code = 6 then pack4 l else l.flatMap fun x => leBytes (fmtBits code / 8) x

/-- One compressed block with its scales and padding (05:R118). -/
def tileBlockBytes (code : Nat) (p : Array Byte) (b : Nat) : List Byte :=
  let el := packElems code ((blockElems b).map (tileRaw code p))
  let sc := if fmtIsMx code then
      (List.range 16).map fun i => BitVec.ofNat 8 (tileScale code p (16 * (b / 4) + i) ((b % 4) / 2))
    else []
  let used := el ++ sc
  used ++ List.replicate (tileBlock code - used.length) 0

/-- The 32-byte header, HCRC included (Table 5-4). -/
def tileHeader (code : Nat) (comp : Bool) (present gen : Nat) (pcrc : Nat) : List Byte :=
  let h := put code 248 8 + put (b2n comp) 247 1 + put present 224 16 + put (popCount present 16) 219 5 +
    put gen 208 8 + put pcrc 176 32
  let l := leBytes 32 h
  leBytes 2 (crc16 (l.drop 2)) ++ l.drop 2

/-- A sealed tile from a dense payload: compressed only if asked, permitted and smaller (05:R120, R123). -/
def tileSeal (code gen : Nat) (compress : Bool) (payload : List Byte) : List Byte :=
  let p := payload.toArray
  let present := tilePresent code p
  let blocks := maskBlocks present
  let cs := 64 + blocks.length * tileBlock code
  if compress && !fmtIsBxi code && cs < tileStored code then
    let pre := blocks.map (BitVec.ofNat 8) ++ List.replicate (16 - blocks.length) 0xFF ++ List.replicate 16 0
    let body := pre ++ blocks.flatMap (tileBlockBytes code p)
    tileHeader code true present gen (crc32c body) ++ body
  else
    let body := List.replicate 32 0 ++ bytesAt payload 0 (tilePayload code)
    tileHeader code false present gen (crc32c body) ++ body

/-- Fields of a stored tile's header. -/
structure TileHead where
  fmt : Nat
  comp : Bool
  present : Nat
  gen : Nat
  pcrc : Nat
  ok : Bool
  deriving DecidableEq, Repr

/-- The header of a stored tile with the checks of 05:R124 that need no payload. -/
def tileHead (t : List Byte) : TileHead :=
  let h := leAt t 0 32
  let fmt := natFld h 248 8
  let comp := h.testBit 247
  let present := natFld h 224 16
  let ok := natFld h 0 16 == crc16 (bytesAt t 2 30) && fmtValid fmt && natFld h 240 7 == 0 && natFld h 216 3 == 0 &&
    natFld h 16 160 == 0 && natFld h 219 5 == popCount present 16 && !(comp && fmtIsBxi fmt)
  ⟨fmt, comp, present, natFld h 208 8, natFld h 176 32, ok⟩

/-- Stored size of a tile from its header. -/
def tileLen (h : TileHead) : Nat :=
  if h.comp then 64 + popCount h.present 16 * tileBlock h.fmt else tileStored h.fmt

/-- Verification at use: header validity for the expected format, then PCRC (05:R124, R125). -/
def tileVerify (code : Nat) (t : List Byte) : Bool :=
  let h := tileHead t
  let blocks := maskBlocks h.present
  let pre := bytesAt t 32 32
  h.ok && h.fmt == code && decide (tileLen h ≤ tileStored h.fmt) &&
    (if h.comp then
      pre == blocks.map (BitVec.ofNat 8) ++ List.replicate (16 - blocks.length) 0xFF ++ List.replicate 16 0
     else pre == List.replicate 32 0) &&
    crc32c (bytesAt t 32 (tileLen h - 32)) == h.pcrc

/-- Position of block `b` among the present blocks. -/
def blockPos (present b : Nat) : Nat := popCount present b

/-- The dense payload of a stored tile (05:R118, R119); `t` is taken as valid. -/
def tileDense (t : List Byte) : List Byte :=
  let h := tileHead t
  if !h.comp then bytesAt t 64 (tilePayload h.fmt)
  else
    let a := t.toArray
    let bs := tileBlock h.fmt
    let raw (i : Nat) : Nat :=
      let r := i / 64
      let c := i % 64
      let b := 4 * (r / 16) + c / 16
      if h.present.testBit b then
        let k := 16 * (r % 16) + c % 16
        let base := 64 + blockPos h.present b * bs
        if h.fmt = 6 then natFld (a.getD (base + k / 2) 0).toNat (4 * (k % 2)) 4
        else
          let n := fmtBits h.fmt / 8
          leNat ((List.range n).map fun j => a.getD (base + k * n + j) 0)
      else 0
    let elems := packElems h.fmt ((List.range 4096).map raw)
    let scales : List Byte := if fmtIsMx h.fmt then
        (List.range 128).map fun i =>
          let r := i / 2
          let b := 4 * (r / 16) + 2 * (i % 2)
          let off := 32 * fmtBits h.fmt + r % 16
          if h.present.testBit b then a.getD (64 + blockPos h.present b * bs + off) 0
          else if h.present.testBit (b + 1) then a.getD (64 + blockPos h.present (b + 1) * bs + off) 0
          else 0x7F
      else []
    elems ++ scales

/-- A dense payload of non-MX, non-BXI elements from values. -/
def denseFromVals (code : Nat) (v : Nat → Nat → Val) : List Byte :=
  if fmtIsMx code then
    let blk (r g : Nat) := mxBlock code ((List.range 32).map fun j => v r (32 * g + j))
    packElems code ((List.range 64).flatMap fun r => (blk r 0).2 ++ (blk r 1).2) ++
      (List.range 128).map fun i => BitVec.ofNat 8 (blk (i / 2) (i % 2)).1
  else packElems code ((List.range 4096).map fun i => elemEnc code (v (i / 64) (i % 64)))

/-- One CBC block record: payload, checksum, 30 zero bytes (05:R128). -/
def cbcRecord (payload : List Byte) : List Byte := payload ++ leBytes 2 (fletcher payload) ++ List.replicate 30 0

/-- A CBC block record verifies (05:R130). -/
def cbcVerify (code : Nat) (rec : List Byte) : Bool :=
  let n := 256 * fmtBits code / 8
  leAt rec n 2 == fletcher (bytesAt rec 0 n)

end Sys2Proof.Machine
end

