-- ==== Sys2Proof/Machine/Desc.lean ====
section
/-! DEFINITION. Tensor descriptors, windows, lists, and transfer, stream and small-transfer records: fields and validation (06, 15). -/

namespace Sys2Proof.Machine

/-! ### Tensor descriptors (06 Tables 6-1, 6-2) -/

def dsKind (x : Word512) : Nat := fld x 359 356
def dsBase (x : Word512) : Nat := fld x 511 464
def dsAbase (x : Word512) : Nat := fld x 463 428
def dsAlen (x : Word512) : Nat := fld x 427 392
def dsPadval (x : Word512) : Nat := fld x 391 360
def dsFormat (x : Word512) : Nat := fld x 355 348
def dsRank (x : Word512) : Nat := fld x 347 345
def dsLayout (x : Word512) : Nat := fld x 344 343
def dsTrans (x : Word512) : Bool := bit x 342
def dsCompw (x : Word512) : Bool := bit x 341
def dsWrite (x : Word512) : Bool := bit x 340
def dsAcc (x : Word512) : Bool := bit x 339
def dsPadmode (x : Word512) : Nat := fld x 338 337
def dsWinen (x : Word512) : Bool := bit x 336
def dsWinslot (x : Word512) : Nat := fld x 335 324
def dsSize (x : Word512) (d : Nat) : Nat := natFld x.toNat (192 + 20 * d) 20
def dsStride (x : Word512) (d : Nat) : Int := toSigned 32 (natFld x.toNat (32 * d) 32)
/-- ORIGINd of a window record (06 Table 6-2). -/
def winOrigin (x : Word512) (d : Nat) : Nat := natFld x.toNat (72 + 20 * d) 20
/-- COUNT of a coordinate list record, in the SIZE0 position. -/
def lsCount (x : Word512) : Nat := dsSize x 0

/-- Bytes of an element in linear and CBC layout. -/
def dsEsize (x : Word512) : Nat := fmtBits (dsFormat x) / 8

/-- Units of the reach along a dimension: tiles along the two innermost of a tiled descriptor, elements otherwise (06:R143). -/
def dsN (x : Word512) (d : Nat) : Nat :=
  if dsLayout x = 1 && dsRank x ≤ d + 2 then
    -- TRANS = 1 swaps which innermost size STRIDEq and STRIDEp count (06:R140)
    let e := if dsTrans x then (if d + 1 = dsRank x then d - 1 else d + 1) else d
    (dsSize x e + 63) / 64
  else dsSize x d

/-- The unit of the reach in bytes. -/
def dsUnit (x : Word512) : Nat := if dsLayout x = 1 then tileStored (dsFormat x) else dsEsize x

/-- Lowest and highest unit offset over the index box (06:R143). -/
def dsReach (x : Word512) : Int × Int :=
  (List.range (dsRank x)).foldl (fun (a : Int × Int) d =>
    let span := dsStride x d * ((dsN x d : Int) - 1)
    if span < 0 then (a.1 + span, a.2) else (a.1, a.2 + span)) (0, 0)

/-- Product of the sizes, for CBC record counts. -/
def dsCount (x : Word512) : Nat := (List.range (dsRank x)).foldl (fun a d => a * dsSize x d) 1

/-- CBC block record size: payload, checksum and 30 zero bytes (05:R128). -/
def cbcSize (code : Nat) : Nat := 256 * fmtBits code / 8 + 32

/-- The reach lies inside the allocation (06:R143). -/
def dsReachOk (x : Word512) : Bool :=
  let lo : Int := (dsAbase x : Int) * 4096
  let hi : Int := ((dsAbase x + dsAlen x : Nat) : Int) * 4096
  if dsLayout x = 2 then
    let last : Int := (dsBase x : Int) + (((dsCount x + 255) / 256 * cbcSize (dsFormat x) : Nat) : Int) - 1
    decide (lo ≤ (dsBase x : Int)) && decide (last < hi)
  else
    let r := dsReach x
    let first : Int := (dsBase x : Int) + (dsUnit x : Int) * r.1
    let last : Int := (dsBase x : Int) + (dsUnit x : Int) * (r.2 + 1) - 1
    decide (lo ≤ first) && decide (last < hi)

/-- Insertion into a list ordered by |stride|. -/
def insStride (a : Nat × Nat) : List (Nat × Nat) → List (Nat × Nat)
  | [] => [a]
  | b :: r => if a.1 ≤ b.1 then a :: b :: r else b :: insStride a r

/-- Dimensions with more than one unit, ordered by |STRIDE|: (|STRIDE|, n). -/
def dsDims (x : Word512) : List (Nat × Nat) :=
  (((List.range (dsRank x)).filter fun d => 1 < dsN x d).map fun d => ((dsStride x d).natAbs, dsN x d)).foldr insStride []

/-- Each |STRIDE| exceeds the span of those before it. -/
def nestedFrom (sum : Nat) : List (Nat × Nat) → Bool
  | [] => true
  | (s, n) :: r => decide (sum < s) && nestedFrom (sum + s * (n - 1)) r

/-- The nested test of write descriptors (06:R144); with nothing before it a stride must be at least 1. -/
def dsNested (x : Word512) : Bool := nestedFrom 0 (dsDims x)

/-- Dimensions at or above the rank are zero in the 20-bit fields from bit `lo`. -/
def hiDimsZero (x : Word512) (lo width rank : Nat) : Bool :=
  (List.range 6).all fun d => decide (d < rank) || natFld x.toNat (lo + width * d) width == 0

/-- Validation of a tensor descriptor: the first failing reason of Table 6-3, or 0 (06:R145). -/
def tensorReason (look : Nat → Word512) (x : Word512) : Nat :=
  let rank := dsRank x
  let fmt := dsFormat x
  let lay := dsLayout x
  if fld x 323 312 ≠ 0 || (!dsWinen x && dsWinslot x ≠ 0) || !hiDimsZero x 192 20 rank ||
      (lay ≠ 2 && !hiDimsZero x 0 32 rank) then 2
  else if rank < 1 || 6 < rank || !((List.range rank).all fun d => decide (1 ≤ dsSize x d)) then 3
  else if !fmtValid fmt || lay = 3 || 1 < dsPadmode x || (lay ≠ 1 && (fmtIsMx fmt || fmtIsBxi fmt)) ||
      (lay = 1 && rank < 2) || (lay ≠ 1 && (dsTrans x || dsCompw x)) || (dsCompw x && fmtIsBxi fmt) ||
      (dsPadmode x = 1 && fmtIsBxi fmt) || (dsPadval x ≥ 2 ^ fmtBits fmt) then 4
  else if (lay ≠ 0 && dsBase x % 64 ≠ 0) || (lay = 0 && dsBase x % dsEsize x ≠ 0) then 5
  else if dsAlen x = 0 || 2 ^ 36 < dsAbase x + dsAlen x then 6
  else if !dsReachOk x then 7
  else if dsWrite x && !dsAcc x && lay ≠ 2 && !dsNested x then 8
  else if dsAcc x && (!dsWrite x || !(fmt == 1 || fmt == 0xA)) then 9
  else if lay = 2 && fld x 191 0 ≠ 0 then 0xA
  else if dsWinen x then
    let w := look (dsWinslot x)
    if !dsWrite x || dsKind w ≠ 2 || dsRank w ≠ rank ||
        !((List.range rank).all fun d => decide (winOrigin w d + dsSize w d ≤ dsSize x d)) then 0xB else 0
  else 0

/-- Validation of a window record. -/
def windowReason (x : Word512) : Nat :=
  let rank := dsRank x
  if fld x 511 360 ≠ 0 || fld x 355 348 ≠ 0 || fld x 344 312 ≠ 0 || fld x 71 0 ≠ 0 || !hiDimsZero x 192 20 rank ||
      !hiDimsZero x 72 20 rank then 2
  else if rank < 1 || 6 < rank || !((List.range rank).all fun d => decide (1 ≤ dsSize x d)) then 3
  else 0

/-- Validation of a coordinate list record. -/
def listReason (x : Word512) : Nat :=
  let rank := dsRank x
  if fld x 463 360 ≠ 0 || fld x 355 348 ≠ 0 || fld x 344 212 ≠ 0 || fld x 191 0 ≠ 0 then 2
  else if rank < 2 || 6 < rank || lsCount x = 0 then 3
  else if dsBase x % 32 ≠ 0 then 5
  else 0

/-! ### Transfer records (15 Table 15-2) -/

def tfSrc (x : Word512) : Nat := fld x 511 500
def tfDst (x : Word512) : Nat := fld x 499 488
def tfList (x : Word512) : Nat := fld x 487 476
def tfSkind (x : Word512) : Nat := fld x 475 472
def tfDkind (x : Word512) : Nat := fld x 471 468
def tfSform (x : Word512) : Bool := bit x 467
def tfVbank (x : Word512) : Nat := fld x 466 466
def tfGen (x : Word512) : Nat := fld x 465 458
def tfSpaddr (x : Word512) : Nat := fld x 457 442
def tfCmask (x : Word512) : Nat := fld x 441 410
def tfRdies (x : Word512) : Nat := fld x 409 394
def tfRemdie (x : Word512) : Nat := fld x 393 386
def tfRemcore (x : Word512) : Nat := fld x 385 381
def tfLink (x : Word512) : Nat := fld x 380 377
def tfChan (x : Word512) : Nat := fld x 376 371
def tfDsem (x : Word512) : Nat := fld x 370 365
def tfDsemen (x : Word512) : Bool := bit x 364
def tfMxpair (x : Word512) : Bool := bit x 363
def tfOrigin (x : Word512) (d : Nat) : Int := toSigned 21 (natFld x.toNat (230 + 21 * d) 21)
def tfExtent (x : Word512) (d : Nat) : Nat := natFld x.toNat (110 + 20 * d) 20
def tfSpaddr2 (x : Word512) : Nat := fld x 109 94
def tfDdim (x : Word512) : Nat := fld x 93 91
def tfDshift (x : Word512) : Int := toSigned 21 (fld x 90 70)

/-- The memory-side descriptor of a transfer: the source if it is memory, else the destination. -/
def tfMem (x : Word512) (srcD dstD : Word512) : Word512 := if tfSkind x = 0 then srcD else dstD

/-- A transfer from a scratchpad to scratchpads, which no descriptor shapes: EXTENT0 bytes move from SPADDR, as in a rotate (15:R315, 02:R50, log 76,
DESIGN CHOICE). -/
def tfFlat (x : Word512) : Bool := tfSkind x == 1 && (tfDkind x == 1 || tfDkind x == 2 || tfDkind x == 3)

/-- A destination of a scratchpad kind. -/
def tfToSpad (x : Word512) : Bool := tfDkind x == 1 || tfDkind x == 2

/-- Tiles along one innermost dimension of an extent. -/
def tilesOf (e : Nat) : Nat := (e + 63) / 64

/-- Scratchpad bytes of one item of a transfer (15:R314). -/
def tfSpBytes (x : Word512) (m : Word512) (lcount : Nat) : Nat :=
  let rank := dsRank m
  if tfDkind x = 5 || tfFlat x then tfExtent x 0
  else if tfSkind x = 0 && !tfToSpad x then 0
  else if tfList x ≠ 0xFFF then
    if tfMxpair x then (lcount + 31) / 32 * 4352
    else if tfSform x then (lcount * 256 + 4095) / 4096 * tileStored (dsFormat m) else lcount * 256 * dsEsize m
  else if tfSform x then
    let outer := (List.range (rank - 2)).foldl (fun a d => a * tfExtent x d) 1
    let n := outer * tilesOf (tfExtent x (rank - 2)) * tilesOf (tfExtent x (rank - 1))
    if tfMxpair x then n / 2 * 4352 else n * tileStored (dsFormat m)
  else (List.range rank).foldl (fun a d => a * tfExtent x d) 1 * dsEsize m

/-- Along one of the two tiled dimensions whole tiles move unchanged: both sides begin at a tile, and the tiles are full, or end alike with their
tensors (15:R314). -/
def wholeDim (o p : Int) (e ss sd : Nat) : Bool :=
  o % 64 == 0 && p % 64 == 0 && decide (0 ≤ o) && decide (0 ≤ p) &&
    ((e % 64 == 0 && decide (o + (e : Int) ≤ (ss : Int)) && decide (p + (e : Int) ≤ (sd : Int))) ||
      ((ss : Int) - o == (sd : Int) - p && (e % 64 == 0 || decide ((ss : Int) ≤ o + (e : Int)))))

/-- A transfer between BXI tensors moves whole tiles unchanged, as it must (15:R314); with unequal TRANS only full tiles do (06:R142). -/
def bxiWhole (x srcD dstD : Word512) : Bool :=
  let rank := dsRank srcD
  tfList x == 0xFFF && (List.range 2).all fun k =>
    let d := rank - 1 - k
    let o := tfOrigin x d
    let p := if tfDdim x = d then o + tfDshift x else o
    wholeDim o p (tfExtent x d) (dsSize srcD d) (dsSize dstD d) &&
      (dsTrans srcD == dsTrans dstD || (tfExtent x d % 64 == 0 && decide (o + (tfExtent x d : Int) ≤ (dsSize srcD d : Int)) &&
        decide (p + (tfExtent x d : Int) ≤ (dsSize dstD d : Int))))

/-- Validation of a transfer record (15:R312-R315); `look` gives a slot's entry (zero when empty), `dies` the number
of dies of the resident context, if there is one. `host` forbids what needs an issuing core (15:R311). -/
def xferReason (look : Nat → Word512) (dies : Option Nat) (host : Bool) (x : Word512) : Nat :=
  let sk := tfSkind x
  let dk := tfDkind x
  let srcD := if sk = 0 then look (tfSrc x) else 0
  let dstD := if dk = 0 then look (tfDst x) else 0
  let m := tfMem x srcD dstD
  let bytes := dk = 5 || tfFlat x
  let rank := if bytes then 1 else dsRank m
  -- without the descriptor they apply to, no rank says which ORIGIN and EXTENT are unused
  let known := bytes || dsKind m = 1
  let mem2 := sk = 0 && dk = 0
  let usesSp := sk = 1 || tfToSpad x
  let formSp := !bytes && (usesSp || dk = 3)
  if fld x 362 360 ≠ 0 || fld x 69 0 ≠ 0 || (sk ≠ 0 && tfSrc x ≠ 0xFFF) || (dk ≠ 0 && tfDst x ≠ 0xFFF) ||
      (!usesSp && tfSpaddr x ≠ 0) || (!(dk == 2 || dk == 4 || dk == 5) && tfCmask x ≠ 0) ||
      (!(dk == 2 || dk == 4) && tfRdies x ≠ 0) || (dk ≠ 3 && fld x 393 371 ≠ 0) ||
      (!(dk == 3 || dk == 5) && tfSpaddr2 x ≠ 0) || (!mem2 && fld x 93 70 ≠ 0) || (dk ≠ 4 && tfVbank x ≠ 0) ||
      (!formSp && tfSform x) || (!tfDsemen x && tfDsem x ≠ 0) || (bytes && tfOrigin x 0 ≠ 0) ||
      (known && (!hiDimsZero x 230 21 rank || !hiDimsZero x 110 20 rank)) then 2
  else if 1 < sk || 5 < dk || ((dk == 2 || dk == 4 || dk == 5) && tfCmask x = 0) ||
      (match dies with | some n => decide (2 ^ n ≤ tfRdies x) | none => false) ||
      (known && !((List.range rank).all fun d => decide (1 ≤ tfExtent x d))) ||
      (dk = 5 && (tfExtent x 0 % 64 ≠ 0 || 2 ^ 20 < tfExtent x 0)) then 3
  else if (sk = 0 && dsKind srcD ≠ 1) || (dk = 0 && dsKind dstD ≠ 1) || (dk = 0 && !dsWrite dstD) ||
      (tfList x ≠ 0xFFF && (dsKind (look (tfList x)) ≠ 3 || dsRank (look (tfList x)) ≠ dsRank m)) ||
      (mem2 && (dsRank srcD ≠ dsRank dstD || dsRank srcD ≤ tfDdim x)) ||
      (bytes && tfList x ≠ 0xFFF) || (dk = 5 && (sk ≠ 1 ||
        (64 * tfSpaddr x < 64 * tfSpaddr2 x + tfExtent x 0 && 64 * tfSpaddr2 x < 64 * tfSpaddr x + tfExtent x 0))) ||
      (dk = 4 && sk ≠ 0) || (formSp && tfSform x && dsRank m < 2) ||
      (host && (sk = 1 || dk == 1 || dk == 3 || dk == 5)) ||
      (formSp && !tfSform x && dsLayout m ≠ 0) ||
      (mem2 && fmtIsBxi (dsFormat dstD) && (dsFormat srcD ≠ dsFormat dstD || !bxiWhole x srcD dstD)) ||
      (tfMxpair x && (dsLayout m ≠ 1 || dsFormat m ≠ 6 || dsTrans m || !tfSform x || !tfToSpad x ||
        tfOrigin x (rank - 1) % 128 ≠ 0 || tfExtent x (rank - 1) % 128 ≠ 0)) then 4
  else 0

/-! ### Stream records (15 Table 15-4) -/

def stSnum (x : Word512) : Nat := fld x 511 506
def stMode (x : Word512) : Nat := fld x 505 502
def stDepth (x : Word512) : Nat := let d := fld x 501 498; if d = 0 then 4 else d
def stTslot (x : Word512) : Nat := fld x 497 486
def stCmask (x : Word512) : Nat := fld x 485 454
def stSem (x : Word512) : Nat := fld x 453 448
def stSemen (x : Word512) : Bool := bit x 447
def stCluster (x : Word512) : Nat := fld x 446 445
def stCount (x : Word512) : Nat := fld x 444 425
def stPitch (x : Word512) : Nat := fld x 424 409
def stSpbase (x : Word512) : Nat := fld x 408 393
def stSdim (x : Word512) : Nat := fld x 392 390
def stSamt (x : Word512) : Int := toSigned 21 (fld x 389 369)
def stCdim (x : Word512) : Nat := fld x 368 366
def stCamt (x : Word512) : Int := toSigned 21 (fld x 355 335)
def stPeriod (x : Word512) : Nat := fld x 334 315
def stAddr (x : Word512) : Nat := fld x 314 267

/-- The D slots do not overlap. -/
def slotsApart (pitch size depth : Nat) : Bool := depth ≤ 1 || decide (size ≤ pitch)

/-- Validation of a stream record (15:R312, R316-R318). -/
def streamReason (look : Nat → Word512) (bound : Nat → Bool) (x : Word512) : Nat :=
  let md := stMode x
  let t := look (stTslot x)
  let m := tfMem t (if tfSkind t = 0 then look (tfSrc t) else 0) (if tfDkind t = 0 then look (tfDst t) else 0)
  let bytes := tfDkind t = 5 || tfFlat t
  let size := tfSpBytes t m (lsCount (look (tfList t)))
  let last := 64 * stSpbase x + 64 * stPitch x * (stDepth x - 1) + size
  let one := popCount (stCmask x) 32
  if fld x 365 360 ≠ 0 || fld x 266 0 ≠ 0 || (!(md == 1 || md == 2) && stTslot x ≠ 0) ||
      (!stSemen x && stSem x ≠ 0) || (!(md == 3 || md == 4) && (stCluster x ≠ 0 || stAddr x ≠ 0)) ||
      ((md == 3 || md == 4) && (fld x 392 366 ≠ 0 || fld x 355 315 ≠ 0 || stPitch x ≠ 0)) ||
      (md == 4 && (stSpbase x ≠ 0 || fld x 501 498 ≠ 0)) then 2
  else if md < 1 || 4 < md || 8 < fld x 501 498 || stCount x = 0 || stCmask x = 0 ||
      ((md == 1 || md == 2) && 2 ^ 22 < last) ||
      ((md == 1 || md == 2) && dsKind m = 1 && (dsRank m ≤ stSdim x || dsRank m ≤ stCdim x)) || (md == 3 && stSpbase x % 128 ≠ 0) || stAddr x % 64 ≠ 0 then 3
  else if bound (stSnum x) || (md == 3 && (stCmask x >>> (8 * stCluster x)) <<< (8 * stCluster x) ≠ stCmask x) ||
      (md == 3 && 2 ^ (8 * stCluster x + 8) ≤ stCmask x) || (md == 4 && one ≠ 1) ||
      ((md == 1 || md == 2) && (dsKind t ≠ 4 || !slotsApart (64 * stPitch x) size (stDepth x) ||
        (!bytes && dsKind m ≠ 1))) ||
      (md == 1 && (tfSkind t ≠ 0 || !(tfDkind t == 1 || (tfDkind t == 2 && tfRdies t = 0)))) ||
      ((md == 1 || md == 2) && (tfDkind t == 2 || tfDkind t == 4 || tfDkind t == 5) && tfCmask t ≠ stCmask x) then 4
  else 0

/-! ### Small-transfer records (15 Table 15-5) -/

def smDst (x : Word512) : Nat := fld x 511 464
def smSrc (x : Word512) : Nat := fld x 463 442
def smLen (x : Word512) : Nat := fld x 441 434 + 1
def smCmask (x : Word512) : Nat := fld x 433 402
def smDstep (x : Word512) : Int := toSigned 16 (fld x 401 386)
def smDmode (x : Word512) : Nat := fld x 385 384
def smRemdie (x : Word512) : Nat := fld x 383 376
def smRemcore (x : Word512) : Nat := fld x 375 371
def smLink (x : Word512) : Nat := fld x 370 367
def smChan (x : Word512) : Nat := fld x 366 361
def smSemen (x : Word512) : Bool := bit x 360
def smSem (x : Word512) : Nat := fld x 355 350

/-- Validation of a small-transfer record (15:R312, R321). -/
def smallReason (x : Word512) : Nat :=
  if fld x 349 0 ≠ 0 || (!smSemen x && smSem x ≠ 0) || (smDmode x ≠ 1 && fld x 383 361 ≠ 0) ||
      (smDmode x = 1 && fld x 511 486 ≠ 0) then 2
  else if smLen x < 4 || smLen x % 4 ≠ 0 || smDst x % 4 ≠ 0 || smSrc x % 4 ≠ 0 || smDstep x % 4 ≠ 0 ||
      1 < smDmode x || smCmask x = 0 || 2 ^ 22 < smSrc x + smLen x then 3
  else 0

/-- Validation of any entry for a create: the first failing reason of Table 6-3, or 0. -/
def descReason (look : Nat → Word512) (bound : Nat → Bool) (dies : Option Nat) (x : Word512) : Nat :=
  match dsKind x with
  | 1 => tensorReason look x
  | 2 => windowReason x
  | 3 => listReason x
  | 4 => xferReason look dies false x
  | 5 => streamReason look bound x
  | 6 => smallReason x
  | _ => 1

/-- Slots that a record names: a window by a tensor descriptor, records by a stream or a transfer. -/
def descNames (x : Word512) (i : Nat) : Bool :=
  match dsKind x with
  | 1 => dsWinen x && dsWinslot x == i
  | 5 => (stMode x == 1 || stMode x == 2) && stTslot x == i
  | _ => false

/-- Reason for refusing a destroy, or 0: a window record that a tensor descriptor names, or a record that a stream
record names (06:R145, 15:R312). -/
def destroyReason (entries : List (Nat × Word512)) (i : Nat) (x : Word512) : Nat :=
  let named := entries.any fun e => (dsKind e.2 == 5 && descNames e.2 i) || (dsKind x == 2 && dsKind e.2 == 1 && descNames e.2 i)
  if named then 0xC else 0

end Sys2Proof.Machine
end

