-- ==== Sys2Proof/Machine/Elems.lean ====
section
/-! DEFINITION. Elements through tensor descriptors: bursts, tiles and block records read once for a granule, pads, windows, adds and
resealing (05:R125-R130, 06:R139-R152, R494). -/

namespace Sys2Proof.Machine

/-- Where a granule stands: the state, bursts, tiles and block records read so far, and elements dropped and withheld. -/
structure GSt where
  h : Hw
  bursts : List (Nat × List Byte) := []
  tiles : List (Nat × Array Byte) := []
  dropped : Nat := 0
  withheld : Nat := 0

/-- Steps of a granule; what stops it leaves the state as it was (14:R299). -/
abbrev GM := StateT GSt (Except Stop)

/-- Who runs the granule: die, table root, counters, and the tiles that have verified on their re-reads. -/
structure GEnv where
  n : Nat
  root : Root
  who : Who
  passed : List Reread
  deriving Repr

/-- Where the granule's scratchpad writes come from, for the hazard monitor (02:R48): its die, or 255 for the hub. -/
def GEnv.org (e : GEnv) : Nat := if e.who.die = e.n then e.n else 255

/-- What the re-read of a tile returned, if it has been read again (05:R127). -/
def GEnv.again (e : GEnv) (at_ : TileAt) (addr : Nat) : Option (List Byte) :=
  (e.passed.find? fun r => r.at_ == at_ && r.addr == addr).map (·.bytes)

def GM.stop {α : Type} (s : Stop) : GM α := fun _ => .error s

/-- A change of the state that may stop. -/
def GM.lift {α : Type} (f : Hw → Except Stop (α × Hw)) : GM α := fun g =>
  match f g.h with
  | .ok r => .ok (r.1, { g with h := r.2 })
  | .error s => .error s

def GM.modifyHw (f : Hw → Hw) : GM Unit := fun g => .ok ((), { g with h := f g.h })

/-- One aligned 64-byte burst, read once. -/
def rdBurst (e : GEnv) (b : Nat) : GM (List Byte) := do
  let g ← get
  match g.bursts.find? fun x => x.1 == b with
  | some x => pure x.2
  | none =>
    let d ← GM.lift fun h => h.vaReadR e.n e.root (64 * b) 64 e.who
    modify fun g => { g with bursts := (b, d) :: g.bursts }
    pure d

/-- Bytes at an address, through whole bursts. -/
def rdBytes (e : GEnv) (va len : Nat) : GM (List Byte) := do
  let parts ← (burstsOf va len).mapM fun b => rdBurst e b
  pure (((parts.flatten).drop (va % 64)).take len)

/-- Bytes stored; what has been read before is forgotten. -/
def wrBytes (e : GEnv) (va : Nat) (data : List Byte) (access : Nat := 2) : GM Unit := do
  GM.lift fun h => do
    let h ← h.vaWriteR e.n e.root va data e.who access
    pure ((), h)
  modify fun g => { g with bursts := [], tiles := [] }

/-- A stored tile as it stands in its slot, no further than its stored length (05:R120), verified in the format of its
reader (05:R125). -/
def rdStored (e : GEnv) (fmt va : Nat) : GM (List Byte) := do
  match e.again .mem va with
  | some t => pure t
  | none =>
    let hd ← rdBytes e va 64
    let h := tileHead hd
    let n := if h.ok && h.comp && h.fmt == fmt then min (tileLen h) (tileStored fmt) else tileStored fmt
    let t ← rdBytes e va n
    if tileVerify fmt t then pure t else GM.stop (.tile .mem va fmt)

/-- The dense payload of a verified tile. -/
def rdTile (e : GEnv) (fmt va : Nat) : GM (Array Byte) := do
  let g ← get
  match g.tiles.find? fun x => x.1 == va with
  | some x => pure x.2
  | none =>
    let t ← rdStored e fmt va
    let p := (tileDense t).toArray
    modify fun g => { g with tiles := (va, p) :: g.tiles }
    pure p

/-- A CBC block record, verified (05:R130). -/
def rdRecord (e : GEnv) (fmt va : Nat) : GM (Array Byte) := do
  let g ← get
  match g.tiles.find? fun x => x.1 == va with
  | some x => pure x.2
  | none =>
    let t ← (match e.again .cbc va with
      | some t => pure t
      | none => do
        let t ← rdBytes e va (cbcSize fmt)
        if cbcVerify fmt t then pure t else GM.stop (.tile .cbc va fmt))
    modify fun g => { g with tiles := (va, t.toArray) :: g.tiles }
    pure t.toArray

/-! ### Elements -/

/-- An element: its encoding, the scale or exponent byte that goes with it, and whether it is marked as pad (06:R146). -/
structure El where
  raw : Nat
  scale : Nat
  pad : Bool
  deriving DecidableEq, Repr

def El.zero : El := ⟨0, 0x7F, false⟩

/-- Value of a BXI element (17:R350). -/
def bxiVal (code n eb : Nat) : Val :=
  if eb = 0xFF then .nan
  else (Val.ofInt (toSigned (fmtBits code) n)).scale2 ((eb : Int) - (if code = 0xB then 141 else 157))

/-- Source code of a window element of a banked accumulator: 64 bits, its scale exponent E biased by 512. -/
def winCode : Nat := 0x40

/-- The value of a window element (11:R245). -/
def winVal (x : Nat) (e : Int) : Val :=
  match natFld x 62 2 with
  | 0 => (Val.ofInt (toSigned 62 (x % 2 ^ 62))).scale2 e
  | 1 => .inf false
  | 2 => .inf true
  | _ => .nan

/-- The exact value of an element of a format. -/
def elVal (code : Nat) (x : El) : Val :=
  if code = winCode then winVal x.raw ((x.scale : Int) - 512)
  else if fmtIsBxi code then bxiVal code x.raw x.scale else elemVal code x.raw x.scale

/-- A zero of a window element is +0 in every format (11:R245). -/
def plusZero (code n : Nat) : Nat := if !fmtIsInt code && n = 2 ^ (fmtBits code - 1) then 0 else n

/-- An element converted to a format without scales, to nearest even; its own encoding when the formats agree (06:R314). -/
def elTo (src dst : Nat) (x : El) : Nat :=
  if src = dst then x.raw
  else if src = winCode then plusZero dst (elemEnc dst (elVal src x)) else elemEnc dst (elVal src x)

/-- The element bytes of an MX payload with its zeros made +0. -/
def plusZeros (code : Nat) (p : List Byte) : List Byte :=
  let n := 4096 * fmtBits code / 8
  (p.take n).map (fun b => if code = 6 then BitVec.ofNat 8 (plusZero 6 (b.toNat % 16) + 16 * plusZero 6 (b.toNat / 16))
    else BitVec.ofNat 8 (plusZero code b.toNat)) ++ p.drop n

/-- Element (r, c) of a dense payload. -/
def tileEl (fmt : Nat) (p : Array Byte) (r c : Nat) : El :=
  let raw := if fmtIsBxi fmt then
      leNat ((List.range (fmtBits fmt / 8)).map fun j => p.getD (64 + (64 * r + c) * (fmtBits fmt / 8) + j) 0)
    else tileRaw fmt p (64 * r + c)
  ⟨raw, if fmtIsMx fmt then tileScale fmt p r (c / 32) else if fmtIsBxi fmt then tileBxiExp p r else 0x7F, false⟩

/-- A dense payload built from elements of format `src` (05:R112, R114; log 30, DESIGN CHOICE for BXI). -/
def buildDense (src dst : Nat) (f : Nat → Nat → El) : List Byte :=
  if fmtIsBxi dst then Config.bxiBuilt ((List.range 4096).map fun i => ((f (i / 64) (i % 64)).raw, (f (i / 64) (i % 64)).scale))
  else if src = dst && !fmtIsMx dst then packElems dst ((List.range 4096).map fun i => (f (i / 64) (i % 64)).raw)
  else denseFromVals dst fun r c => elVal src (f r c)

/-! ### Indices (06:R139-R141, R146) -/

/-- Index tuple of row-major position `j` in a box. -/
def unflat (ext : List Nat) (j : Nat) : List Nat :=
  (ext.foldr (fun s (a : List Nat × Nat) => ((a.2 % s) :: a.1, a.2 / s)) (([] : List Nat), j)).1

def boxCount (ext : List Nat) : Nat := ext.foldl (· * ·) 1

def addIdx (o : List Int) (j : List Nat) : List Int := List.zipWith (fun a (b : Nat) => a + (b : Int)) o j

/-- SIZE of the dimensions in use. -/
def dsSizes (m : Word512) : List Nat := (List.range (dsRank m)).map (dsSize m)

def idxOut (m : Word512) (i : List Int) : Bool := (i.zip (dsSizes m)).any fun x => decide (x.1 < 0) || decide ((x.2 : Int) ≤ x.1)

def idxClamp (m : Word512) (i : List Int) : List Nat :=
  List.zipWith (fun (a : Int) (s : Nat) => min a.toNat (s - 1)) i (dsSizes m)

def idxNat (i : List Int) : List Nat := i.map Int.toNat

/-- Σ STRIDEd × id over the first `k` dimensions. -/
def strideSum (m : Word512) (i : List Nat) (k : Nat) : Int :=
  (List.range k).foldl (fun (a : Int) d => a + dsStride m d * ((i.getD d 0 : Nat) : Int)) 0

/-- Address of an element in linear layout (06:R139). -/
def linAddr (m : Word512) (i : List Nat) : Nat := ((dsBase m : Int) + (dsEsize m : Int) * strideSum m i (dsRank m)).toNat

/-- Tile slot address and tile element of an index in tiled layout (06:R140). -/
def tilePlace (m : Word512) (i : List Nat) : Nat × Nat × Nat :=
  let q := dsRank m - 2
  let p := dsRank m - 1
  let iq := i.getD q 0
  let ip := i.getD p 0
  let st := if dsTrans m then dsStride m q * ((ip / 64 : Nat) : Int) + dsStride m p * ((iq / 64 : Nat) : Int)
    else dsStride m q * ((iq / 64 : Nat) : Int) + dsStride m p * ((ip / 64 : Nat) : Int)
  let slot := ((dsBase m : Int) + (tileStored (dsFormat m) : Int) * (strideSum m i q + st)).toNat
  if dsTrans m then (slot, ip % 64, iq % 64) else (slot, iq % 64, ip % 64)

/-- Position of an index in index order, the last fastest (05:R128). -/
def flatIdx (sizes i : List Nat) : Nat := (i.zip sizes).foldl (fun a x => a * x.2 + x.1) 0

/-- Record address and place in the record of an index in CBC layout. -/
def cbcPlace (m : Word512) (i : List Nat) : Nat × Nat :=
  let k := flatIdx (dsSizes m) i
  (dsBase m + k / 256 * cbcSize (dsFormat m), k % 256)

/-- The element at an index, with the pad of 06:R146 out of bounds. -/
def readEl (e : GEnv) (m : Word512) (idx : List Int) : GM El := do
  let out := idxOut m idx
  if out && dsPadmode m = 1 then pure ⟨dsPadval m, 0x7F, true⟩
  else
    let i := idxClamp m idx
    let fmt := dsFormat m
    let x ← (if dsLayout m = 1 then do
        let t := tilePlace m i
        let p ← rdTile e fmt t.1
        pure (tileEl fmt p t.2.1 t.2.2)
      else if dsLayout m = 2 then do
        let t := cbcPlace m i
        let p ← rdRecord e fmt t.1
        pure (⟨leNat ((List.range (dsEsize m)).map fun j => p.getD (t.2 * dsEsize m + j) 0), 0x7F, false⟩ : El)
      else do
        let b ← rdBytes e (linAddr m i) (dsEsize m)
        pure (⟨leNat b, 0x7F, false⟩ : El))
    pure { x with pad := out }

/-- The elements of a box, in index order. -/
def readBox (e : GEnv) (m : Word512) (org : List Int) (ext : List Nat) (first n : Nat) : GM (List El) :=
  (List.range n).mapM fun j => readEl e m (addIdx org (unflat ext (first + j)))

/-! ### Writes (06:R147, R148, R494) -/

/-- The sum of an ACC write (06:R147). -/
def accAdd (fmt a b : Nat) : Nat := if fmt = 1 then fadd a b else (a + b) % 2 ^ 32

/-- An index lies in the owned window of a descriptor (06:R148). -/
def inWindow (win : Word512) (i : List Nat) : Bool :=
  win == 0 || ((List.range i.length).all fun d =>
    decide (winOrigin win d ≤ i.getD d 0) && decide (i.getD d 0 < winOrigin win d + dsSize win d))

/-- The elements that are written, in order; the others are counted (06:R148). -/
def decideWrites (m win : Word512) (l : List (List Int × El)) : GM (List (List Nat × El)) := do
  let inb := l.filter fun x => !idxOut m x.1
  let ok := inb.filter fun x => !(x.2.pad && !inWindow win (idxNat x.1))
  modify fun g => { g with
    dropped := g.dropped + (l.length - inb.length)
    withheld := g.withheld + (inb.length - ok.length) }
  pure (ok.map fun x => (idxNat x.1, x.2))

/-- Adjacent pieces joined. -/
def joinRuns : List (Nat × List Byte) → List (Nat × List Byte)
  | [] => []
  | (a, x) :: r =>
    match joinRuns r with
    | (b, y) :: r2 => if a + x.length = b then (a, x ++ y) :: r2 else (a, x) :: (b, y) :: r2
    | [] => [(a, x)]

/-- In-box elements of the tile that holds an index. -/
def inBoxOf (m : Word512) (i : List Nat) : Nat :=
  let side (d : Nat) : Nat := min 64 (dsSize m d - 64 * (i.getD d 0 / 64))
  side (dsRank m - 2) * side (dsRank m - 1)

/-- Keys of a list, in order of first appearance. -/
def firstKeys (l : List Nat) : List Nat := l.foldl (fun a k => if a.contains k then a else a ++ [k]) []

/-- A tile sealed for its slot is compressed: under COMPW, but by a host engine only in stack memory (11 Table 11-7). -/
def mayCompress (e : GEnv) (m : Word512) (slot : Nat) : GM Bool :=
  if !dsCompw m then pure false
  else if e.who.priv == .program then pure true
  else GM.lift fun h => do
    let l ← h.walk e.n e.root slot 2
    pure (!l.host, h)

/-- One destination tile: built afresh when every in-box element of it is written, else read, changed and resealed
(06:R494, R147). -/
def writeTile (e : GEnv) (m : Word512) (src gen : Nat) (fresh : Bool) (slot : Nat) (els : List (List Nat × El)) : GM Unit := do
  let fmt := dsFormat m
  let acc := dsAcc m
  let place (i : List Nat) : Nat := let t := tilePlace m i; 64 * t.2.1 + t.2.2
  let items := els.map fun x => (place x.1, x.2)
  let whole := fresh || (match els with
    | [] => false
    | x :: _ => decide ((firstKeys (items.map (·.1))).length = inBoxOf m x.1))
  let old ← (if acc || !whole then rdTile e fmt slot else pure (List.replicate (tilePayload fmt) (0 : Byte)).toArray)
  let base : Nat → El := fun k => if acc || !whole then tileEl fmt old (k / 64) (k % 64) else El.zero
  let cells : List (Nat × El) := items.foldl (fun (a : List (Nat × El)) x =>
      let now := ((a.find? fun y => y.1 == x.1).map (·.2)).getD (base x.1)
      let v : Nat := if fmtIsMx fmt then x.2.raw else elTo src fmt x.2
      (x.1, if acc then { now with raw := accAdd fmt now.raw v } else if fmtIsMx fmt then x.2 else ⟨v, 0x7F, false⟩) ::
        a.filter fun y => y.1 != x.1) []
  let at_ (k : Nat) : Option El := (cells.find? fun y => y.1 == k).map (·.2)
  let dense : List Byte :=
    if fmtIsMx fmt then (if src = winCode then plusZeros fmt else id) (denseFromVals fmt fun r c =>
      match at_ (64 * r + c) with
      | some x => elVal src x
      | none => elVal fmt (base (64 * r + c)))
    else packElems fmt ((List.range 4096).map fun k => (at_ k |>.getD (base k)).raw)
  let comp ← mayCompress e m slot
  wrBytes e slot (tileSeal fmt gen comp dense) (if acc then 3 else 2)

/-- One CBC block record (05:R130): afresh when all its elements are written, else read and changed. -/
def writeRecord (e : GEnv) (m : Word512) (src va : Nat) (els : List (List Nat × El)) : GM Unit := do
  let fmt := dsFormat m
  let k := (va - dsBase m) / cbcSize fmt
  let cnt := min 256 (dsCount m - 256 * k)
  let items := els.map fun x => ((cbcPlace m x.1).2, elTo src fmt x.2)
  let acc := dsAcc m
  let old ← (if acc || (firstKeys (items.map (·.1))).length < cnt then rdRecord e fmt va
    else pure (List.replicate (cbcSize fmt) (0 : Byte)).toArray)
  let base (j : Nat) : Nat := leNat ((List.range (dsEsize m)).map fun b => old.getD (j * dsEsize m + b) 0)
  let cells := items.foldl (fun (a : List (Nat × Nat)) x =>
    alPut a x.1 (if acc then accAdd fmt (alGet (base x.1) a x.1) x.2 else x.2)) []
  let payload := (List.range 256).flatMap fun j => leBytes (dsEsize m) (alGet (base j) cells j)
  wrBytes e va (cbcRecord payload) (if acc then 3 else 2)

/-- Elements of format `src` written through a descriptor, in the order given. `fresh` says that a tile counts as wholly
written by the transfer though this granule writes only a part of it. -/
def writeEls (e : GEnv) (m win : Word512) (src gen : Nat) (fresh : Nat → Bool) (l : List (List Int × El)) : GM Unit := do
  let ws ← decideWrites m win l
  if dsLayout m = 1 then
    (firstKeys (ws.map fun x => (tilePlace m x.1).1)).forM fun slot =>
      writeTile e m src gen (fresh slot) slot (ws.filter fun x => (tilePlace m x.1).1 == slot)
  else if dsLayout m = 2 then
    (firstKeys (ws.map fun x => (cbcPlace m x.1).1)).forM fun va =>
      writeRecord e m src va (ws.filter fun x => (cbcPlace m x.1).1 == va)
  else if dsAcc m then
    ws.forM fun x => do
      let a := linAddr m x.1
      let old ← rdBytes e a 4
      wrBytes e a (leBytes 4 (accAdd (dsFormat m) (leNat old) (elTo src (dsFormat m) x.2))) 3
  else
    (joinRuns (ws.map fun x => (linAddr m x.1, leBytes (dsEsize m) (elTo src (dsFormat m) x.2)))).forM fun p =>
      wrBytes e p.1 p.2

end Sys2Proof.Machine
end

