-- ==== Sys2Proof/Machine/Mxu.lean ====
section
/-! DEFINITION. The matrix unit of one core (07). -/

namespace Sys2Proof.Machine

/-- What a core reports while it executes a word: a condition raised once in a launch, a condition, or a hazard (02:R48). -/
inductive CoreEv where
  /-- code, engine (01 Table 1-2), and what the "first of the launch" is counted over beside the code -/
  | first (code eng sub : Nat)
  | cond (code eng arg0 arg1 : Nat)
  | hazard (kind ag spaddr short : Nat)
  /-- event of the core's counters, and how often (22 Table 22-1) -/
  | count (ev k : Nat)
  deriving DecidableEq, Repr

/-- Iteration index START − LC of counter `k` (03:R64). -/
def Core.iter (c : Core) (k : Nat) : Nat :=
  if h : k < 8 then (c.lcStart[k] - c.lc[k]).toNat else 0

/-- MX formats of FMTA and FMTS (03 Table 3-6) as 8-bit format codes. -/
def mxFmtCode (f : Nat) : Nat :=
  match f with
  | 0 => 4 | 1 => 5 | 2 => 2 | 3 => 6 | 4 => 7 | _ => 8

/-- K of a format field (03:R77). -/
def mxK (f : Nat) : Nat := if f = 2 then 32 else if f = 3 then 128 else 64

/-- The format field is an MX one. -/
def mxIsMx (f : Nat) : Bool := f == 3 || f == 4 || f == 5

/-- Row numbers of a word after ROWLC (07:R167): ACCROW, STROW, DROW, TROW. -/
structure MxRows where
  acc : Nat
  st : Nat
  dr : Nat
  tr : Nat
  deriving DecidableEq, Repr

def mxRows (w : Word512) (iter : Nat → Nat) : MxRows :=
  let i := if mxRowlc w = 1 then iter (mxLc w) else 0
  ⟨(mxAccrow w + i) % 1024, mxStrow w / 64 * 64 + (mxStrow w % 64 + i) % 64, (mxDrow w + i) % 1024,
    (mxTrow w + i) % 64⟩

def Core.isBad (c : Core) (b : BadMark) : Bool := c.bad.contains b
def Core.clearBad (c : Core) (p : BadMark → Bool) : Core := { c with bad := c.bad.filter fun b => !p b }

/-- Element `i` of width `w` bits in a 64-byte line at `base` of a memory. -/
def lineElem (m : Memory) (base w i : Nat) : Nat :=
  if w = 4 then natFld (m.read (base + i / 2)).toNat (4 * (i % 2)) 4 else m.readLE (base + i * (w / 8)) (w / 8)

/-- Element `i` of a 64-byte line at `base` replaced. -/
def lineSet (m : Memory) (base w i v : Nat) : Memory :=
  if w = 4 then
    let o := (m.read (base + i / 2)).toNat
    let n := if i % 2 = 0 then o / 16 * 16 + v % 16 else o % 16 + 16 * (v % 16)
    m.write (base + i / 2) (BitVec.ofNat 8 n)
  else m.writeLE (base + i * (w / 8)) (w / 8) v

/-- Exact sum of products, rounded once by the caller; −0 only where every product is −0 (07:R161). -/
def dotVal : List Val → Val
  | [] => .num false 0 0
  | v :: r => r.foldl Val.add v

/-- Byte of the activation scale buffer where a row's scales begin (07:R159). -/
def mxScaleAt (fa : Nat) (rows : MxRows) : Nat := (mxK fa / 32) * (rows.acc % (2048 / mxK fa))

/-- The dot product p of lane `l` under activation `act` (07:R161). -/
def mxDot (w : Word512) (rows : MxRows) (c : Core) (act : List Byte) (l : Nat) : Nat :=
  let fa := mxFmta w
  let fs := mxFmts w
  let k := mxK fa
  let ca := mxFmtCode fa
  let cs := mxFmtCode fs
  let prod (i : Nat) : Val :=
    let sa := if mxIsMx fa then
        (if c.isBad (.abuf (mxScaleAt fa rows + i / 32)) then 0xFF else (c.abuf.read (mxScaleAt fa rows + i / 32)).toNat) else 0x7F
    let ss := if mxIsMx fs then
        (if c.isBad (.statScale l (i / 32)) then 0xFF else (c.statScale.read (4 * l + i / 32)).toNat) else 0x7F
    let a := elemVal ca (elemAt act (fmtBits ca) i) sa
    let b := if c.isBad (.stat l i) then Val.nan else elemVal cs (lineElem c.stat (64 * l) (fmtBits cs) i) ss
    a.mul b
  toF32 (dotVal ((List.range k).map prod))

/-- A compute word (07:R159, R161): its scale buffer and the update it issues. -/
def mxCompute (w : Word512) (rows : MxRows) (a0 a1 : Option (List Byte)) (c : Core) : Core :=
  let c := match a1, mxIsMx (mxFmta w) with
    | some b, true => ({ c with abuf := c.abuf.writeN 0 (bytesAt b 0 64) }).clearBad fun x => match x with | .abuf _ => true | _ => false
    | _, _ => c
  let act := a0.getD []
  { c with accPend := c.accPend ++ [(⟨0, rows.acc, mxAcc w == 1, (List.range 128).map (mxDot w rows c act)⟩ : AccUpd)] }

/-- Stationary scales of the lanes a load writes: byte j of AG0's access for the j-th lane (07:R159). -/
def mxLoadScales (w : Word512) (rows : MxRows) (a0 : Option (List Byte)) (lane0 n : Nat) (c : Core) : Core :=
  match a0, mxIsMx (mxFmts w) with
  | some b, true =>
    let g := rows.st / 32
    ({ c with statScale := (List.range n).foldl (fun m j => m.write (4 * (lane0 + j) + g) (b.getD j 0)) c.statScale }).clearBad
      fun x => match x with | .statScale l gg => gg == g && lane0 ≤ l && l < lane0 + n | _ => false
  | _, _ => c

/-- MODE 0b10: one stationary row from AG3, and AG1 for a split row (07:R158, R163). -/
def mxLoad (w : Word512) (rows : MxRows) (a0 a1 a3 : Option (List Byte)) (c : Core) : Core :=
  let bits := fmtBits (mxFmtCode (mxFmts w))
  let el (l : Nat) : Nat :=
    match a1 with
    | none => elemAt (a3.getD []) bits l
    | some b => if l < 64 then elemAt (a3.getD []) bits l else elemAt b bits (l - 64)
  let c := { c with
    stat := (List.range 128).foldl (fun m l => lineSet m (64 * l) bits rows.st (el l)) c.stat
    statFmt := BitVec.ofNat 3 (mxFmts w) }
  mxLoadScales w rows a0 0 128 (c.clearBad fun x => match x with | .stat _ r => r == rows.st | _ => false)

/-- The canonical NaN encoding of an MX-field format; MXFP4 elements have none. -/
def mxNan (f : Nat) : Nat := (fmtF (mxFmtCode f)).nan

/-- Bytes of a tile row that a column read takes. -/
def mxColBytes (w : Word512) (rows : MxRows) : List Nat :=
  let bits := fmtBits (mxFmtCode (mxFmts w))
  if bits = 4 then [rows.st / 2] else (List.range (bits / 8)).map (· + rows.st * (bits / 8))

/-- MODE 0b11: one stationary row of half the lanes from a column of the transpose tile (07:R164). -/
def mxLoadT (w : Word512) (rows : MxRows) (a0 : Option (List Byte)) (c : Core) : Core :=
  let bits := fmtBits (mxFmtCode (mxFmts w))
  let half := 64 * mxAcc w
  let bad (r : Nat) : Bool := (mxColBytes w rows).any fun b => c.isBad (.tile r b)
  let el (r : Nat) : Nat := if bad r then mxNan (mxFmts w) else lineElem c.ttile (64 * r) bits rows.st
  let c' := { c with
    stat := (List.range 64).foldl (fun m r => lineSet m (64 * (half + r)) bits rows.st (el r)) c.stat
    statFmt := BitVec.ofNat 3 (mxFmts w) }
  let c' := c'.clearBad fun x => match x with
    | .stat l r => r == rows.st && half ≤ l && l < half + 64
    | _ => false
  let c' := if mxFmts w = 3 then
      { c' with bad := c'.bad ++ ((List.range 64).filter bad).map fun r => .stat (half + r) rows.st }
    else c'
  mxLoadScales w rows a0 half 64 c'

/-- TWR: the first 64 bytes of AG3's access into a transpose-tile row (07:R165). -/
def mxTwrRow (rows : MxRows) (a3 : Option (List Byte)) (c : Core) : Core :=
  ({ c with ttile := c.ttile.writeN (64 * rows.tr) (bytesAt (a3.getD []) 0 64) }).clearBad
    fun x => match x with | .tile r _ => r == rows.tr | _ => false

/-- DRN: 128 values of a row, zeroed under DZERO (07:R166). -/
def mxDrain (w : Word512) (rows : MxRows) (c : Core) : Core × List Lane :=
  let val (l : Nat) : Nat :=
    if c.isBad (.acc rows.dr l) then nan32 else (smGet (0 : Word32) c.acc (128 * rows.dr + l)).toNat
  let lanes := (List.range 128).map fun l => (⟨val l, false, true, val l⟩ : Lane)
  let c := if mxDzero w = 1 then
      ({ c with acc := c.acc.filter fun p => p.1 / 128 ≠ rows.dr }).clearBad
        fun x => match x with | .acc r _ => r == rows.dr | _ => false
    else c
  (c, lanes)

/-- The early-drain entry of 02:R48: compute words to the row still within the distance of 10 steps. -/
def mxEarlyDrain (rows : MxRows) (c : Core) : List CoreEv :=
  let late := (c.accPend.filter fun u => u.row == rows.dr && u.age < 10).map fun u => 10 - u.age
  if late.isEmpty then [] else [.hazard 3 0 rows.dr (late.foldl max 0)]

/-- Accumulator updates whose distance has passed enter the rows, in issue order (07:R169). -/
def accCommit (c : Core) (u : AccUpd) : Core :=
  let step (a : List (Nat × Word32)) (l : Nat) : List (Nat × Word32) :=
    let key := 128 * u.row + l
    let p := u.vals.getD l 0
    let old := if c.isBad (.acc u.row l) then nan32 else (smGet (0 : Word32) a key).toNat
    smPut (0 : Word32) a key (BitVec.ofNat 32 (if u.add then fadd old p else p))
  let c' := { c with acc := (List.range 128).foldl step c.acc }
  if u.add then c' else c'.clearBad fun x => match x with | .acc r _ => r == u.row | _ => false

/-- One report for each structure that fails, the first of the launch by structure, and every failure counted (07:R171, 22 Table 22-1). -/
def parityEvs (l : List Nat) : List CoreEv := (l.dedup.map fun k => CoreEv.first 0x0601 3 k) ++ (if l.isEmpty then [] else [.count 20 l.length])

/-- Parity failures that this word meets in what it reads: at the multiply, at a column read, and at a drain (07:R171). -/
def mxParity (w : Word512) (rows : MxRows) (reload : Bool) (c : Core) : List CoreEv :=
  let k := mxK (mxFmta w)
  let used : BadMark → Option Nat := fun x => match x with
    | .stat _ r => if mxMode w = 1 && decide (r < k) then some 1 else none
    | .statScale _ g => if mxMode w = 1 && mxIsMx (mxFmts w) && decide (32 * g < k) then some 2 else none
    | .tile _ b => if mxMode w = 3 && (mxColBytes w rows).contains b then some 3 else none
    | .abuf b => if mxMode w = 1 && mxIsMx (mxFmta w) && !reload && decide (mxScaleAt (mxFmta w) rows ≤ b) &&
        decide (b < mxScaleAt (mxFmta w) rows + k / 32) then some 4 else none
    | .acc r _ => if mxDrn w = 1 && r == rows.dr then some 5 else none
    | _ => none
  parityEvs (c.bad.filterMap used)

/-- The MX field of one word (07): drain, load, compute, then the tile-row write. -/
def mxWord (w : Word512) (a0 a1 a3 : Option (List Byte)) (c : Core) : Core × Option (List Lane) × List CoreEv :=
  let rows := mxRows w c.iter
  let evs := mxParity w rows a1.isSome c ++ (if mxDrn w = 1 then mxEarlyDrain rows c else [])
  let (c, dr) := if mxDrn w = 1 then (let r := mxDrain w rows c; (r.1, some r.2)) else (c, none)
  let c := match mxMode w with
    | 1 => mxCompute w rows a0 a1 c
    | 2 => mxLoad w rows a0 a1 a3 c
    | 3 => mxLoadT w rows a0 c
    | _ => c
  let c := if mxTwr w = 1 then mxTwrRow rows a3 c else c
  (c, dr, evs)

end Sys2Proof.Machine
end

