-- ==== Sys2Proof/Machine/Vxe.lean ====
section
/-! DEFINITION. The vector engine of one core: operands, the 36 lane operations, validity, compress and expand, predicate and generators (08). -/

namespace Sys2Proof.Machine

/-- A lane value: 32 bits and whether its type is I (08:R178). -/
structure LV where
  v : Nat
  i : Bool
  deriving DecidableEq, Repr

def LV.f (v : Nat) : LV := ⟨v, false⟩
def LV.int (v : Nat) : LV := ⟨v % 2 ^ 32, true⟩
def LV.zero : LV := ⟨0, false⟩

/-! ### The operations of Table 8-3 -/

/-- A value of type F as a result: no NaN payload propagates (05:R110). -/
def LV.canon (v : LV) : LV := if v.i then v else .f (canon32 v.v)
def vxPassOp (v : LV) : LV := v.canon
def vxMulOp (v b : LV) : LV := .f (fmul v.v b.v)
def vxAddOp (v b : LV) : LV := .f (fadd v.v b.v)
def vxSubOp (v b : LV) : LV := .f (fsub v.v b.v)
def vxRsubOp (v b : LV) : LV := .f (fsub b.v v.v)
/-- v × B + I, rounded once. -/
def vxFmaiOp (v b : LV) (imm : Nat) : LV := .f (ffma v.v b.v imm)
/-- I − v × B, rounded once. -/
def vxFnmaiOp (v b : LV) (imm : Nat) : LV := .f (toF32 ((ofF32 imm).sub ((ofF32 v.v).mul (ofF32 b.v))))
def vxMinOp (v b : LV) : LV := .f (fmin v.v b.v)
def vxMaxOp (v b : LV) : LV := .f (fmax v.v b.v)
def vxAbsOp (v : LV) : LV := .f (fabs v.v)
def vxNegOp (v : LV) : LV := .f (fneg v.v)
/-- min(max(v, −|B|), |B|). -/
def vxClampOp (v b : LV) : LV := .f (fmin (fmax v.v (fneg (fabs b.v))) (fabs b.v))
/-- 1.0 or +0 from a comparison. -/
def cmpRes (c : Bool) : LV := .f (if c then one32 else 0)
def vxCmpeqOp (v b : LV) : LV := cmpRes (feq v.v b.v)
def vxCmpneOp (v b : LV) : LV := cmpRes (!feq v.v b.v)
def vxCmpltOp (v b : LV) : LV := cmpRes (flt v.v b.v)
def vxCmpleOp (v b : LV) : LV := cmpRes (flt v.v b.v || feq v.v b.v)
def vxCmpgtOp (v b : LV) : LV := cmpRes (flt b.v v.v)
def vxCmpgeOp (v b : LV) : LV := cmpRes (flt b.v v.v || feq v.v b.v)
def vxSelectOp (v b : LV) (p : Bool) : LV := (if p then b else v).canon
def vxFloorOp (v : LV) : LV := .f (fround .down v.v)
def vxCeilOp (v : LV) : LV := .f (fround .up v.v)
def vxRintOp (v : LV) : LV := .f (fround .even v.v)
def vxTruncOp (v : LV) : LV := .f (fround .zero v.v)
/-- Conversion to INT32, with the saturation mark of 0x0703. -/
def vxFtoiOp (v : LV) : LV × Bool := let r := valToInt 32 .even (ofF32 v.v); (⟨r.1, true⟩, r.2)
def vxItofOp (v : LV) : LV := .f (toF32 (Val.ofInt (toSigned 32 v.v)))
def vxIaddOp (v b : LV) : LV := .int (v.v + b.v)
def vxIsubOp (v b : LV) : LV := .int (v.v + (2 ^ 32 - b.v % 2 ^ 32))
def vxImulOp (v b : LV) : LV := .int (v.v * b.v)
def vxAndOp (v b : LV) : LV := .int (v.v &&& b.v)
def vxOrOp (v b : LV) : LV := .int (v.v ||| b.v)
def vxXorOp (v b : LV) : LV := .int (v.v ^^^ b.v)
def vxShlOp (v b : LV) : LV := .int (v.v <<< (b.v % 32))
def vxShrOp (v b : LV) : LV := .int ((v.v % 2 ^ 32) >>> (b.v % 32))
def vxSarOp (v b : LV) : LV := .int (wrapInt 32 (toSigned 32 v.v / (2 ^ (b.v % 32) : Nat)))
def vxIminOp (v b : LV) : LV := if toSigned 32 b.v < toSigned 32 v.v then .int b.v else .int v.v
def vxImaxOp (v b : LV) : LV := if toSigned 32 v.v < toSigned 32 b.v then .int b.v else .int v.v

/-- One chain operation: opcode, chain value, SRCB operand, IMM scalar and predicate-register bit (Table 8-3).
The second component says that FTOI saturated. -/
def vxOp (op : Nat) (v b : LV) (imm : Nat) (p : Bool) : LV × Bool :=
  match op with
  | 0x01 => (vxPassOp v, false)
  | 0x02 => (vxMulOp v b, false)
  | 0x03 => (vxAddOp v b, false)
  | 0x04 => (vxSubOp v b, false)
  | 0x05 => (vxRsubOp v b, false)
  | 0x06 => (vxFmaiOp v b imm, false)
  | 0x07 => (vxFnmaiOp v b imm, false)
  | 0x08 => (vxMinOp v b, false)
  | 0x09 => (vxMaxOp v b, false)
  | 0x0A => (vxAbsOp v, false)
  | 0x0B => (vxNegOp v, false)
  | 0x0C => (vxClampOp v b, false)
  | 0x10 => (vxCmpeqOp v b, false)
  | 0x11 => (vxCmpneOp v b, false)
  | 0x12 => (vxCmpltOp v b, false)
  | 0x13 => (vxCmpleOp v b, false)
  | 0x14 => (vxCmpgtOp v b, false)
  | 0x15 => (vxCmpgeOp v b, false)
  | 0x16 => (vxSelectOp v b p, false)
  | 0x18 => (vxFloorOp v, false)
  | 0x19 => (vxCeilOp v, false)
  | 0x1A => (vxRintOp v, false)
  | 0x1B => (vxTruncOp v, false)
  | 0x1C => vxFtoiOp v
  | 0x1D => (vxItofOp v, false)
  | 0x20 => (vxIaddOp v b, false)
  | 0x21 => (vxIsubOp v b, false)
  | 0x22 => (vxImulOp v b, false)
  | 0x23 => (vxAndOp v b, false)
  | 0x24 => (vxOrOp v b, false)
  | 0x25 => (vxXorOp v b, false)
  | 0x26 => (vxShlOp v b, false)
  | 0x27 => (vxShrOp v b, false)
  | 0x28 => (vxSarOp v b, false)
  | 0x29 => (vxIminOp v b, false)
  | 0x2A => (vxImaxOp v b, false)
  | _ => (v, false)

/-! ### Operands -/

/-- Element `j` of an access in a modifier's format (Table 8-2); elements not wholly within it are zero. -/
def modElem (modifier : Nat) (b : Option (List Byte)) (j : Nat) : LV :=
  match b with
  | none => .zero
  | some l =>
    let size := match modifier with
      | 0 => 4 | 1 => 2 | 2 => 2 | 3 => 1 | 4 => 1 | 5 => 1 | _ => 4
    if l.length < size * (j + 1) then (if modifier = 5 || modifier = 6 then .int 0 else .zero)
    else
      let raw := leAt l (size * j) size
      match modifier with
      | 0 => .f raw
      | 1 => .f (toF32 (decodeF fBF16 raw))
      | 2 => .f (toF32 (decodeF fFP16 raw))
      | 3 => .f (toF32 (decodeF fE4M3 raw))
      | 4 => .f (toF32 (decodeF fE5M2 raw))
      | 5 => .int (wrapInt 32 (toSigned 8 raw))
      | _ => .int raw

/-- Lane `j` of a unit output that presents in this step; zero past its lanes or with nothing presented (08:R176). -/
def unitLane (f : Option Flight) (j : Nat) : LV :=
  match f with
  | none => .zero
  | some x => let l := x.lanes.getD j Lane.zero; ⟨l.v, l.isInt⟩

/-- The mixing function of the generator (08:R189). -/
def genRound (z : Nat) : Nat :=
  let z := ((z ^^^ (z >>> 30)) * 0xBF58476D1CE4E5B9) % 2 ^ 64
  let z := ((z ^^^ (z >>> 27)) * 0x94D049BB133111EB) % 2 ^ 64
  z ^^^ (z >>> 31)

def genMix (seed c : Nat) : Nat :=
  genRound (genRound (genRound (seed ^^^ ((c * 0x9E3779B97F4A7C15) % 2 ^ 64))))

/-- u, an exact FP32 value strictly between 0 and 1 (08:R189). -/
def genU (bits : Nat) : Nat := toF32 (.num false (2 * ((bits % 2 ^ 32) >>> 9) + 1) (-24))

/-- The accesses of a word as read in its step: AG0, AG1, AG3. -/
structure Reads where
  a0 : Option (List Byte)
  a1 : Option (List Byte)
  a3 : Option (List Byte)
  deriving DecidableEq, Repr

/-- What the units present in the step (02:R46). -/
structure Pres where
  chain : Option Flight
  vernier : Option Flight
  scan : Option Flight
  rsu : Option Flight
  drain : Option Flight
  status : Option Flight
  deriving DecidableEq, Repr

/-- Operand of SRCA code `s` in lane `j`, the generator excepted (Table 8-1). -/
def srcaLane (w : Word512) (rd : Reads) (p : Pres) (j : Nat) : LV :=
  let m := slotMod (vxSlot w 0)
  match vxSrca w with
  | 0 => modElem m rd.a0 j
  | 1 => modElem m rd.a1 j
  | 2 => modElem m rd.a3 j
  | 3 => unitLane p.drain j
  | 4 => unitLane p.vernier j
  | 5 => unitLane p.scan j
  | 6 => unitLane p.rsu j
  | _ => .zero

/-- SRCB operand of slot `i` in lane `j`, the generator excepted (Table 8-1). -/
def srcbLane (w : Word512) (rd : Reads) (p : Pres) (i j : Nat) : LV :=
  let x := vxSlot w i
  match slotSrcb x with
  | 1 => modElem (slotMod x) rd.a1 j
  | 2 => modElem (slotMod x) rd.a3 j
  | 3 => .f (cwImm w)
  | 4 => unitLane p.vernier j
  | 5 => unitLane p.scan j
  | 6 => unitLane p.rsu j
  | _ => .zero

/-- One element with all of its operands, as compress moves it (08:R186). -/
structure Elem where
  a : LV
  b0 : LV
  b1 : LV
  b2 : LV
  b3 : LV
  p : Bool
  deriving DecidableEq, Repr

def Elem.zero : Elem := ⟨.zero, .zero, .zero, .zero, .zero, false⟩

/-- The word names the generator as SRCA or in an SRCB, or rounds stochastically: it draws (08:R189). -/
def vxDraws (w : Word512) : Bool :=
  vxN w ≠ 0 && (vxRnd w == 1 || vxSrca w == 7 ||
    (List.range 4).any fun i => slotOp (vxSlot w i) ≠ 0 && slotSrcb (vxSlot w i) == 7)

/-- Predicate bits of PSRC (08:R184). -/
def vxPredBits (w : Word512) (rd : Reads) (c : Core) : Nat :=
  match vxPsrc w with
  | 1 => leAt (rd.a1.getD []) 0 64
  | 2 => leAt (rd.a3.getD []) 0 64
  | 3 => c.pred.toNat
  | _ => 2 ^ 512 - 1

/-- Valid lanes by the VLEN test and the predicate (08:R182, R183), as a bit mask. -/
def vxValid (w : Word512) (rd : Reads) (c : Core) : Nat :=
  let vl := if vxVlu w = 1 then
      (if c.pos.toNat < c.vlen.toNat then min 512 (c.vlen.toNat - c.pos.toNat) else 0) else 512
  vxPredBits w rd c &&& (2 ^ vl - 1)

/-- The chain of an element processed in lane `j` (08:R175). -/
def vxChain (w : Word512) (c : Core) (j : Nat) (e : Elem) : LV × Bool :=
  let mix := genMix ((c.genSeed.toList.getD j 0).toNat) ((c.genCtr.toList.getD j 0).toNat)
  let a := if vxSrca w = 7 then LV.f (genU mix) else e.a
  let opnd (i : Nat) (b : LV) : LV := if slotSrcb (vxSlot w i) = 7 then LV.f (genU (mix >>> 32)) else b
  let go (i : Nat) (b : LV) (s : LV × Bool) : LV × Bool :=
    let op := slotOp (vxSlot w i)
    if op = 0 then s else let r := vxOp op s.1 (opnd i b) (cwImm w) e.p; (r.1, s.2 || r.2)
  go 3 e.b3 (go 2 e.b2 (go 1 e.b1 (go 0 e.b0 (a, false))))

/-- Bytes of one OFMT element. -/
def ofmtSize (o : Nat) : Nat :=
  match o with
  | 0 => 4 | 1 => 2 | 2 => 2 | 3 => 1 | 4 => 1 | 5 => 1 | _ => 4

/-- The output conversion (08:R181): the stored bits and whether an integer conversion saturated. -/
def vxConvert (o : Nat) (r : Rnd) (x : LV) : Nat × Bool :=
  let v := if x.i then Val.ofInt (toSigned 32 x.v) else ofF32 x.v
  match o with
  | 0 => if x.i then (encodeF fFP32 r v, false) else (canon32 x.v, false)
  | 1 => (encodeF fBF16 r v, false)
  | 2 => (encodeF fFP16 r v, false)
  | 3 => (encodeF fE4M3 r v, false)
  | 4 => (encodeF fE5M2 r v, false)
  | 5 => valToInt 8 r v
  | _ => if x.i then (x.v, false) else valToInt 32 r v

/-- An element that sets its predicate bit under PSET (08:R185). -/
def vxNonZero (x : LV) : Bool := if x.i then x.v % 2 ^ 32 ≠ 0 else x.v % 2 ^ 31 ≠ 0

/-- GSET, alone in SLOT0: seed and base from 16 bytes of its SRCA access, in force 5 steps later (08:R190). -/
def vxGsetWord (w : Word512) (rd : Reads) (c : Core) : Core × Option Flight × List CoreEv :=
  let b := (match vxSrca w with | 0 => rd.a0 | 1 => rd.a1 | _ => rd.a3).getD []
  let c := { c with gsetPend := c.gsetPend ++ [(5, BitVec.ofNat 64 (leAt b 0 8), BitVec.ofNat 64 (leAt b 8 8))] }
  (c, some ⟨.chain, 9, [], 4, false, 0, false⟩, [])

/-- The VX field of one word (08). A word whose operand generators are all disabled presents valid zeros, which its write port stores (02:R46 leaves
that open; log 88, DESIGN CHOICE). Every stage of the chain works under the word that read the operands, whatever word executes in its step (08:R175
and 02:R496 against 03:R83; log 94, DEDUCED). A drained row that a chain of n operations takes presents 8 + 5n steps after DRN, 4 for the drain and
4 + 5n for the chain (08:R175, R176; log 82, DEDUCED). -/
def vxWord (w : Word512) (rd : Reads) (p : Pres) (c : Core) : Core × Option Flight × List CoreEv :=
  let n := vxN w
  if n = 0 then (c, none, [])
  else if slotOp (vxSlot w 0) = 0x3F then vxGsetWord w rd c
  else
    let valid := vxValid w rd c
    let vlanes := (List.range 512).filter fun j => valid.testBit j
    let a := vlanes.length
    let elem (j : Nat) : Elem :=
      ⟨srcaLane w rd p j, srcbLane w rd p 0 j, srcbLane w rd p 1 j, srcbLane w rd p 2 j, srcbLane w rd p 3 j,
        c.pred.getLsbD j⟩
    let cx := vxCx w
    let el : List Elem :=
      if cx % 2 = 1 then vlanes.map elem ++ List.replicate (512 - a) Elem.zero else (List.range 512).map elem
    let inValid (j : Nat) : Bool := if cx = 0 then valid.testBit j else decide (j < a)
    let draws := vxDraws w
    let stoch := vxRnd w == 1
    let lane (j : Nat) (e : Elem) : Lane × Bool :=
      let r := vxChain w c j e
      let draw := genMix ((c.genSeed.toList.getD j 0).toNat) (((c.genCtr.toList.getD j 0) ^^^ (1 <<< 63)).toNat) % 2 ^ 32
      let o := vxConvert (vxOfmt w) (if stoch then .stoch draw else .even) r.1
      (⟨r.1.v, r.1.i, inValid j, o.1⟩, inValid j && (r.2 || o.2))
    let res := (List.range 512).zipWith lane el
    let lanes := res.map (·.1)
    let outLanes : List Lane :=
      if cx / 2 = 1 then
        (List.range 512).map fun j => if valid.testBit j then lanes.getD (popCount valid j) Lane.zero else Lane.zero
      else lanes
    let evs := (if vxVlu w = 1 && c.vlen.toNat ≤ c.pos.toNat then [CoreEv.first 0x0702 4 0] else []) ++
      [CoreEv.count 32 a, .count 33 (512 - a), .count 35 (if draws then 512 else 0)]
    let c := if vxVlu w = 1 && c.pos.toNat < c.vlen.toNat then { c with pos := c.pos + 512 } else c
    let c := if draws then { c with genCtr := c.genCtr.map (· + 512) } else c
    (c, some ⟨.chain, 4 + 5 * n, outLanes, ofmtSize (vxOfmt w), vxPset w == 1, 0, res.any (·.2)⟩, evs)

/-- Predicate bits that a chain output under PSET writes (08:R185). -/
def predOf (f : Flight) : BitVec 512 :=
  BitVec.ofNat 512 ((List.range 512).foldl (fun m j =>
    let l := f.lanes.getD j Lane.zero
    if l.valid && vxNonZero ⟨l.v, l.isInt⟩ then m + 2 ^ j else m) 0)

end Sys2Proof.Machine
end

