-- ==== Sys2Proof/Machine/Vernier.lean ====
section
/-! DEFINITION. The Vernier of one core: packages, evaluation, built-in entries, lookups, swap and table loads (10). -/

namespace Sys2Proof.Machine

/-! ### Packages (Tables 10-3 to 10-5) -/

/-- An entry record. -/
structure VEntry where
  entry : Nat
  rr : Nat
  rc : Nat
  deg : Nat
  est : Bool
  beyond : Nat
  nseg : Nat
  toff : Nat
  dlo : Nat
  dhi : Nat
  ca : Nat
  cb : Nat
  cr : Nat
  rsv : Bool
  deriving DecidableEq, Repr

/-- A segment record. -/
structure VSeg where
  dir : Nat
  pu : Nat
  pl : Nat
  c : List Nat
  rsv : Bool
  deriving DecidableEq, Repr

/-- Entry record `i` of a package. -/
def pkgEntry (p : List Byte) (i : Nat) : VEntry :=
  let r := leAt p (64 + 32 * i) 32
  { entry := natFld r 248 8, rr := natFld r 244 4, rc := natFld r 240 4, deg := natFld r 237 3, est := r.testBit 236,
    beyond := natFld r 234 2, nseg := natFld r 226 8 + 1, toff := natFld r 216 10, dlo := natFld r 160 32,
    dhi := natFld r 128 32, ca := natFld r 96 32, cb := natFld r 64 32, cr := natFld r 32 32,
    rsv := natFld r 192 24 ≠ 0 || natFld r 0 32 ≠ 0 }

/-- Segment record `i` of an entry. -/
def pkgSeg (p : List Byte) (e : VEntry) (i : Nat) : VSeg :=
  let r := leAt p (16 * e.toff + 48 * i) 48
  { dir := natFld r 320 2, pu := natFld r 288 32, pl := natFld r 256 32,
    c := (List.range 8).map fun k => natFld r (32 * k) 32, rsv := natFld r 322 62 ≠ 0 }

def pkgNent (p : List Byte) : Nat := natFld (leAt p 0 64) 441 8
def pkgLen (p : List Byte) : Nat := natFld (leAt p 0 64) 449 15
def pkgEntries (p : List Byte) : List VEntry := (List.range (pkgNent p)).map (pkgEntry p)

/-! ### Evaluation (10:R218) -/

/-- The internal format: a 34-bit significand and a 10-bit exponent, with IEEE 754's bias and ends of range (log 12, PRESUMED). -/
def fV34 : FFmt := ⟨10, 33, 511, .ieee⟩
/-- Rounding to the internal format. -/
def v34 (v : Val) : Val := decodeF fV34 (encodeF fV34 .even v)
def v34mul (a b : Val) : Val := v34 (a.mul b)
def v34add (a b : Val) : Val := v34 (a.add b)

def valOne : Val := .num false 1 0

/-- Clamp into [0, 1]. -/
def clamp01 (r : Val) : Val := if r.lt (.num false 0 0) then .num false 0 0 else if valOne.lt r then valOne else r

/-- Reductions of Table 10-1: r and n. -/
def vReduce (e : VEntry) (x : Val) : Val × Int :=
  let ca := ofF32 e.ca
  let cb := ofF32 e.cb
  let y (z : Val) : Val := v34 ((z.mul ca).add cb)
  match e.rr with
  | 0 => (clamp01 (y x), 0)
  | 1 => (clamp01 (y x.abs), 0)
  | 2 => (clamp01 (y x.abs), 0)
  | 3 => let t := y x; let n := t.floor; (v34 (t.sub (.ofInt n)), n)
  | 4 =>
    let n := x.ilog
    (v34 ((x.scale2 (-n)).sub valOne), n)
  | 5 =>
    let n := x.ilog / 2
    (v34 (((x.scale2 (-(2 * n))).sub valOne).div (.ofInt 3)), n)
  | _ =>
    let t := y x
    let n := t.floor
    let f := v34 (t.sub (.ofInt n))
    (if n % 2 = 0 then f else v34 (valOne.sub f), n)

/-- Reconstructions of Table 10-1. -/
def vRecon (e : VEntry) (p : Val) (n : Int) (x : Val) : Val :=
  match e.rc with
  | 0 => p
  | 1 => v34 (p.scale2 n)
  | 2 => v34add p (v34mul (.ofInt n) (ofF32 e.cr))
  | 3 => v34mul x p
  | 4 => v34 (if (ofF32 e.cr).isNeg then p.scale2 (-n) else p.scale2 n)
  | _ => if n % 4 = 2 || n % 4 = 3 then p.neg else p

/-- The polynomial by Horner's scheme, each operation rounded. -/
def vHorner (c : List Nat) (deg : Nat) (u : Val) : Val :=
  (List.range deg).foldl (fun p k => v34add (v34mul p u) (ofF32 (c.getD (deg - 1 - k) 0))) (ofF32 (c.getD deg 0))

/-- The polynomial by Estrin's scheme: pairs, then powers u² and u⁴. -/
def vEstrin (c : List Nat) (u : Val) : Val :=
  let k (i : Nat) : Val := ofF32 (c.getD i 0)
  let pair (i : Nat) : Val := v34add (k i) (v34mul (k (i + 1)) u)
  let u2 := v34mul u u
  let u4 := v34mul u2 u2
  v34add (v34add (pair 0) (v34mul (pair 2) u2)) (v34mul (v34add (pair 4) (v34mul (pair 6) u2)) u4)

def vMin (a b : Val) : Val := if b.lt a then b else a
def vMax (a b : Val) : Val := if a.lt b then b else a

/-- −1 below the domain, 0 inside, 1 above (10:R219). -/
def vDomain (e : VEntry) (xb : Nat) : Int :=
  let x := ofF32 xb
  let t := if e.rr = 1 || e.rr = 2 then x.abs else x
  match t with
  | .inf neg => if neg then -1 else 1
  | _ =>
    if (e.rr = 4 || e.rr = 5) && (t.isNeg || t.isZero) then -1
    else if t.lt (ofF32 e.dlo) then -1 else if t.lt (ofF32 e.dhi) then 0 else 1

/-- The segment of an entry that an input inside the domain falls into, its place u there, and n (10:R218). -/
def vPlace (e : VEntry) (x : Val) : Nat × Val × Int :=
  let (r, n) := vReduce e x
  let rs := r.mul (.ofInt e.nseg)
  let i := min rs.floor.toNat (e.nseg - 1)
  (i, rs.sub (.ofInt i), n)

/-- One FP32 input through one entry of a package (10:R218, R219). -/
def vEval (pkg : List Byte) (e : VEntry) (xb : Nat) : Nat :=
  let x := ofF32 xb
  if x.isNan then nan32
  else
    let sgn (v : Val) : Val := if e.rr = 1 && x.isNeg && !x.isZero then v.neg else v
    let dom := vDomain e xb
    if dom ≠ 0 then
      match e.beyond with
      | 1 =>
        let pin := if dom < 0 then (pkgSeg pkg e 0).pl else (pkgSeg pkg e (e.nseg - 1)).pu
        toF32 (sgn (vRecon e (ofF32 pin) 0 x))
      | 2 => if dom < 0 then 0 else 0x7F800000
      | _ => nan32
    else
      let (i, u, n) := vPlace e x
      let s := pkgSeg pkg e i
      let p := if e.est then vEstrin s.c u else vHorner s.c e.deg u
      let pl := ofF32 s.pl
      let pu := ofF32 s.pu
      let p := vMin (vMax p (vMin pl pu)) (vMax pl pu)
      toF32 (sgn (vRecon e p n x))

/-- The segment record that an input reads, if it reads one. -/
def vSegUsed (e : VEntry) (xb : Nat) : Option Nat :=
  let x := ofF32 xb
  let dom := vDomain e xb
  if x.isNan then none
  else if dom = 0 then some (vPlace e x).1
  else if e.beyond = 1 then some (if dom < 0 then 0 else e.nseg - 1)
  else none

/-- A value that an input reads through entry record `k` stands at one of the places `bad` of its package (10:R229). -/
def vReadBad (bad : List Nat) (k : Nat) (e : VEntry) (xb : Nat) : Bool :=
  let within (a n : Nat) : Bool := bad.any fun o => decide (a ≤ o) && decide (o < a + n)
  !bad.isEmpty && !isNan32 xb && (within (64 + 32 * k) 32 || (vSegUsed e xb).any fun i => within (16 * e.toff + 48 * i) 48)

/-! ### Built-in entries (10:R220, R221) -/

/-- Entries 0x00 to 0x0E and 0x10 to 0x15 are built in. -/
def vBuiltIn (entry : Nat) : Bool := entry ≤ 0x0E || (0x10 ≤ entry && entry ≤ 0x15)

def inf32 : Nat := 0x7F800000
def ninf32 : Nat := 0xFF800000
def nzero32 : Nat := 0x80000000

/-- The special inputs of Table 10-2 and the zeros of 10:R221. -/
def vSpecial (entry x : Nat) : Option Nat :=
  let neg := x.testBit 31
  if isNan32 x then some nan32
  else if x % 2 ^ 31 = inf32 then
    match entry, neg with
    | 0x00, true => some 0 | 0x00, false => some inf32
    | 0x01, true => some 0 | 0x01, false => some inf32
    | 0x02, true => some nan32 | 0x02, false => some inf32
    | 0x03, true => some nan32 | 0x03, false => some inf32
    | 0x04, true => some nzero32 | 0x04, false => some 0
    | 0x05, true => some nan32 | 0x05, false => some 0
    | 0x06, true => some nan32 | 0x06, false => some inf32
    | 0x07, true => some 0 | 0x07, false => some one32
    | 0x08, true => some 0xBF800000 | 0x08, false => some one32
    | 0x09, true => some 0 | 0x09, false => some inf32
    | 0x0A, true => some nzero32 | 0x0A, false => some inf32
    | 0x0B, true => some nzero32 | 0x0B, false => some inf32
    | 0x0C, true => some 0xBF800000 | 0x0C, false => some one32
    | 0x0D, _ => some nan32 | 0x0E, _ => some nan32
    | 0x10, _ => some 0 | 0x11, _ => some 0
    | 0x12, true => some 0 | 0x12, false => some one32
    | 0x13, true => some 0 | 0x13, false => some one32
    | 0x14, true => some 0 | 0x14, false => some one32
    | 0x15, _ => some 0
    | _, _ => none
  else if isZero32 x then
    match entry with
    | 0x02 => some ninf32 | 0x03 => some ninf32
    | 0x04 => some (if neg then ninf32 else inf32)
    | 0x05 => some (if neg then ninf32 else inf32)
    | 0x06 => if neg then some nzero32 else none
    | 0x08 => if neg then some nzero32 else none
    | 0x0A => if neg then some nzero32 else none
    | 0x0B => if neg then some nzero32 else none
    | 0x0C => if neg then some nzero32 else none
    | 0x0D => if neg then some nzero32 else none
    | _ => none
  else if neg && (entry == 2 || entry == 3 || entry == 5 || entry == 6) then some nan32
  else if (entry == 0x0D || entry == 0x0E) && x % 2 ^ 31 ≥ 0x4B800000 then some nan32
  else none

/-- The record of a built-in entry in its package. -/
def vBuiltIdx (entry : Nat) : Nat := if entry < 0x0F then entry else entry - 1

/-- A built-in entry: the special inputs, else 10:R218 over the built-in package, whose bytes are a free value. -/
def vBuiltinEval (entry x : Nat) : Nat :=
  match vSpecial entry x with
  | some r => r
  | none => vEval Config.builtinStore (pkgEntry Config.builtinStore (vBuiltIdx entry)) x

/-- exp2 of the RSU normaliser: entry 0x01 as shipped (09:R207). -/
def vExp2 (x : Nat) : Nat := vBuiltinEval 1 x

/-! ### Lookup and swap words (10:R214, R226) -/

def Core.bank (c : Core) (b : Nat) : VBank := (c.vtab.toList).getD b VBank.init
def Core.setBank (c : Core) (b : Nat) (x : VBank) : Core :=
  { c with vtab := c.vtab.setIfInBounds b x }

/-- Input of Vernier lane `j` (10:R215). -/
def vInput (w : Word512) (rd : Reads) (p : Pres) (j : Nat) : Nat :=
  let el (b : Option (List Byte)) : Nat :=
    match b with
    | some l => if l.length < 4 * (j + 1) then 0 else leAt l (4 * j) 4
    | none => 0
  match vfSrc w with
  | 0 => el rd.a0
  | 1 => el rd.a1
  | 2 => (unitLane p.chain j).v
  | _ => (unitLane p.scan j).v

/-- Places of the live image of bank `b`, or of its shadow, whose parity fails. -/
def Core.badTable (c : Core) (b : Nat) (live : Bool) : List Nat :=
  c.bad.filterMap fun m => match m with | .table k l o => if k = b && l == live then some o else none | _ => none

/-- Places of the built-in store whose parity fails. -/
def Core.badStore (c : Core) : List Nat := c.bad.filterMap fun m => match m with | .store o => some o | _ => none

/-- The record of a loaded entry in the live image of the word's bank, with its place. -/
def vLoaded (w : Word512) (c : Core) : Option (Nat × VEntry) :=
  let b := c.bank (vfBank w)
  if b.live.isEmpty then none
  else ((List.range (pkgNent b.live)).zip (pkgEntries b.live)).find? fun r => r.2.entry == vfEntry w

/-- A lane of a lookup reads a value whose parity fails (10:R229). -/
def vLaneBad (w : Word512) (c : Core) (x : Nat) : Bool :=
  let e := vfEntry w
  if e < 0x80 then vReadBad c.badStore (vBuiltIdx e) (pkgEntry Config.builtinStore (vBuiltIdx e)) x
  else (vLoaded w c).any fun r => vReadBad (c.badTable (vfBank w) true) r.1 r.2 x

/-- The result of one lane of a lookup (10:R218, R222, R229). -/
def vLane (w : Word512) (c : Core) (x : Nat) : Nat :=
  if vLaneBad w c x then nan32
  else if vfEntry w < 0x80 then vBuiltinEval (vfEntry w) x
  else match vLoaded w c with
    | some r => vEval (c.bank (vfBank w)).live r.2 x
    | none => nan32

/-- The live image does not define the loaded entry of the word. -/
def vUndefined (w : Word512) (c : Core) : Bool := decide (0x80 ≤ vfEntry w) && (vLoaded w c).isNone

/-- SWAP on a bank: a Ready shadow and the live image are exchanged (10:R226). -/
def vSwapBank (b : VBank) (step : BitVec 48) : VBank :=
  if b.sst = .ready then
    { b with swapped := some step, live := b.shadow, liveOk := true, gen := b.gen + 1, shadow := b.live,
             sst := if b.liveOk then .ready else .empty }
  else b

/-- The two images of bank `b` have been exchanged, and their failing values with them. -/
def Core.swapBad (c : Core) (b : Nat) : Core :=
  { c with bad := c.bad.map fun m => match m with | .table k l o => if k = b then .table k (!l) o else m | _ => m }

/-- The VF field of one word. -/
def vfWord (w : Word512) (rd : Reads) (p : Pres) (c : Core) : Core × Option Flight × List CoreEv :=
  let fl : Option Flight × List CoreEv :=
    if vfEn w = 1 then
      let ins := (List.range 256).map (vInput w rd p)
      let outs := ins.map (vLane w c)
      let bad := (ins.filter (vLaneBad w c)).length
      -- lookups of an undefined entry raise 0x0804 alone and count no NaN (10 Table 10-10)
      let nans := ((ins.zip outs).filter fun x => !isNan32 x.1 && isNan32 x.2).length
      (some ⟨.vernier, 18, outs.map fun v => ⟨v, false, true, v⟩, 4, false, 0, false⟩,
        (if bad = 0 then [] else [CoreEv.first 0x0805 7 0, .count 20 bad]) ++
          (if vUndefined w c then [CoreEv.first 0x0804 7 0]
           else if nans = 0 then [] else [CoreEv.first 0x0806 7 0, .count 67 nans]))
    else (none, [])
  let b := c.bank (vfBank w)
  if vfSwap w = 1 then
    if b.sst = .ready then ((c.setBank (vfBank w) (vSwapBank b c.step)).swapBad (vfBank w), fl.1, fl.2)
    else (c, fl.1, fl.2 ++ [CoreEv.first 0x0803 7 0, .count 66 1])
  else (c, fl.1, fl.2)

/-! ### Table loads (10:R223, R227) -/

def isFin32 (x : Nat) : Bool := x % 2 ^ 31 < inf32

/-- Checks of reason 0x03 on one entry and its segments. -/
def vEntryOk (p : List Byte) (e : VEntry) : Bool :=
  let segs := (List.range e.nseg).map (pkgSeg p e)
  decide (0x80 ≤ e.entry) && decide (e.rr ≤ 6) && decide (e.rc ≤ 5) && e.beyond != 3 &&
    (ofF32 e.dlo).lt (ofF32 e.dhi) && isFin32 e.ca && isFin32 e.cb && isFin32 e.cr && isFin32 e.dlo && !e.rsv &&
    (e.cr == 0 || e.rc == 2 || e.rc == 4) && decide (16 * e.toff + 48 * e.nseg ≤ pkgLen p) &&
    segs.all fun s => isFin32 s.pu && isFin32 s.pl && s.c.all isFin32 && !s.rsv && s.dir != 3 &&
      (List.range 8).all fun k => decide (k ≤ e.deg) || s.c.getD k 0 == 0

/-- Two entries' segment records do not overlap. -/
def vDisjoint (a b : VEntry) : Bool :=
  decide (16 * a.toff + 48 * a.nseg ≤ 16 * b.toff) || decide (16 * b.toff + 48 * b.nseg ≤ 16 * a.toff)

def vStrictAsc : List VEntry → Bool
  | a :: b :: r => decide (a.entry < b.entry) && vStrictAsc (b :: r)
  | _ => true

def vAllPairs : List VEntry → Bool
  | [] => true
  | a :: r => r.all (vDisjoint a) && vAllPairs r

/-- Reason 0x06: the coefficient margin, in exact arithmetic. -/
def vMargin (e : VEntry) (s : VSeg) : Bool :=
  let k (i : Nat) : Val := ofF32 (s.c.getD i 0)
  let s1 := (List.range (e.deg + 1)).foldl (fun a i => if 2 ≤ i then a.add ((k i).abs.mul (.ofInt i)) else a) (Val.num false 0 0)
  let s2 := (List.range (e.deg + 1)).foldl (fun a i => a.add (k i).abs) (Val.num false 0 0)
  let ge (x : Val) : Bool := !(x.sub s1).lt (s2.scale2 (-28))
  match s.dir with
  | 1 => ge (k 1)
  | 2 => ge (k 1).neg
  | _ => true

/-- Reason 0x07: period and symmetry seams. -/
def vSeams (e : VEntry) (segs : List VSeg) : Bool :=
  let first := segs.headD ⟨0, 0, 0, [], false⟩
  let last := segs.getLastD ⟨0, 0, 0, [], false⟩
  let z : Val := .num false 0 0
  let per (n : Int) : Bool :=
    let hi := vRecon e (ofF32 last.pu) n valOne
    let lo := vRecon e (ofF32 first.pl) (n + 1) valOne
    match last.dir with
    | 1 => !lo.lt hi
    | 2 => !hi.lt lo
    | _ => true
  let isPer := (e.rr == 3 && e.rc == 1) || (e.rr == 4 && e.rc == 2) || (e.rr == 5 && e.rc == 4)
  (!isPer || per 0) &&
    (e.rr != 6 || ((segs.all fun s => s.dir == first.dir && s.dir != 0) && (ofF32 first.pl).isZero)) &&
    (e.rr != 1 || (match first.dir with
      | 1 => !(ofF32 first.pl).lt z && first.pl != nzero32
      | 2 => !z.lt (ofF32 first.pl) && first.pl != 0
      | _ => true))

/-- Seams pinned from segment to segment, bit for bit (reason 0x04). -/
def vPinned : List VSeg → Bool
  | a :: b :: r => a.pu == b.pl && vPinned (b :: r)
  | _ => true

/-- PCRC of a package (Table 10-3). -/
def pkgCrcOk (p : List Byte) : Bool := crc32c (bytesAt p 4 (pkgLen p - 4)) == natFld (leAt p 0 64) 0 32

/-- The reason of the first failing check of Table 10-6, or 0. -/
def vValidate (p : List Byte) : Nat :=
  let h := leAt p 0 64
  let es := pkgEntries p
  let segs (e : VEntry) : List VSeg := (List.range e.nseg).map (pkgSeg p e)
  if !pkgCrcOk p then 1
  else if natFld h 480 32 ≠ 0x47565031 || natFld h 464 16 ≠ 1 || pkgLen p % 16 ≠ 0 || pkgLen p < 144 || 16384 < pkgLen p ||
      pkgNent p < 1 || 128 < pkgNent p || natFld h 32 409 ≠ 0 || pkgLen p < 64 + 32 * pkgNent p then 2
  else if !(es.all (vEntryOk p)) || !vStrictAsc es || !vAllPairs es then 3
  else if !(es.all fun e => vPinned (segs e)) then 4
  else if !(es.all fun e => (segs e).all fun s =>
      match s.dir with
      | 1 => !(ofF32 s.pu).lt (ofF32 s.pl)
      | 2 => !(ofF32 s.pl).lt (ofF32 s.pu)
      | _ => true) then 5
  else if !(es.all fun e => (segs e).all (vMargin e)) then 6
  else if !(es.all fun e => vSeams e (segs e)) then 7
  else 0

/-- Lookups of the old generation, the swap word's own among them, that have not yet presented: a Vernier result is in flight for 18 steps (10:R227). -/
def Core.oldLookups (c : Core) (k : VBank) : Bool :=
  match k.swapped with
  | some t => c.flight.any fun f => f.unit == .vernier && decide ((c.step - t).toNat + f.left ≤ 18)
  | none => false

/-- Places of the shadow of bank `b` are written anew. -/
def Core.overwrite (c : Core) (b : Nat) (at_ : Nat → Bool) : Core :=
  c.clearBad fun m => match m with | .table k l o => k == b && !l && at_ o | _ => false

/-- Bytes of a table load arrive at the shadow of a bank; they are held while old lookups are in flight
after a swap (10:R227). -/
def vArrive (c : Core) (b off : Nat) (data : List Byte) : Core :=
  let k := c.bank b
  let hold := if off = 0 then c.oldLookups k else k.sst == .held
  let old := if off = 0 then [] else if hold then k.arrived else k.shadow
  let img := bytesAt old 0 off ++ data
  if hold then c.setBank b { k with sst := .held, arrived := img }
  else (c.setBank b { k with sst := .loading, shadow := img }).overwrite b fun o => off = 0 || (decide (off ≤ o) && decide (o < off + data.length))

/-- The outcome of validation is recorded (10:R223). -/
def vFinish (k : VBank) (reason : Nat) : VBank :=
  if reason = 0 then { k with sst := .ready } else { k with sst := .rejected, reason := BitVec.ofNat 8 reason }

end Sys2Proof.Machine
end

