-- ==== Sys2Proof/Machine/ScanRsu.lean ====
section
/-! DEFINITION. The scan network and the row statistics unit of one core (09). -/

namespace Sys2Proof.Machine

/-- A lane of a source: its 32 bits and its validity (Table 9-1). -/
structure SLane where
  v : Nat
  ok : Bool
  deriving DecidableEq, Repr

/-- Lanes of a source code of SSRC or RSRC (Table 9-1). -/
def scSource (code : Nat) (rd : Reads) (p : Pres) : List SLane :=
  match code with
  | 0 =>
    let l := rd.a0.getD []
    (List.range 512).map fun j => if l.length < 4 * (j + 1) then ⟨0, false⟩ else ⟨leAt l (4 * j) 4, true⟩
  | 1 =>
    (List.range 512).map fun j =>
      match p.chain with
      | some f => let x := f.lanes.getD j Lane.zero; ⟨x.v, x.valid⟩
      | none => ⟨0, false⟩
  | 2 =>
    (List.range 512).map fun j =>
      match p.drain with
      | some f => let x := f.lanes.getD j Lane.zero; ⟨x.v, j < 128⟩
      | none => ⟨0, false⟩
  | _ =>
    (List.range 512).map fun j =>
      match p.vernier with
      | some f => let x := f.lanes.getD j Lane.zero; ⟨x.v, j < 256⟩
      | none => ⟨0, false⟩

/-- The width by which Q advances (09:R206). -/
def srcWidth (code : Nat) : Nat := if code = 2 then 128 else if code = 3 then 256 else 512

/-! ### Scan (09:R200-R203) -/

/-- A scan value: component a and, for the affine pair, component b. -/
abbrev ScanV := Nat × Nat

/-- −0, the identity of addition. -/
def negZero : Nat := 0x80000000

/-- Identity of a scan operator (Table 9-2). -/
def scanId (op : Nat) : ScanV :=
  match op with
  | 1 => (negZero, 0)
  | 2 => (ninf32, 0)
  | 3 => (inf32, 0)
  | 4 => (one32, 0)
  | _ => (one32, negZero)

def scanAddOp (x y : ScanV) : ScanV := (fadd x.1 y.1, 0)
def scanMaxOp (x y : ScanV) : ScanV := (fmax x.1 y.1, 0)
def scanMinOp (x y : ScanV) : ScanV := (fmin x.1 y.1, 0)
def scanMulOp (x y : ScanV) : ScanV := (fmul x.1 y.1, 0)
/-- (a_y × a_x, fma(a_y, b_x, b_y)). -/
def scanAffOp (x y : ScanV) : ScanV := (fmul y.1 x.1, ffma y.1 x.2 y.2)

/-- x ⊕ y, x the earlier element (Table 9-2). -/
def scanOp (op : Nat) (x y : ScanV) : ScanV :=
  match op with
  | 1 => scanAddOp x y
  | 2 => scanMaxOp x y
  | 3 => scanMinOp x y
  | 4 => scanMulOp x y
  | _ => scanAffOp x y

/-- The carry applied as c ⊕ x, as the presented component (Table 9-2). -/
def scanCarryOp (op c : Nat) (x : ScanV) : Nat :=
  match op with
  | 1 => fadd c x.1
  | 2 => fmax c x.1
  | 3 => fmin c x.1
  | 4 => fmul c x.1
  | _ => ffma x.1 c x.2

/-- The presented component without a carry. -/
def scanPlain (op : Nat) (x : ScanV) : Nat := if op = 5 then x.2 else x.1

/-- One level of 09:R201 with distance `d`. -/
def scanLevel (op d : Nat) (s : Array (ScanV × Bool)) : Array (ScanV × Bool) :=
  ((List.range 512).map fun j =>
    let y := s.getD j ((0, 0), false)
    if d ≤ j && !y.2 then (let x := s.getD (j - d) ((0, 0), false); (scanOp op x.1 y.1, x.2)) else y).toArray

/-- The nine levels of 09:R201. -/
def scanLevels (op : Nat) (s : Array (ScanV × Bool)) : Array (ScanV × Bool) :=
  (List.range 9).foldl (fun a k => scanLevel op (2 ^ k) a) s

/-- The scan part of a word. -/
def scanWord (w : Word512) (rd : Reads) (p : Pres) (c : Core) : Core × Option Flight × List CoreEv :=
  let op := scOp w
  if op = 0 then (c, none, [])
  else
    let src := scSource (scSrc w) rd p
    let flags := if scSeg w = 1 then leAt (rd.a1.getD []) 0 64 else 0
    let b3 := rd.a3.getD []
    let x0 := ((List.range 512).map fun j =>
      let e := src.getD j ⟨0, false⟩
      let b := if b3.length < 4 * (j + 1) then 0 else leAt b3 (4 * j) 4
      ((if e.ok then (e.v, if op = 5 then b else 0) else scanId op), flags.testBit j)).toArray
    let r := scanLevels op x0
    let badC := c.isBad .carry && scCarry w == 1
    let cv := if badC then nan32 else c.carry.toNat
    let res := (List.range 512).map fun j =>
      let y := r.getD j ((0, 0), false)
      canon32 (if y.2 || scCarry w = 0 then scanPlain op y.1 else scanCarryOp op cv y.1)
    let lanes := (src.zip res).map fun z =>
      if z.1.ok then (⟨z.2, false, true, z.2⟩ : Lane) else Lane.zero
    let writes := src.any (·.ok) || flags ≠ 0
    let c := if writes then
        { c with carryPend := c.carryPend ++ [(0, BitVec.ofNat 32 (res.getD 511 0))] } else c
    (c, some ⟨.scan, 16, lanes, 4, false, 0, false⟩,
      (if lanes.any fun l => l.valid && isNan32 l.v then [CoreEv.first 0x0704 5 0] else []) ++
        (if badC && r.any fun y => !y.2 then [CoreEv.first 0x0707 5 0, .count 20 1] else []))

/-! ### RSU (09:R205-R210) -/

/-- A ranks before B: greater value, NaN greatest, −0 below +0, lower index first (09:R206). -/
def rankBefore (a b : Nat × Nat) : Bool :=
  let na := isNan32 a.1
  let nb := isNan32 b.1
  if na && nb then decide (a.2 < b.2)
  else if na then true
  else if nb then false
  else if fkey a.1 = fkey b.1 then decide (a.2 < b.2)
  else decide (fkey b.1 < fkey a.1)

/-- Merge of two ranked lists. -/
def rankMerge : List (Nat × Nat) → List (Nat × Nat) → Nat → List (Nat × Nat)
  | _, _, 0 => []
  | [], l, n + 1 => l.take (n + 1)
  | l, [], n + 1 => l.take (n + 1)
  | a :: r, b :: t, n + 1 =>
    if rankBefore a b then a :: rankMerge r (b :: t) n else b :: rankMerge (a :: r) t n

/-- An unsigned count as FP32. -/
def floatOf (n : Nat) : Nat := toF32 (.ofInt n)

/-- welford of 09:R207. -/
def welfordMerge (na ua qa nb ub qb : Nat) : RsuPart :=
  if nb = 0 then .welford na ua qa
  else if na = 0 then .welford nb ub qb
  else
    let n := min 0xFFFFFFFF (na + nb)
    let d := fsub ub ua
    let r := fdiv (floatOf nb) (floatOf n)
    .welford n (fadd ua (fmul d r)) (fadd (fadd qa qb) (fmul (fmul d d) (fmul (floatOf na) r)))

/-- E(x, m) of 09:R207. -/
def normE (x m : Nat) : Nat := if feq x m then one32 else vExp2 (fsub x m)

/-- normaliser of 09:R207; a NaN makes both parts canonical NaN. -/
def normMerge (ma sa mb sb : Nat) : RsuPart :=
  let m := fmax ma mb
  if isNan32 m then .norm nan32 nan32
  else .norm m (fadd (fmul sa (normE ma m)) (fmul sb (normE mb m)))

/-- Merge of two partials of one operation (Table 9-3); an empty side passes the other through. -/
def rsuMerge (k : Nat) (a b : RsuPart) : RsuPart :=
  match a, b with
  | .empty, x => x
  | x, .empty => x
  | .sum x, .sum y => .sum (fadd x y)
  | .welford na ua qa, .welford nb ub qb => welfordMerge na ua qa nb ub qb
  | .best v i, .best u j => if rankBefore (v, i) (u, j) then .best v i else .best u j
  | .norm ma sa, .norm mb sb => normMerge ma sa mb sb
  | .topk l, .topk r => .topk (rankMerge l r k)
  | x, _ => x

/-- Leaf of element x at index i (Table 9-3). -/
def rsuLeaf (op x i : Nat) : RsuPart :=
  match op with
  | 1 => .sum x
  | 2 => .welford 1 x 0
  | 3 => .best x i
  | 4 => if x = ninf32 then .norm ninf32 0 else if isNan32 x then .norm nan32 nan32 else .norm x one32
  | _ => .topk [(x, i)]

/-- One level of the pairwise tree of 09:R205. -/
def rsuTreeLevel (k : Nat) : List RsuPart → List RsuPart
  | a :: b :: r => rsuMerge k a b :: rsuTreeLevel k r
  | l => l

/-- Nine levels over 512 lanes. -/
def rsuTree (k : Nat) (l : List RsuPart) : RsuPart :=
  ((List.range 9).foldl (fun x _ => rsuTreeLevel k x) l).headD .empty

def Core.slot (c : Core) (i : Nat) : RsuSlot := c.rsu.toList.getD i RsuSlot.init
def Core.setSlot (c : Core) (i : Nat) (x : RsuSlot) : Core := { c with rsu := c.rsu.setIfInBounds i x }

/-- Folding a word's elements into a slot with operation `op` and `k` (09:R205, R206). -/
def rsuFold (s : RsuSlot) (op k : Nat) (src : List SLane) (width : Nat) : RsuSlot :=
  let q := s.q.toNat
  let leaves := (List.range 512).map fun j =>
    let e := src.getD j ⟨0, false⟩
    if e.ok then rsuLeaf op e.v ((q + j) % 2 ^ 32) else RsuPart.empty
  let cnt := (src.filter (·.ok)).length
  { s with part := rsuMerge k s.part (rsuTree k leaves),
           n := BitVec.ofNat 32 (min 0xFFFFFFFF (s.n.toNat + cnt)),
           q := s.q + BitVec.ofNat 32 width }

/-- A statistic broadcast over the lanes [128g, 128g + n). -/
def rsuGroup (g n : Nat) (isInt : Bool) (v : Nat) (j : Nat) : Option Lane :=
  if 128 * g ≤ j && j < 128 * g + n then (let v := if isInt then v else canon32 v; some ⟨v, isInt, true, v⟩) else none

/-- The output lanes of a finalise (Table 9-4), empty rows as Table 9-3 gives them. -/
def rsuLanes (op k : Nat) (part : RsuPart) (n : Nat) : List Lane :=
  let cnt (j : Nat) : Option Lane := rsuGroup 3 128 true n j
  let f (j : Nat) : Option Lane :=
    match op with
    | 1 =>
      let s := match part with | .sum s => s | _ => 0
      rsuGroup 0 128 false s j
    | 2 =>
      match part with
      | .welford m u q =>
        (rsuGroup 0 128 false u j).orElse fun _ => (rsuGroup 1 128 false (fdiv q (floatOf m)) j).orElse fun _ =>
          rsuGroup 2 128 false q j
      | _ => (rsuGroup 0 384 false nan32 j)
    | 3 =>
      let (v, i) := match part with | .best v i => (v, i) | _ => (ninf32, 0xFFFFFFFF)
      (rsuGroup 0 128 false v j).orElse fun _ => rsuGroup 1 128 true i j
    | 4 =>
      let (m, s) := match part with | .norm m s => (m, s) | _ => (ninf32, 0)
      (rsuGroup 0 128 false m j).orElse fun _ => rsuGroup 1 128 false s j
    | _ =>
      let l := match part with | .topk l => l | _ => []
      if j < k then let v := canon32 (l.getD j (ninf32, 0xFFFFFFFF)).1
        some ⟨v, false, true, v⟩
      else if 128 ≤ j && j < 128 + k then
        let i := (l.getD (j - 128) (ninf32, 0xFFFFFFFF)).2
        some ⟨i, true, true, i⟩
      else none
  (List.range 512).map fun j => ((f j).orElse fun _ => cnt j).getD Lane.zero

/-- A fold word, RSUOP 0b001 to 0b101: a slot of another operation or k is first emptied (09:R205). -/
def rsuFoldWord (w : Word512) (src : List SLane) (c : Core) : Core × List CoreEv :=
  let i := rsuSlot w
  let op := rsuOp w
  let k := if op = 5 then rsuTopk w + 1 else 0
  let s := c.slot i
  let other := s.op.toNat ≠ op || s.k.toNat ≠ k
  let c := if other then c.clearBad (· == BadMark.rsu i) else c
  let s := if other then { RsuSlot.init with op := BitVec.ofNat 3 op, k := BitVec.ofNat 7 k } else s
  let s' := rsuFold s op k src (srcWidth (rsuSrc w))
  (c.setSlot i s', (if c.isBad (.rsu i) then [CoreEv.first 0x0707 6 0, .count 20 1] else []) ++
    (if src.any fun e => e.ok && isNan32 e.v then [CoreEv.first 0x0705 6 0] else []))

/-- Statistics of a slot whose parity fails are NaN (09:R211). -/
def poisonPart (op k : Nat) (p : RsuPart) : RsuPart :=
  match op, p with
  | 1, _ => .sum nan32
  | 2, .welford n _ _ => .welford n nan32 nan32
  | 2, _ => .welford 0 nan32 nan32
  | 3, .best _ i => .best nan32 i
  | 3, _ => .best nan32 0xFFFFFFFF
  | 4, _ => .norm nan32 nan32
  | _, .topk l => .topk ((List.range k).map fun i => (nan32, (l.getD i (0, 0xFFFFFFFF)).2))
  | _, _ => .topk (List.replicate k (nan32, 0xFFFFFFFF))

/-- A finalise word: folds its own elements, presents the statistics 8 steps later and empties the slot (09:R205, R209, R210). -/
def rsuFinaliseWord (w : Word512) (src : List SLane) (c : Core) : Core × Option Flight × List CoreEv :=
  let i := rsuSlot w
  let s := c.slot i
  if s.op = 0 then (c, none, [.cond 0x0706 6 0 0])
  else
    let bad := c.isBad (.rsu i)
    let op := s.op.toNat
    let k := s.k.toNat
    let t := rsuFold s op k src (srcWidth (rsuSrc w))
    let part := if bad then poisonPart op k t.part else t.part
    ((c.setSlot i { RsuSlot.init with op := s.op, k := s.k }).clearBad (· == BadMark.rsu i),
      some ⟨.rsu, 8, rsuLanes op k part t.n.toNat, 4, false, 0, false⟩,
      (if bad then [CoreEv.first 0x0707 6 0, .count 20 1] else []) ++
        (if src.any fun e => e.ok && isNan32 e.v then [CoreEv.first 0x0705 6 0] else []))

/-- The RSU part of a word. -/
def rsuWord (w : Word512) (rd : Reads) (p : Pres) (c : Core) : Core × Option Flight × List CoreEv :=
  if rsuOp w = 0 then (c, none, [])
  else
    let src := scSource (rsuSrc w) rd p
    if rsuOp w = 6 then rsuFinaliseWord w src c
    else let r := rsuFoldWord w src c; (r.1, none, r.2)

end Sys2Proof.Machine
end

