-- ==== Sys2Proof/Machine/CoreExec.lean ====
section
/-! DEFINITION. One core executing one control word: commits, reads, units, writes and counters (02:R37-R48, 03:R61, R80-R85, 05:R126). -/

namespace Sys2Proof.Machine

/-! ### Distances -/

/-- The latest-issued result of a unit that presents in this step (02:R46, R496). -/
def Core.presents (c : Core) (u : OutUnit) : Option Flight :=
  (c.flight.filter fun f => f.unit == u && f.left == 0).getLast?

/-- All presented outputs. -/
def Core.pres (c : Core) : Pres :=
  ⟨c.presents .chain, c.presents .vernier, c.presents .scan, c.presents .rsu, c.presents .drain, c.presents .status⟩

/-- A result enters its pipeline; an earlier-issued one that would present in the same step is discarded (02:R496), its predicate
write with it (log 89, DESIGN CHOICE). -/
def Core.launch (c : Core) (f : Option Flight) : Core :=
  match f with
  | none => c
  | some x => { c with flight := (c.flight.filter fun y => !(y.unit == x.unit && y.left == x.left)) ++ [x] }

/-- What becomes visible at the start of a step: scratchpad writes 6 steps old, accumulator updates 10 steps old,
carries 2 steps old, GSET 5 steps old (02 Table 2-2, 08:R190). -/
def Core.commit (c : Core) : Core :=
  let c1 : Core := { c with
    spad := (c.spadPend.filter fun (p : PendWrite) => decide (6 ≤ p.age)).foldl
      (fun (m : Memory) (p : PendWrite) => p.cells.foldl (fun (m : Memory) x => m.write x.1 x.2) m) c.spad
    spadPend := c.spadPend.filter fun (p : PendWrite) => decide (p.age < 6) }
  let due := c1.accPend.filter fun (u : AccUpd) => decide (10 ≤ u.age)
  let c2 : Core := { due.foldl accCommit c1 with accPend := c1.accPend.filter fun (u : AccUpd) => decide (u.age < 10) }
  let cs := c2.carryPend.filter fun (p : Nat × Word32) => decide (2 ≤ p.1)
  let c3 : Core := match cs.getLast? with
    | some p => Core.clearBad { c2 with carry := p.2, carryPend := c2.carryPend.filter fun (q : Nat × Word32) => decide (q.1 < 2) }
        (fun b => b == BadMark.carry)
    | none => c2
  match (c3.gsetPend.filter fun (p : Nat × Word64 × Word64) => p.1 == 0).getLast? with
  | some p => { c3 with
      genSeed := Vector.replicate 512 p.2.1
      genCtr := Vector.ofFn fun j => p.2.2 + BitVec.ofNat 64 j.val
      gsetPend := c3.gsetPend.filter fun (q : Nat × Word64 × Word64) => q.1 != 0 }
  | none => c3

/-- Predicate writes whose distance has passed: seen 5n + 1 steps after the word, 3 before the result presents (08:R185). -/
def Core.commitPred (c : Core) : Core :=
  match (c.flight.filter fun f => f.pset && f.left == 3).getLast? with
  | some f => { c with pred := predOf f }
  | none => c

/-- The end of a step: every distance shrinks by one and the step count advances (02:R38). -/
def Core.advance (c : Core) : Core :=
  { c with
    step := c.step + 1
    spadPend := c.spadPend.map fun p => { p with age := p.age + 1 }
    accPend := c.accPend.map fun u => { u with age := u.age + 1 }
    carryPend := c.carryPend.map fun p => (p.1 + 1, p.2)
    gsetPend := c.gsetPend.map fun p => (p.1 - 1, p.2)
    flight := (c.flight.filter fun f => f.left ≠ 0).map fun f => { f with left := f.left - 1 } }

/-! ### Accesses -/

/-- Unit address of an access: BASE, or BASE + STRIDE × iteration index (03:R80). -/
def agUnit (a : Nat) (iter : Nat → Nat) : Int :=
  if agLcen a then (agBase a : Int) + toSigned 16 (agStride a) * (iter (agLc a) : Int) else (agBase a : Int)

/-- Byte address of generator `g`'s access. -/
def agAddr (w : Word512) (g : Nat) (iter : Nat → Nat) : Nat := (64 * agUnit (agBits w g) iter).toNat

/-- Two byte ranges meet. -/
def overlaps (a n b m : Nat) : Bool := decide (0 < n) && decide (0 < m) && decide (a < b + m) && decide (b < a + n)

/-- The bytes generator `g` reads in this step. -/
def Core.agRead (c : Core) (w : Word512) (g : Nat) : Option (List Byte) :=
  if agReads w g then some (c.spad.readN (agAddr w g c.iter) (agBytes (agBits w g))) else none

def Core.reads (c : Core) (w : Word512) : Reads := ⟨c.agRead w 0, c.agRead w 1, c.agRead w 3⟩

/-- Hazards of one read (02:R48): early against a write, or meeting an unordered external write. -/
def Core.readHazards (c : Core) (w : Word512) (g : Nat) : List CoreEv :=
  if agReads w g then
    let a := agAddr w g c.iter
    let n := agBytes (agBits w g)
    let late := (c.spadPend.filter fun p => decide (p.age < 6) && p.cells.any fun x => decide (a ≤ x.1) && decide (x.1 < a + n)).map
      fun p => 6 - p.age
    (if late.isEmpty then [] else [.hazard 1 g a (late.foldl max 0)]) ++
      (if c.unord.any fun u => overlaps (128 * u.unit) 128 a n then [.hazard 2 g a 0] else [])
  else []

/-- Bytes that a writing generator stores from what its source presents (02:R46, 08:R181, 09:R199, 10:R216, 03:R74). -/
def storeCells (p : Pres) (wsrc addr n : Nat) : List Host.Cell :=
  let lanes (f : Flight) : List Host.Cell :=
    ((List.range f.lanes.length).zip f.lanes).flatMap fun x =>
      if x.2.valid && decide (f.osize * (x.1 + 1) ≤ n) then
        ((List.range f.osize).zip (leBytes f.osize x.2.out)).map fun b => (addr + f.osize * x.1 + b.1, b.2)
      else []
  let zeros (k : Nat) : List Host.Cell := (List.range (min k n)).map fun i => (addr + i, (0 : Byte))
  match wsrc with
  | 0 => (p.chain.map lanes).getD []
  | 1 => (p.vernier.map lanes).getD (zeros 1024)
  | 2 => (p.scan.map lanes).getD []
  | 3 => (p.rsu.map lanes).getD []
  | 4 => (p.drain.map lanes).getD (zeros 512)
  | _ =>
    match p.status with
    | some f => ((List.range n).zip (leBytes n f.status)).map fun b => (addr + b.1, b.2)
    | none => zeros n

/-- Guard slots that a write touches become Local (05 Table 5-6). -/
def localise (gs : List Guard) (cells : List Host.Cell) : List Guard :=
  gs.map fun g => if cells.any fun x => decide (g.base ≤ x.1) && decide (x.1 < g.base + g.size) then { g with st := .local_ } else g

/-- The write of generator `g`, if it writes. -/
def Core.agWrite (c : Core) (w : Word512) (p : Pres) (g : Nat) : Core :=
  if agWrites w g then
    let cells := storeCells p (agWsrc (agBits w g)) (agAddr w g c.iter) (agBytes (agBits w g))
    if cells.isEmpty then c
    else { c with spadPend := c.spadPend ++ [⟨0, cells⟩], guards := localise c.guards cells }
  else c

/-- The data of an external write at an address, if it covers it. -/
def extAt (addr : Nat) (data : List Byte) (x : Host.Cell) : Host.Cell :=
  if addr ≤ x.1 then (x.1, (data[x.1 - addr]?).getD x.2) else x

/-- An external write lands whole; a core write still pending under it was issued before it, so that what becomes visible there is the external
write (02:R53), and a read stays early against it (02:R48). Each unit counts as unordered, for hazards of KIND 0b10, from this landing until an acquire
that covers the write's origin (log 71, DESIGN CHOICE). -/
def Core.extWrite (c : Core) (addr : Nat) (data : List Byte) (org : Nat) : Core :=
  let n := data.length
  let us := ((List.range (n / 128 + 2)).map (· + addr / 128)).filter fun u => overlaps (128 * u) 128 addr n
  { c with
    spad := c.spad.writeN addr data
    spadPend := c.spadPend.map fun p => { p with cells := p.cells.map (extAt addr data) }
    unord := us.map (fun u => ⟨u, org, []⟩) ++ c.unord.filter fun e => !(e.org == org && us.contains e.unit) }

/-- A signal of origin `org` reaches semaphore `k`: it covers that origin's writes which have landed (02:R51, log 71, DESIGN CHOICE). -/
def Core.signalled (c : Core) (org k : Nat) : Core :=
  { c with unord := c.unord.map fun e => if e.org = org && !e.sems.contains k then { e with sems := k :: e.sems } else e }

/-- A wait on semaphore `k` is an acquire of what the signals to it cover (02:R51). -/
def Core.acquired (c : Core) (k : Nat) : Core := { c with unord := c.unord.filter fun e => !e.sems.contains k }

/-- A barrier orders the writes of its participants' dies (02:R52). -/
def Core.fenced (c : Core) (orgs : List Nat) : Core := { c with unord := c.unord.filter fun e => !orgs.contains e.org }

/-- The scratchpad with every write that a core has issued (20:R422). -/
def Core.landed (c : Core) : Memory := c.spadPend.foldl (fun m p => p.cells.foldl (fun (m : Memory) x => m.write x.1 x.2) m) c.spad

/-- A partial or unguarded external write: slots it touches become Local (05 Table 5-6). -/
def Core.extLocal (c : Core) (addr : Nat) (data : List Byte) (org : Nat) : Core :=
  let c := c.extWrite addr data org
  { c with guards := c.guards.map fun g => if overlaps g.base g.size addr data.length then { g with st := .local_ } else g }

/-- The first slot in state Verified is replaced when all 1,024 slots are in use (05:R126); `none` when there is none. -/
def guardRoom (gs : List Guard) : Option (List Guard) :=
  if gs.length < 1024 then some gs
  else if gs.any fun g => g.st == .verified then some (gs.eraseP fun g => g.st == .verified) else none

/-- A whole-tile delivery: its bytes land and a slot is registered; `false` says that no slot was free and the
delivering agent's own verification failed, so that nothing was written (05:R126). -/
def Core.deliverTile (c : Core) (addr fmt : Nat) (st : GuardSt) (data : List Byte) (org : Nat) : Core × Bool :=
  let n := tileStored fmt
  let gs := c.guards.filter fun g => !overlaps g.base g.size addr n
  match guardRoom gs with
  | some gs => ({ c.extWrite addr data org with guards := gs ++ [⟨addr, n, fmt, st⟩] }, true)
  | none =>
    if st == .verified || tileVerify fmt data then ({ c.extLocal addr data org with guards := gs }, true)
    else (c, false)

/-! ### The tile guard at a read (05:R126) -/

/-- Base and format of the guard slots in state Unverified that the word's reads touch. -/
def Core.guardHits (c : Core) (w : Word512) : List Guard :=
  c.guards.filter fun g => g.st == .unverified &&
    [0, 1, 3].any fun k => agReads w k && overlaps g.base g.size (agAddr w k c.iter) (agBytes (agBits w k))

/-- A tile verifies in the scratchpad as a read of this step sees it. -/
def Core.guardOk (c : Core) (g : Guard) : Bool := tileVerify g.fmt (c.spad.readN g.base g.size)

/-! ### Counters of the core (03:R61, R64, R65) -/

/-- The core's copy of the loop counters after a word that is not skipped. -/
def lcAfter (w : Word512) (lc start : Vector Word32 8) : Vector Word32 8 × Vector Word32 8 :=
  let lc1 := if cwClass w = 1 then
      lc.setIfInBounds (cwLc w) ((lc.toList.getD (cwLc w) 0) - 1) else lc
  if cwImmuse w = 1 then
    (lc1.setIfInBounds (cwLdlc w) (BitVec.ofNat 32 (cwImm w)), start.setIfInBounds (cwLdlc w) (BitVec.ofNat 32 (cwImm w)))
  else (lc1, start)

/-- The core is active under the word's mask (03:R82). -/
def coreActive (w : Word512) (i : Nat) : Bool := cwImmuse w != 2 || (cwImm w).testBit i

/-- What executing one word gives: the core, its flag-load word if it counts, and what it reports. -/
structure CoreOut where
  core : Core
  flag : Option Nat
  evs : List CoreEv
  deriving DecidableEq, Repr

/-- The value of a status read travels to its source (03:R74). -/
def statusFlight (w : Word512) (status : Nat) : Option Flight := if cwSrd w = 0 then none else some ⟨.status, 4, [], 8, false, status, false⟩

/-- Accesses of a word to banks of its core's scratchpad, one for each 128 bytes that an access meets (13:R273, 22 Table 22-1). -/
def Core.bankAccesses (c : Core) (w : Word512) : Nat :=
  ((List.range 4).filter fun g => agEn (agBits w g)).foldl (fun s g =>
    let a := agAddr w g c.iter
    s + ((a + agBytes (agBits w g) - 1) / 128 + 1 - a / 128)) 0

/-- A word executed in full by an active core (03:R62, 02:R37). -/
def Core.execFull (c : Core) (w : Word512) (status : Nat) : CoreOut :=
  let tiles := (c.guardHits w).length
  let banks := c.bankAccesses w
  let c := { c with guards := c.guards.map fun g =>
    if (c.guardHits w).contains g then { g with st := .verified } else g }
  let rd := c.reads w
  let p := c.pres
  let hz := c.readHazards w 0 ++ c.readHazards w 1 ++ c.readHazards w 3
  let m := mxWord w rd.a0 rd.a1 rd.a3 c
  let v := vfWord w rd p m.1
  let x := vxWord w rd p v.1
  let s := scanWord w rd p x.1
  let r := rsuWord w rd p s.1
  let c1 := (r.1.agWrite w p 2).agWrite w p 3
  let drain := m.2.1.map fun l => (⟨.drain, 4, l, 4, false, 0, false⟩ : Flight)
  let c2 := (((((c1.launch drain).launch v.2.1).launch x.2.1).launch s.2.1).launch r.2.1).launch (statusFlight w status)
  let c3 := if cwImmuse w = 3 then { c2 with vlen := BitVec.ofNat 17 (cwImm w), pos := 0 } else c2
  let lc := lcAfter w c3.lc c3.lcStart
  { core := ({ c3 with lc := lc.1, lcStart := lc.2 }).advance
    flag := if cwFlop w = 0 then none else some (leAt (rd.a0.getD []) 0 4)
    evs := hz ++ m.2.2 ++ v.2.2 ++ x.2.2 ++ s.2.2 ++ r.2.2 ++ [.count 80 banks, .count 82 tiles, .count 4 (min 1 tiles)] }

/-- A word on a predicated-off core: its SEQ and SYNC act, its status read among them, and its pipelines advance; nothing else (03:R82). -/
def Core.execOff (c : Core) (w : Word512) (status : Nat) : CoreOut :=
  let lc := lcAfter w c.lc c.lcStart
  { core := ({ c.launch (statusFlight w status) with lc := lc.1, lcStart := lc.2 }).advance, flag := none, evs := [] }

/-- A skipped word: a whole-step no-op (03:R85). -/
def Core.execSkip (c : Core) : CoreOut := { core := c.advance, flag := none, evs := [] }

/-- A matrix lane of accumulator row `r` holds a NaN. -/
def Core.rowNan (c : Core) (r : Nat) : Bool := (List.range 128).any fun l => isNan32 (smGet (0 : Word32) c.acc (128 * r + l)).toNat

/-- Updates that land in this step; with END, every update still under way (07:R169). -/
def Core.landing (c : Core) (last : Bool) : List AccUpd := c.accPend.filter fun u => last || decide (10 ≤ u.age)

/-- Landing updates that leave a NaN in their row (07:R174, 0x0603), and lanes that they add to and whose parity fails (07:R171). -/
def Core.accEvs (c : Core) (last : Bool) : List CoreEv :=
  let r := (c.landing last).foldl (fun (p : Core × Nat × Nat) u =>
    let d := accCommit p.1 u
    let bad := if u.add then (p.1.bad.filter fun m => match m with | .acc r _ => r == u.row | _ => false).length else 0
    (d, p.2.1 + b2n (d.rowNan u.row), p.2.2 + bad)) (c, 0, 0)
  (if r.2.1 = 0 then [] else [CoreEv.first 0x0603 0x03 0, .count 19 r.2.1]) ++ parityEvs (List.replicate r.2.2 5)

/-- What the VXE reports of a result as it presents it: a valid NaN, and a saturated element (08:R196). -/
def Core.chainEvs (c : Core) : List CoreEv :=
  match c.presents .chain with
  | none => []
  | some f =>
    (if f.lanes.any fun l => l.valid && !l.isInt && isNan32 l.v then [CoreEv.first 0x0701 4 0] else []) ++
      (if f.sat then [CoreEv.first 0x0703 4 0] else [])

/-- One word on core `i`; `none` when a tile that the word reads fails verification, so that the word is not
executed before its re-read (05:R127). -/
def Core.exec (k : Core) (i : Nat) (e : FifoEntry) : Option CoreOut :=
  let c := k.commit.commitPred
  let evs := k.accEvs (!e.skipped && cwClass e.w == 8) ++ c.chainEvs
  let out (o : CoreOut) : Option CoreOut := some { o with evs := evs ++ o.evs }
  if e.skipped then out c.execSkip
  else if !coreActive e.w i then out (c.execOff e.w e.status)
  else if (c.guardHits e.w).all c.guardOk then out (c.execFull e.w e.status)
  else none

end Sys2Proof.Machine
end

