-- ==== Sys2Proof/Machine/Faults.lean ====
section
/-! DEFINITION. Semaphores, agents at faults, progress and fault records, program stops and pre-emption of a context (03, 13, 14). -/

namespace Sys2Proof.Machine

/-! ### Semaphores (03:R69) -/

/-- A semaphore takes `n`; past 0xFFFF_FFFF it stays there, and the second part says so. -/
def semPlus (v : Word32) (n : Nat) : Word32 × Bool :=
  if v.toNat + n < 2 ^ 32 then (BitVec.ofNat 32 (v.toNat + n), false) else (BitVec.allOnes 32, true)

def DieCtx.sem (x : DieCtx) (k : Nat) : Word32 := vget x.sems k 0
def DieCtx.addSem (x : DieCtx) (k n : Nat) : DieCtx := { x with sems := vupd x.sems k fun v => (semPlus v n).1 }

/-- The part of context `num` that belongs to die `n` lies on the die. -/
def Hw.resident (h : Hw) (n : Nat) (num : BitVec 16) : Bool := (h.die n).owner == some num && (h.die n).phase != .saved

/-- The saved part of a context for a die. -/
def Hw.savedCx (h : Hw) (num : BitVec 16) (n : Nat) : Option DieCtx :=
  (h.ctx? num).bind fun c => (c.save.find? fun e => e.1 == n).map (·.2)

def Hw.updSaved (h : Hw) (num : BitVec 16) (n : Nat) (f : DieCtx → DieCtx) : Hw :=
  h.updCtx num fun c => { c with save := c.save.map fun e => if e.1 = n then (e.1, f e.2) else e }

/-- A semaphore of a die's part of a context takes a signal of origin `org`, which covers that origin's writes (02:R51). -/
def DieCtx.signalled (x : DieCtx) (k n org : Nat) : DieCtx :=
  let x := x.addSem k n
  { x with cores := x.cores.map fun c => c.signalled org k }

/-- A signal of `amount` to a semaphore of a context's die, or to its saved image (03:R69); `org` is where it comes from, as in `Unord`. -/
def Hw.semAdd (h : Hw) (num : BitVec 16) (n sem amount org : Nat) : Hw :=
  if h.resident n num then
    let sat := (semPlus ((h.cx n).sem sem) amount).2
    let h := h.updCx n fun x => x.signalled sem amount org
    if sat then h.raiseDie n 0x0306 0xFF 0x01 else h
  else match h.savedCx num n with
  | some x =>
    let h := h.updSaved num n fun x => x.signalled sem amount org
    if (semPlus (x.sem sem) amount).2 then h.raise ⟨0x0306, n, 0xFF, 0x01, 0, 0, some num⟩ else h
  | none => h

/-- A signal of a die's own agents to the context on it. -/
def Hw.semAddDie (h : Hw) (n sem amount : Nat) : Hw :=
  match (h.die n).owner with
  | some num => h.semAdd num n sem amount n
  | none => h

/-! ### Agents (14 Tables 14-4 and 14-6) -/

/-- What a progress record says of an agent. -/
structure AgentInfo where
  eng : Nat
  idx : Nat
  agent : Nat
  recaddr : Nat
  next : Nat
  pos : Nat
  deriving DecidableEq, Repr

def DieCtx.stream? (x : DieCtx) (k : Nat) : Option StreamSt := (x.streams.find? fun e => e.1 == k).map (·.2)
def DieCtx.slot (x : DieCtx) (i : Nat) : Word512 := alGet 0 x.slots i

/-- Address of the record in descriptor slot `i` of the save area. -/
def DieCtx.slotAddr (x : DieCtx) (i : Nat) : Nat := x.saveBase.toNat + 64 * i

/-- Ranks of the cores that a stream names, with how often each has triggered. -/
def StreamSt.byRank (s : StreamSt) : List (Nat × Nat) :=
  let cs := (List.range 32).filter fun c => natFld (stCmask s.rcd) c 1 = 1
  (List.range cs.length).zip (cs.map (alGet 0 s.trig))

/-- The base and the 7-bit offsets of the released-trigger counts of a fetch stream's served cores (15:R327). -/
def StreamSt.counts (s : StreamSt) (served : Nat → Bool) : Nat :=
  let l := (s.byRank.zip ((List.range 32).filter fun c => natFld (stCmask s.rcd) c 1 = 1)).filter fun e => served e.2
  let base := match l with
    | [] => 0
    | e :: r => minOf e.1.2 (r.map (·.1.2))
  put base 285 20 + (l.map fun e => if 7 * e.1.1 ≤ 217 then put (e.1.2 - base) (278 - 7 * e.1.1) 7 else 0).foldl (· + ·) 0

/-- AGENTSTATE of a stream or engine (15:R327), as bits [351:0]: stream, rank, item and piece. -/
def agentPos (stream rank item piece : Nat) : Nat := put stream 346 6 + put rank 341 5 + put item 321 20 + put piece 305 16

def xferPos (x : DieCtx) (healthy : BitVec 32) (t : Xfer) : Nat :=
  agentPos t.stream.val t.rank t.item t.next + (match x.stream? t.stream.val with
    | some s => if stMode s.rcd = 1 then s.counts (bit healthy ·) else 0
    | none => 0)

/-- A transfer whose destinations the multicast tree serves (15:R311, R325). -/
def Xfer.tree (x : Xfer) : Bool := tfDkind x.rcd == 2 || tfDkind x.rcd == 4

/-- The record of a transfer's agent: its fetch stream, or the engine of its issue stream (14 Table 14-4, 15:R327). -/
def xferInfo (x : DieCtx) (healthy : BitVec 32) (t : Xfer) : AgentInfo :=
  let st := x.stream? t.stream.val
  let fetch := (st.map fun s => stMode s.rcd == 1).getD false
  let slot := (st.map fun s => if fetch then s.slot.toNat else stTslot s.rcd).getD 0
  ⟨dmaEngine t.stream.val, if fetch then 8 + t.stream.val else t.stream.val % 8, if fetch then 2 else 1, x.slotAddr slot, t.next,
    xferPos x healthy t⟩

/-- A fault that the agent reported or waits to report, and has not got past. -/
def Stall.atFault (s : Stall) : Bool := match s with | .fault .. => true | .retry .. => true | _ => false

/-- The job of a GME whose stall is the cluster's: the one at a fault, else the first that does not run. -/
def Gme.stalled (g : Gme) : Option GJob :=
  match (g.bjobs ++ g.hjobs).find? fun j => j.stall.atFault with
  | some j => some j
  | none => (g.bjobs ++ g.hjobs).find? fun j => j.stall != .run

/-- Rank and item of a GME's or PUU's position: job or command `k` of its stream, piece `next` (15:R327). -/
def jobPos (x : DieCtx) (stream addr next : Nat) : Nat :=
  agentPos stream 0 (match x.stream? stream with | some s => (addr - stAddr s.rcd) / 64 | none => 0) next

def gmeInfo (x : DieCtx) (cl : Nat) (j : GJob) : AgentInfo := ⟨0x10 + cl, 75 + cl, 6, j.addr, j.next, jobPos x j.stream.val j.addr j.next⟩
def puuInfo (x : DieCtx) (cl : Nat) (c : PCmd) : AgentInfo := ⟨0x14 + cl, 79 + cl, 7, c.addr, c.next, jobPos x c.stream.val c.addr c.next⟩

/-- The agent as its progress record describes it. -/
def agentInfo (d : Die) (a : Agent) : AgentInfo :=
  let x := d.cx
  match a with
  | .xfer k => ((x.xfers.find? fun t => t.id == k).map (xferInfo x d.healthy)).getD ⟨0x20, 0, 1, 0, 0, 0⟩
  | .small k => ⟨0x28, 72, 3, ((x.smalls.find? fun t => t.id == k).map fun t => x.slotAddr t.slot).getD 0, 0, 0⟩
  | .loader =>
    let l := x.loads.find? fun l => l.started
    -- the manual names no record that a bank load runs (log 61, DESIGN CHOICE)
    ⟨0x09, 74, 5, (Config.loaderRecord x.imgBase.toNat ((l.map fun l => l.seg.toNat).getD 0)).toNat, (l.map fun l => l.next).getD 0, 0⟩
  | .gme cl =>
    let g := vget x.gmes cl.val Gme.init
    match g.stalled with
    | some j => gmeInfo x cl.val j
    | none => (((g.bjobs ++ g.hjobs).head?).map (gmeInfo x cl.val)).getD ⟨0x10 + cl.val, 75 + cl.val, 6, 0, 0, 0⟩
  | .puu cl =>
    match (vget x.puus cl.val Puu.init).queue.head? with
    | some c => puuInfo x cl.val c
    | none => ⟨0x14 + cl.val, 79 + cl.val, 7, 0, 0, 0⟩
  | _ => ⟨agentEngine a, 127, 0, 0, 0, 0⟩

/-- Every place where an agent's stall stands, mapped. -/
def DieCtx.mapStall (x : DieCtx) (a : Agent) (f : Stall → Stall) : DieCtx :=
  match a with
  | .xfer k => { x with xfers := x.xfers.map fun t => if t.id = k then { t with stall := f t.stall } else t }
  | .small k => { x with smalls := x.smalls.map fun t => if t.id = k then { t with stall := f t.stall } else t }
  | .loader => { x with loads := x.loads.map fun l => if l.started then { l with stall := f l.stall } else l }
  | .gme cl =>
    let g := fun (j : GJob) => if j.stall = .run || j.stall = .behind then j else { j with stall := f j.stall }
    { x with gmes := vupd x.gmes cl.val fun m => { m with bjobs := m.bjobs.map g, hjobs := m.hjobs.map g } }
  | .puu cl => { x with puus := vupd x.puus cl.val fun m => { m with queue := m.queue.map fun c =>
      if c.stall = .run then c else { c with stall := f c.stall } } }
  | _ => x

/-- The stall of an agent; `run` when it has none. -/
def DieCtx.stallOf (x : DieCtx) (a : Agent) : Stall :=
  match a with
  | .xfer k => ((x.xfers.find? fun t => t.id == k).map (·.stall)).getD .run
  | .small k => ((x.smalls.find? fun t => t.id == k).map (·.stall)).getD .run
  | .loader => ((x.loads.find? fun l => l.started).map (·.stall)).getD .run
  | .gme cl =>
    ((vget x.gmes cl.val Gme.init).stalled.map (·.stall)).getD .run
  | .puu cl => (((vget x.puus cl.val Puu.init).queue.find? fun c => c.stall != .run).map (·.stall)).getD .run
  | _ => .run

/-- Agents of a die that may be stalled. -/
def DieCtx.agents (x : DieCtx) : List Agent :=
  (x.xfers.filter fun t => !t.dropped).map (fun t => Agent.xfer t.id) ++ x.smalls.map (fun t => Agent.small t.id) ++ [Agent.loader] ++
    (List.finRange 4).map Agent.gme ++ (List.finRange 4).map Agent.puu

/-- A progress record (14 Table 14-6). -/
def progRecord (i : AgentInfo) (state fslot va : Nat) : Word512 :=
  BitVec.ofNat 512 (put i.eng 504 8 + put 0xFF 496 8 + put i.agent 492 4 + put state 488 4 + put fslot 480 8 +
    put i.recaddr 432 48 + put i.next 400 32 + put va 352 48 + put i.pos 0 352)

/-- Byte offset of the save area of the context on die `n` in its local stack. -/
def Hw.saveAt (h : Hw) (n : Nat) : Nat := 65536 * (h.cx n).saveOff.toNat

/-- Bytes written straight into the save area; a burst is always whole here. -/
def Hw.saveWrite (h : Hw) (n off : Nat) (data : List Byte) : Hw :=
  h.updStk n fun k => k.store (h.saveAt n + off) data

/-- The agent writes its progress record (14:R299). -/
def Hw.writeProgress (h : Hw) (n : Nat) (i : AgentInfo) (state fslot va : Nat) : Hw :=
  h.saveWrite n (0x42000 + 64 * i.idx) (entryBytes (progRecord i state fslot va))

/-! ### Fault slots and fault records (14:R300, Table 14-5) -/

/-- A fault record, but for its sequence number and hub time. -/
def faultRecord (kind access die eng slot level va saveBase prog : Nat) (waited folded : Bool) (seq hub : Word64) : Word512 :=
  BitVec.ofNat 512 (put kind 504 8 + put access 496 8 + put die 488 8 + put 0xFF 480 8 + put eng 472 8 + put slot 464 8 +
    put level 456 8 + put (b2n waited) 449 1 + put (b2n folded) 448 1 + put va 400 48 + put saveBase 352 48 + put prog 344 8 +
    put seq.toNat 256 64 + put hub.toNat 192 64)

/-- A condition reported once in a launch of a context (14 Tables 14-11). -/
def Hw.raiseLaunch (h : Hw) (n code eng : Nat) : Hw :=
  match (h.die n).owner.bind h.ctx? with
  | some c =>
    if c.raised.contains code then h
    else (h.updCtx c.num fun c => { c with raised := code :: c.raised }).raiseDie n code 0xFF eng
  | none => h

/-- The record goes to the fault ring, or waits; the first of a launch to wait for room raises 0x0C07. -/
def Hw.pushFault (h : Hw) (n : Nat) (e : Word512) : Hw :=
  let full := (h.ring 129).st == .running && (h.ring 129).full
  let h := h.hostEv fun x => x.stamp.push 129 ⟨e, true, none⟩
  if full then h.raiseLaunch n 0x0C07 0x18 else h

/-- The lowest free fault slot of a die. -/
def DieCtx.freeSlot (x : DieCtx) : Option (Fin 64) := (List.finRange 64).find? fun k => !x.fslots.contains k

/-- An agent of this record has a fault outstanding. -/
def Die.faultAt (d : Die) (idx : Nat) : Bool := d.cx.agents.any fun a => (d.cx.stallOf a).atFault && (agentInfo d a).idx == idx

/-- The fault record of a slot, written for the first time or again, and its agent's stall. -/
def Hw.fileFault (h : Hw) (n : Nat) (i : AgentInfo) (va kind level access : Nat) (k : Fin 64) (waited : Bool) : Stall × Hw :=
  let h := h.writeProgress n i 2 k.val va
  let folded := (h.die n).phase == .draining
  let e := faultRecord kind access n i.eng k.val level va (h.cx n).saveBase.toNat i.idx waited folded h.host.seq h.host.stamp.hubTime
  let h := h.updCx n fun x => { x with frecs := alPut x.frecs k.val e }
  (.fault va kind level access (some k), h.pushFault n e)

/-- An agent at a fault takes a slot and writes its fault record, or waits for one; `old` is how it stood: an item of an agent that has a fault
outstanding waits behind it, a retry that faults again keeps its slot or goes on waiting (14:R300, R301). -/
def Hw.takeFault (h : Hw) (n : Nat) (a : Agent) (i : AgentInfo) (old : Stall) (va kind level access : Nat) : Stall × Hw :=
  let h := h.count (ctrDie n 147) 1 .program 7 (srcBytes n 0xFF 0x18) (some va)
  match old with
  | .retry _ _ _ _ (some k) => h.fileFault n i va kind level access k false
  | .retry _ _ _ _ none => (.fault va kind level access none, h.writeProgress n i 2 0xFF va)
  | _ =>
    if (h.die n).faultAt i.idx then (.behind, h)
    else match (h.cx n).freeSlot with
    | some k => (h.updCx n fun x => { x with fslots := x.fslots ++ [k] }).fileFault n i va kind level access k false
    | none =>
      let h := h.writeProgress n i 2 0xFF va
      let h := h.updCx n fun x => { x with waitq := x.waitq ++ [a] }
      (.fault va kind level access none, h.raiseLaunch n 0x0C02 0x18)

/-- A retry has found its page: the slot is free again, or the agent waits for none, and its record has STATE 0x1 (14:R300, R301). -/
def Hw.faultPast (h : Hw) (n : Nat) (a : Agent) (i : AgentInfo) (old : Stall) : Hw :=
  match old with
  | .retry _ _ _ _ slot =>
    (h.writeProgress n i 1 0xFF 0).updCx n fun x => { x with
      fslots := (match slot with | some k => x.fslots.erase k | none => x.fslots)
      frecs := (match slot with | some k => x.frecs.filter fun e => e.1 != k.val | none => x.frecs)
      waitq := x.waitq.erase a }
  | _ => h

/-- The tiles whose re-reads have verified, which a granule takes instead of reading them again. -/
def Stall.rereadsOf (s : Stall) : List Reread :=
  match s with
  | .passed l => l
  | .tile _ _ _ l => l
  | _ => []

/-- An agent that stood as `old` stops before a granule: the stall it is in, and what that does (14:R299, 13:R284, 05:R127). -/
def Hw.stopAgent (h : Hw) (n : Nat) (a : Agent) (i : AgentInfo) (old : Stall) (s : Stop) : Stall × Hw :=
  match s with
  | .fault va k l acc => h.takeFault n a i old va k l acc
  | .burst st b => (.burst st b, h.faultPast n a i old)
  | .tile k t f => (.tile k t f old.rereadsOf, h.faultPast n a i old)
  | .wait => (old, h)

/-- The fault record of a slot still waits for room in the fault ring (14:R300). -/
def Hw.atHub (h : Hw) (n : Nat) (k : Fin 64) : Bool :=
  match ((h.cx n).frecs.find? fun e => e.1 == k.val).map (·.2) with
  | some e => (h.ring 129).held.any fun x => x.entry == e
  | none => false

/-- An agent that stands as `s` may perform its granule: a retry once its fault record has been written, an item behind another's fault once that
has ended. -/
def Hw.mayRun (h : Hw) (n idx : Nat) (s : Stall) : Bool :=
  match s with
  | .run => true
  | .passed _ => true
  | .retry _ _ _ _ slot => !(slot.any (h.atHub n))
  | .behind => !(h.die n).faultAt idx
  | _ => false

/-! ### Pre-emption of a context (14:R303, 04:R106) -/

/-- A program stops on a die: the condition is raised, the die's other words are never issued, the context's other dies
are pre-empted at once and the context is to complete with status 0x3 (04:R106). -/
def Hw.stopProgram (h : Hw) (n code : Nat) : Hw :=
  let seq := h.host.seq
  let own := (h.die n).owner
  let h := h.raiseDie n code 0xFF 0x01
  let h := h.updCx n fun x => { x with
    stop := BitVec.ofNat 16 code, stopSeq := seq, helm := { x.helm with st := .stopped, held := none } }
  match own with
  | some num =>
    let h := h.updCtx num fun c =>
      let c := c.endWith 3
      -- the first stopping condition; what stopped a core or an agent for good is none (04:R106)
      if [0x0302, 0x0303, 0x0405, 0x0407].contains c.stopCode.toNat then c else { c with stopCode := BitVec.ofNat 16 code, stopSeq := seq }
    h.preemptCtx num
  | none => h

/-- A core cannot execute a word: the die stops at a split boundary, the context is pre-empted with status 0x4, and the
completion carries the first code (03:R60, R76, 05:R127). -/
def Hw.splitStop (h : Hw) (n code : Nat) (seq : Word64) : Hw :=
  match (h.die n).owner with
  | some num =>
    let h := h.updCtx num fun c => if c.stopCode = 0 then { c with stopCode := BitVec.ofNat 16 code, stopSeq := seq } else c
    h.preemptCtx num
  | none => h

/-- An agent fails for good at a burst or tile: STATE 0x4, and the context is pre-empted (13 Table 13-4, 05:R127). -/
def Hw.failAgent (h : Hw) (n : Nat) (a : Agent) : Hw :=
  let i := agentInfo (h.die n) a
  let h := h.writeProgress n i 4 0xFF 0
  (h.updCx n fun x => x.mapStall a fun _ => .failed).preemptOf n

/-- A stalled agent that may go on with its granule. -/
def Stall.ready (s : Stall) : Bool := match s with | .run => true | .passed _ => true | _ => false
end Sys2Proof.Machine
end

