-- ==== Sys2Proof/Machine/LinkBase.lean ====
section
/-! DEFINITION. Flits, home links and sending (16:R331-R336, R339). -/

namespace Sys2Proof.Machine

/-! ### Flit fields (16 Table 16-1) -/

def flClass (f : Flit) : Nat := fld f.header 127 124
def flChan (f : Flit) : Nat := fld f.header 123 118
def flDst (f : Flit) : BitVec 16 := BitVec.ofNat 16 (fld f.header 117 102)
def flSrc (f : Flit) : BitVec 16 := BitVec.ofNat 16 (fld f.header 101 86)
def flViaen (f : Flit) : Bool := bit f.header 85
def flOrder (f : Flit) : Bool := bit f.header 84
def flVia (f : Flit) : BitVec 16 := BitVec.ofNat 16 (fld f.header 83 68)
def flDie (f : Flit) : Nat := fld f.header 67 60
def flCore (f : Flit) : Nat := fld f.header 59 55
def flOp (f : Flit) : Nat := fld f.header 54 51
def flLen (f : Flit) : Nat := fld f.header 50 43
def flAddr (f : Flit) : Nat := fld f.header 42 0
def flCrc (f : Flit) : Nat := fld f.trailer 127 96
def flSeq (f : Flit) : BitVec 12 := BitVec.ofNat 12 (fld f.trailer 95 84)
def flAckseq (f : Flit) : BitVec 12 := BitVec.ofNat 12 (fld f.trailer 83 72)
def flNak (f : Flit) : Bool := bit f.trailer 71
def flCredit (f : Flit) : Nat := fld f.trailer 63 0
def flAckv (f : Flit) : Bool := bit f.trailer 70

/-- A flit header. -/
def flitHeader (cls chan : Nat) (dst src : BitVec 16) (die core op len addr : Nat) : BitVec 128 :=
  BitVec.ofNat 128 (put cls 124 4 + put chan 118 6 + put dst.toNat 102 16 + put src.toNat 86 16 + put die 60 8 +
    put core 55 5 + put op 51 4 + put len 43 8 + put addr 0 43)

/-- Bytes 0 to 251 of a flit, which its CRC covers (16 Table 16-1). -/
def flitBody (f : Flit) : List Byte :=
  leBytes 16 f.header.toNat ++ bytesAt f.payload 0 224 ++ leBytes 12 (f.trailer.toNat % 2 ^ 96)

/-- The CRC field for a flit. -/
def flitCrc (f : Flit) : Nat := crc32c (flitBody f)

/-! ### Ports -/

/-- Replay buffer of a link direction: at most 2,047 unacknowledged flits (16:R332). -/
def replayMax : Nat := 2047

/-- A flit with its trailer and CRC. -/
def sealFlit (f : Flit) (t : Nat) : Flit :=
  let g : Flit := { f with trailer := BitVec.ofNat 128 t }
  { g with trailer := BitVec.ofNat 128 (t + put (flitCrc g) 96 32) }

/-- The acknowledgement, NAK and credits that a trailer carries (16 Table 16-1): a credit for every ordered channel with a buffer to return. -/
def Port.ackPart (p : Port) (nak : Bool) : Nat :=
  put (p.rxNext - 1).toNat 72 12 + put (b2n nak) 71 1 + put 1 70 1 +
    (List.range 64).foldl (fun a c => if 0 < alGet 0 p.due c then a + 2 ^ c else a) 0

/-- The credits that the trailer carried are returned. -/
def Port.paid (p : Port) : Port := { p with due := (p.due.map fun e => (e.1, e.2 - 1)).filter fun e => e.2 ≠ 0 }

/-- An idle flit leaves, with nothing but acknowledgement and credits (16:R331, R332); its other fields are zero. -/
def Port.sendIdle (p : Port) (nak : Bool) : Port :=
  { p.paid with idle := some (sealFlit ⟨flitHeader 4 0 0 0 0 0 0 0 0, [], 0⟩ (p.ackPart nak)) }

/-- A flit leaves with the next sequence number, the reverse direction's acknowledgement and credits, and its CRC; an ordered flit takes a receive
buffer at the neighbour. -/
def Port.transmit (p : Port) (f : Flit) : Port :=
  let g := sealFlit f (put p.txSeq.toNat 84 12 + p.ackPart false)
  { p.paid with
    txSeq := p.txSeq + 1, replay := p.replay ++ [g], reps := p.reps ++ [0]
    used := if flClass f = 0 then alPut p.used (flChan f) (alGet 0 p.used (flChan f) + 1) else p.used }

/-- The port may send a new flit now. -/
def Port.canSend (p : Port) : Bool := p.st == .up && decide (p.replay.length < replayMax)

/-- Flits of one ordered channel. -/
def sameOrdered (f g : Flit) : Bool := flClass f == 0 && flClass g == 0 && flChan f == flChan g

/-- A waiting flit may leave: an ordered one needs a credit and no flit of its channel before it, so that a channel without credits holds back only its
own flits (16:R333). -/
def Port.mayGo (p : Port) (f : Flit) : Bool :=
  p.canSend && (flClass f != 0 || (decide (alGet 0 p.used (flChan f) < p.rxBufs) && !p.waiting.any (sameOrdered f)))

def Port.pumpGo : List Flit → Port → Port
  | [], p => p
  | f :: r, p => Port.pumpGo r (if p.mayGo f then p.transmit f else { p with waiting := p.waiting ++ [f] })

/-- Waiting flits leave in order while there is room. -/
def Port.pump (l : List Flit) (p : Port) : Port := Port.pumpGo l { p with waiting := [] }

/-- The channels that a CREDIT field names have one buffer more at the neighbour (16 Table 16-1). -/
def Port.credited (p : Port) (w : Nat) : Port :=
  let q := { p with used := (p.used.map fun e => (e.1, e.2 - natFld w e.1 1)).filter fun e => e.2 ≠ 0 }
  if q.used == p.used then p else Port.pump q.waiting q

/-- An ordered flit takes a receive buffer of its channel (16:R333). -/
def Port.taken (p : Port) (c : Nat) : Port := { p with rxHeld := alPut p.rxHeld c (alGet 0 p.rxHeld c + 1) }

/-- What a channel's receive buffers hold has been taken out of them: their credits are due, and an idle flit returns the first at once. -/
def Port.drained (p : Port) (c : Nat) : Port :=
  let k := alGet 0 p.rxHeld c
  if k = 0 then p
  else { p with rxHeld := p.rxHeld.filter fun e => e.1 != c, due := alPut p.due c (alGet 0 p.due c + k) }.sendIdle false

/-- A flit is queued on a port; a queued flit wakes a sleeping link (16 Table 16-7). -/
def Port.queue (p : Port) (f : Flit) : Port :=
  let p := if p.st = .sleep then { p with st := .up } else p
  Port.pump (p.waiting ++ [f]) { p with quiet := false }

def Hw.sendOn (h : Hw) (l : Nat) (f : Flit) : Hw :=
  (h.updPort l fun p => p.queue f).count (ctrLink l (flClass f % 4)) 1 .program (248 - 240 + flClass f % 4)
    (srcBytes (96 + l / 16) 0xFF (0x50 + l % 16))

/-- Links configured for a direction, ascending (16:R334). -/
def Links.ofDir (x : Links) (d : Nat) : List Nat :=
  (List.range 48).filter fun l => (vget x.ports l (Port.init l)).dirNow.toNat == d

/-- A link that carries traffic: Up, or asleep and woken by it; a spare module's ports carry management flits only (16:R346). -/
def Links.live (x : Links) (l : Nat) : Bool :=
  let p := vget x.ports l (Port.init l)
  (p.st == .up || p.st == .sleep) && !x.spare

/-- Up links of a direction, ascending. -/
def Links.upOf (x : Links) (d : Nat) : List Nat := (x.ofDir d).filter x.live

/-- A link in service that still holds flits of ordered channel `c`: one link carries a channel at a time, so its order keeps it there until they are
acknowledged (16:R334, R344, log 22, DEDUCED). -/
def Port.keeps (p : Port) (c : Nat) : Bool :=
  (p.st == .recovering || p.st == .up || p.st == .sleep) && (p.replay ++ p.waiting).any fun f => flClass f == 0 && flChan f == c

/-- The carrier of channel `c` in direction `d`: its home link, or the next Up link in cyclic order (16:R334);
with none Up its flits wait for a link in Recovering. -/
def Links.carrier (x : Links) (d c : Nat) : Option Nat :=
  let ls := x.ofDir d
  if ls.isEmpty then none
  else
    let i := c % ls.length
    let cyc := ls.drop i ++ ls.take i
    match cyc.find? fun l => (vget x.ports l (Port.init l)).keeps c with
    | some l => some l
    | none => match cyc.find? x.live with
      | some l => some l
      | none => cyc.find? fun l => (vget x.ports l (Port.init l)).st == .recovering

/-- A direction has a link that is Up, asleep or recovering. -/
def Links.alive (x : Links) (d : Nat) : Bool :=
  (x.ofDir d).any fun l => x.live l || (vget x.ports l (Port.init l)).st == .recovering

/-- The position stepped once in a direction (16:R337). -/
def stepPos (p : BitVec 16) (d : Nat) : BitVec 16 :=
  let sh := 4 * (d / 2)
  let c := natFld p.toNat sh 4
  setFld p (sh + 3) sh (if d % 2 = 0 then (c + 1) % 16 else (c + 15) % 16)

/-- Channel `c` of direction `d` (0 X+, 1 X−) in LD_CHBIND. -/
def chIndex (d c : Nat) : Nat := 64 * d + c

def Hw.updChb (h : Hw) (k : Nat) (f : ChBind → ChBind) : Hw := h.onLinks fun x => { x with chb := vupd x.chb k f }
def Hw.chb (h : Hw) (k : Nat) : ChBind := vget h.links.chb k ChBind.init

/-- The direction that a ring store or remote signal names by its link 0-15. -/
def Hw.linkDir (h : Hw) (l : Nat) : Nat := (h.port l).dirNow.toNat

/-- The neighbour acknowledges a flit of a channel: what waited for it is owed no more. -/
def ChBind.ackOne (b : ChBind) : ChBind :=
  if 0 < b.stale then { b with stale := b.stale - 1 }
  else { b with acked := b.acked + 1, owed := b.owed.filter fun o => decide (b.acked + 1 < o.upto) }

/-- The neighbour has acknowledged this many flits of a channel; a channel that is abandoned owes nothing (15:R323, R324). -/
def Hw.ackedUpTo (h : Hw) (a : Option (Nat × Nat)) : Bool :=
  match a with
  | none => true
  | some x => decide (x.2 ≤ (h.chb x.1).acked)

/-- Flits of an ordered channel that a port holds. -/
def Port.unacked (p : Port) (k : Nat) : Nat :=
  if p.dirNow.toNat = k / 64 then (p.replay.filter fun f => flClass f == 0 && flChan f == k % 64).length else 0

/-- Abandonment of a channel: its flits not applied are discarded, the bit is set, the far end is told and 0x0E07 is
raised (16:R336); every ring store and signal that has not been applied in full is reported at its die and counts as complete (15:R324, 03:R70). A channel
abandoned already stays so. -/
def Hw.abandon (h : Hw) (k : Nat) : Hw :=
  if (h.chb k).abandoned then h
  else
    let owed := (h.chb k).owed
    let stale := (h.links.ports.toList.map fun p => p.unacked k).foldl (· + ·) 0
    let h := h.onLinks fun x => { x with
      chb := vupd x.chb k fun b => { b with abandoned := true, opened := false, acked := b.sent, stale := stale, owed := [] }
      ports := x.ports.map fun p =>
        if p.dirNow.toNat = k / 64 then
          { p with waiting := p.waiting.filter fun f => !(flClass f == 0 && flChan f == k % 64) }.drained (k % 64)
        else p
      notices := x.notices ++ [k] }
    owed.foldl (fun h o => h.raiseDie o.die o.code 0xFF o.eng) (h.raiseHub 0x0E07 0x64 (k / 64) (k % 64))

/-- The receive buffers of an ordered channel are emptied (16:R333). -/
def Hw.drainChan (h : Hw) (k : Nat) : Hw :=
  h.onLinks fun x => { x with ports := x.ports.map fun p => if p.dirNow.toNat = k / 64 then p.drained (k % 64) else p }

/-- The channel takes flits of the context. -/
def Hw.chanOpen (h : Hw) (k : Nat) (ctx : BitVec 16) : Bool :=
  let b := h.chb k
  b.opened && b.ctx == ctx

/-- Flits on an ordered channel of direction `d` (0 X+, 1 X−), in order, for what `w` says of them; false when the channel is abandoned or becomes
so because this end is not bound to the context or no link of the direction is Up (16:R335, R336), and then the loss is reported. -/
def Hw.sendOrdered (h : Hw) (d c : Nat) (ctx : BitVec 16) (fs : List Flit) (w : Owed) : Hw × Bool :=
  let k := chIndex d c
  let lost (h : Hw) : Hw × Bool := (h.raiseDie w.die w.code 0xFF w.eng, false)
  if 1 < d then lost h
  else if h.chanOpen k ctx then
    match h.links.carrier d c with
    | some l =>
      let h := h.updChb k fun b => { b with
        sent := b.sent + fs.length
        owed := (b.owed.filter fun o => !(o.die == w.die && o.eng == w.eng && o.id == w.id)) ++ [{ w with upto := b.sent + fs.length }] }
      (fs.foldl (fun h f => h.sendOn l f) h, true)
    | none => lost (h.abandon k)
  else lost (h.abandon k)

/-- An ordered flit to the ring neighbour in direction `d`. -/
def Hw.orderedFlit (h : Hw) (d c die core op addr : Nat) (data : List Byte) : Flit :=
  ⟨flitHeader 0 c (stepPos h.links.lpos d) h.links.lpos die core op data.length addr, data, 0⟩

/-- Bytes cut into payloads of at most 224. -/
def cutPayload : Nat → List Byte → List (List Byte)
  | 0, _ => []
  | fuel + 1, l => if l.isEmpty then [] else l.take 224 :: cutPayload fuel (l.drop 224)

/-- Pieces of a ring store: bytes with OP 0x1, the last piece of a tile with OP 0x2 (16 Table 16-1). -/
def Hw.storeFlits (h : Hw) (d c die core addr : Nat) (tile : Bool) (data : List Byte) : List Flit :=
  let ps := cutPayload (data.length / 224 + 1) data
  (List.range ps.length).zip ps |>.map fun x =>
    h.orderedFlit d c die core (if tile && x.1 + 1 == ps.length then 2 else 1) (addr + 224 * x.1) x.2

end Sys2Proof.Machine
end

