-- ==== Sys2Proof/Machine/LinkRoute.lean ====
section
/-! DEFINITION. Routing of bulk and reduction flits, route overrides, and flits held for a lost direction (16:R339, R340, R345). -/

namespace Sys2Proof.Machine

/-! ### Route overrides (16 Table 16-6) -/

def ovValid (e : Word64) : Bool := bit e 63
def ovOut (e : Word64) : Nat := fld e 62 59
def ovOrder (e : Word64) : Nat := fld e 58 58
def ovCls (e : Word64) (k : Nat) : Bool := bit e (52 + k)
def ovVia (e : Word64) : Nat := fld e 51 36
def ovMatch (e : Word64) : Nat := fld e 31 16
def ovMask (e : Word64) : Nat := fld e 15 0

/-- The lowest entry that matches a flit; an entry with a reserved OUT is not used. -/
def Links.override (x : Links) (f : Flit) : Option Word64 :=
  x.ovr.toList.find? fun e => ovValid e && ovCls e (flClass f) && ((flDst f).toNat ^^^ ovMatch e) &&& ovMask e == 0 &&
    (decide (ovOut e ≤ 0xA) || ovOut e == 0xE)

/-- Where a flit goes next: delivered here, in a direction, or on one of the spare ports. -/
inductive Hop where
  | deliver
  | dir (d : Nat)
  | spare (ls : List Nat)
  deriving DecidableEq, Repr

/-- The first dimension of an order in which the target differs, as a direction. -/
def firstDir (own target : Nat) : List Nat → Option Nat
  | [] => none
  | d :: r =>
    let delta := (natFld target (4 * d) 4 + 16 - natFld own (4 * d) 4) % 16
    if delta = 0 then firstDir own target r else some (if delta ≤ 8 then 2 * d else 2 * d + 1)

def setVia (f : Flit) (en order via : Nat) : Flit :=
  { f with header := setFld (setFld (setFld f.header 85 85 en) 84 84 order) 83 68 via }

/-- The hop of a flit that no override sends straight to a port (16:R339). -/
def Links.dirHop (x : Links) (f : Flit) : Hop × Flit :=
  let f := if flViaen f && flVia f == x.lpos then { f with header := setFld f.header 85 85 0 } else f
  let target := if flViaen f then flVia f else flDst f
  let order := if flViaen f || !flOrder f then [0, 1, 2, 3] else [3, 2, 1, 0]
  match firstDir x.lpos.toNat target.toNat order with
  | some d => (.dir d, f)
  | none => (.deliver, f)

/-- The hop of a flit at this module. -/
def Links.hop (x : Links) (f : Flit) : Hop × Flit :=
  if flDst f == x.lpos && !flViaen f then (.deliver, f)
  else
    match (if flViaen f then none else x.override f) with
    | none => x.dirHop f
    | some e =>
      let o := ovOut e
      if o = 0xE then x.dirHop (setVia f 1 (ovOrder e) (ovVia e))
      else if o = 8 then (.spare [46], f)
      else if o = 9 then (.spare [47], f)
      else if o = 0xA then (.spare [46, 47], f)
      else (.dir o, f)

/-- The link of a flow among those that carry traffic. -/
def flowLink (f : Flit) (ls : List Nat) : Option Nat :=
  if ls.isEmpty then none
  else ls[Config.flowHash (flSrc f).toNat (flDst f).toNat (64 * flClass f + flChan f) ls.length % ls.length]?

/-- A flit for a lost direction: bulk in W is dropped at once, everything else is held (16:R345, 17:R367). -/
def Hw.holdFlit (h : Hw) (d : Nat) (f : Flit) : Hw :=
  if flClass f = 2 && (d = 6 || d = 7) then h.raiseHub 0x0E08 0x64
  else h.onLinks fun x => { x with bulkHeld := x.bulkHeld ++ [(d, f)] }

/-- A flit leaves on a link of a set, or is held for direction `d`. -/
def Hw.sendAmong (h : Hw) (ls : List Nat) (d : Nat) (f : Flit) : Hw :=
  match flowLink f (ls.filter h.links.live) with
  | some l => h.sendOn l f
  | none =>
    if ls.any fun l => (h.port l).st == .recovering then h.onLinks fun x => { x with bulkHeld := x.bulkHeld ++ [(d, f)] }
    else h.holdFlit d f

/-- A bulk or reduction flit goes one hop; what is for this module is delivered by the command that brings it. -/
def Hw.routeFlit (h : Hw) (f : Flit) : Hw :=
  match h.links.hop f with
  | (.deliver, _) => if flClass f = 2 then h.onLinks fun x => { x with delivered := x.delivered ++ [f] } else h
  | (.dir d, f) => h.sendAmong (h.links.ofDir d) d f
  | (.spare ls, f) => h.sendAmong ls 8 f

/-- Held flits are tried again, in order: an override or a recovered link may give them a path (16:R345, 17:R367). -/
def Hw.retryFlits (h : Hw) : Hw :=
  let l := h.links.bulkHeld
  let h := h.onLinks fun x => { x with bulkHeld := [] }
  l.foldl (fun h e => h.routeFlit e.2) h

/-! ### Conditions of links -/

/-- A condition of link `l`'s port. -/
def Hw.raiseLink (h : Hw) (l code : Nat) (arg0 arg1 : Nat := 0) : Hw :=
  h.raise ⟨code, 96 + l / 16, 0xFF, 0x50 + l % 16, arg0, arg1, none⟩

/-! ### Traffic of a link that has gone (16:R345) -/

/-- What a link had not delivered leaves on the carriers of its direction, in order. -/
def Hw.resend (h : Hw) (d : Nat) (f : Flit) : Hw :=
  match flClass f with
  | 0 =>
    if (h.chb (chIndex d (flChan f))).abandoned then h
    else match h.links.carrier d (flChan f) with
      | some l => h.sendOn l f
      | none => h
  | 1 => h.sendAmong (if d = 8 then [46, 47] else h.links.ofDir d) d f
  | 2 => h.sendAmong (if d = 8 then [46, 47] else h.links.ofDir d) d f
  | _ => h

/-- Every open ordered channel of a direction is abandoned. -/
def Hw.abandonDir (h : Hw) (d : Nat) : Hw :=
  if 1 < d then h
  else (List.range 64).foldl (fun h c => if (h.chb (chIndex d c)).opened then h.abandon (chIndex d c) else h) h

/-- Link `l`, which was carrying traffic, leaves service: its flits move; a direction with no link left is lost. -/
def Hw.leaveService (h : Hw) (l : Nat) (st : PortSt) : Hw :=
  let p := h.port l
  let d := p.dirNow.toNat
  let was := p.st == .up || p.st == .sleep || p.st == .recovering
  let fs := p.replay ++ p.waiting
  let h := h.updPort l fun p => { p with
    st := st, replay := [], reps := [], waiting := [], nakSent := false, suspect := none, quiet := false, used := [], rxHeld := [], due := [] }
  if !was then h
  else
    let lost := d < 8 && !h.links.alive d
    let h := if lost then (h.raiseHub 0x0E04 0x64).abandonDir d else h
    fs.foldl (fun h f => h.resend d f) h

end Sys2Proof.Machine
end

