-- ==== Sys2Proof/Machine/Reduce.lean ====
section
/-! DEFINITION. Exact reductions: conversion, schedule, segments, completion and aborts (17). -/

namespace Sys2Proof.Machine

/-! ### Group records (17 Table 17-2) -/

def grValid (x : Word512) : Bool := bit x 511
def grMode (x : Word512) : Nat := fld x 510 509
def grWide (x : Word512) : Bool := bit x 508
def grChan (x : Word512) : Nat := fld x 507 502
def grCtx (x : Word512) : BitVec 16 := BitVec.ofNat 16 (fld x 501 486)
def grLdies (x : Word512) : Nat := fld x 485 470
def grIsem (x : Word512) : Nat := fld x 469 464
def grCsem (x : Word512) : Nat := fld x 463 458
def grSrc (x : Word512) : Nat := fld x 457 446
def grDst (x : Word512) : Nat := fld x 445 434
def grTagaddr (x : Word512) : Nat := fld x 433 386
def grTag0 (x : Word512) : Nat := fld x 385 354
def grStage (x : Word512) : Nat := fld x 353 306
/-- PMASK of dimension `d`: 0 X, 1 Y, 2 Z, 3 W. -/
def grPmask (x : Word512) (d : Nat) : Nat := natFld x.toNat (242 + 16 * d) 16

/-- Integer width W. -/
def grW (x : Word512) : Nat := if grWide x then 48 else 32

/-- Contributions P (17:R357). -/
def grP (x : Word512) : Nat :=
  popCount (grLdies x) 16 * (List.range 4).foldl (fun a d => a * popCount (grPmask x d) 16) 1

/-- H = ceil(log2 P) + 1 (17:R351). -/
def grH (x : Word512) : Nat := bitLen (grP x - 1) + 1

/-- Contributing dies of a context, by package index. -/
def grDies (x : Word512) (c : Ctx) : List Nat :=
  ((List.range 16).filter fun d => natFld (grLdies x) d 1 = 1).filterMap fun d => (c.ents[d]?).map fun e => e.die.val

/-- The context's part of a die, on the die or saved. -/
def Hw.partOf (h : Hw) (num : BitVec 16) (n : Nat) : DieCtx :=
  if h.resident n num then h.cx n else (h.savedCx num n).getD DieCtx.init

/-- Module channel of a context's channel (17:R354). -/
def Ctx.chan (c : Ctx) (k : Nat) : Option Nat := c.chans[k]?

/-- Groups of a source: 64 for each tile slot (17:R360). -/
def srcGroups (m : Word512) : Nat := 64 * (tilesOf (dsSize m 0) * tilesOf (dsSize m 1))

/-! ### Conversion (17:R350-R353) -/

/-- Bound code of a group of FP32 values. -/
def boundCode (hh : Nat) (g : List Nat) : Nat :=
  if g.any fun x => !(ofF32 x).isNum then 0xFF
  else if g.all isZero32 then 0
  else
    let top := (g.filter fun x => !isZero32 x).map fun x => (ofF32 x).ilog
    let mx := top.foldl max (top.headD 0)
    (max 0 (min (mx + 111) (255 - (hh : Int)))).toNat

/-- Exponent byte of an agreed code. -/
def codeEb (hh c : Nat) : Nat := if c = 0xFF then 0xFF else c + hh - 1

/-- One contribution's integer, and whether it saturated. -/
def toBxi (w hh eb x : Nat) : Int × Bool :=
  if eb = 0xFF then (0, false)
  else match ofF32 x with
    | .num neg m e =>
      let n := roundInt .even neg m (e + (if w = 32 then 141 else 157) - (eb : Int))
      let lim : Int := 2 ^ (w - hh) - 1
      if lim < n then (lim, true) else if n < -lim then (-lim, true) else (n, false)
    | _ => (0, false)

/-- The value of a sum in an FP32 destination (17:R353). -/
def sumF32 (w eb : Nat) (s : Int) : Nat :=
  if eb = 0xFF then nan32
  else if s = 0 then 0
  else toF32 ((Val.ofInt s).scale2 ((eb : Int) - (if w = 32 then 141 else 157)))

/-! ### The schedule (17:R360) -/

/-- A stage: dimension, participants, own rank, and the range of groups it divides. -/
structure RStage where
  dim : Nat
  l : Nat
  rank : Nat
  lo : Nat
  n : Nat
  deriving DecidableEq, Repr

/-- Bounds of piece `p`. -/
def RStage.piece (t : RStage) (p : Nat) : Nat × Nat :=
  let c := (t.n + t.l - 1) / t.l
  (t.lo + min t.n (p * c), t.lo + min t.n ((p + 1) * c))

/-- Groups of a window: 64 code flits, which phase E may be ahead of phase S (17:R361). -/
def redWindow : Nat := 14336

/-- The part of piece `p` that lies in window `b`. -/
def RStage.part (t : RStage) (b p : Nat) : Nat × Nat :=
  (max (t.piece p).1 (redWindow * b), min (t.piece p).2 (redWindow * (b + 1)))

/-- Coordinate of a position in a dimension. -/
def coord (pos : BitVec 16) (d : Nat) : Nat := natFld pos.toNat (4 * d) 4

/-- Reduce-scatter stages in order. -/
def rsStages (x : Word512) (own : BitVec 16) : List Nat → Nat → Nat → List RStage
  | [], _, _ => []
  | d :: r, lo, n =>
    let m := grPmask x d
    let l := popCount m 16
    if l ≤ 1 then rsStages x own r lo n
    else
      let t : RStage := ⟨d, l, popCount m (coord own d), lo, n⟩
      let p := t.piece t.rank
      t :: rsStages x own r p.1 (p.2 - p.1)

def Hw.rs (h : Hw) (x : Word512) (g : Nat) : List RStage := rsStages x h.links.lpos [0, 1, 2, 3] 0 g

/-- Stage code of position `i` of a schedule of `m` reduce-scatter stages (17 Table 17-4). -/
def stageCode (m i : Nat) : Nat := if i < m then i else 4 + (i - m)

/-- The stage at a position: gathers run over the same stages backwards. -/
def stageAt (l : List RStage) (i : Nat) : Option RStage := if i < l.length then l[i]? else l[2 * l.length - 1 - i]?

/-- Position of a stage code. -/
def stagePos (m code : Nat) : Nat := if code < 4 then code else m + (code - 4)

/-- The next participant of a ring, in its + or − sense. -/
def Hw.ringNext (h : Hw) (x : Word512) (t : RStage) (plus : Bool) : BitVec 16 :=
  let m := grPmask x t.dim
  let own := coord h.links.lpos t.dim
  let c := ((List.range 16).map fun i => (own + (if plus then i + 1 else 15 - i)) % 16).find? fun c => natFld m c 1 = 1
  setFld h.links.lpos (4 * t.dim + 3) (4 * t.dim) (c.getD own)

/-- Units (code flits of 224 groups, segments of 16) of a range. -/
def unitsOf (u : Nat) (r : Nat × Nat) : List Nat :=
  if r.1 < r.2 then (List.range ((r.2 - 1) / u - r.1 / u + 1)).map (· + r.1 / u) else []

def unitKey (stage piece unit : Nat) : Nat := (stage * 16 + piece) * 2 ^ 24 + unit

/-- Pieces in the order in which they arrive from the + side or the − side in a stage. -/
def arrivalOrder (gather : Bool) (t : RStage) (plus : Bool) : List Nat :=
  let step (i : Nat) : Nat := if plus then (t.rank + 2 * t.l - i) % t.l else (t.rank + i) % t.l
  if gather then (List.range (t.l - 1)).map fun i => step (i + 1)
  else (List.range (t.l - 1)).map fun i => step (i + 2)

/-- The piece that an arriving unit belongs to: the first in order that has it and has not received it. -/
def pieceOf (gather : Bool) (t : RStage) (stage : Nat) (plus : Bool) (u unit : Nat) (got : List Nat) : Option Nat :=
  (arrivalOrder gather t plus).find? fun p => (unitsOf u (t.piece p)).contains unit && !got.contains (unitKey stage p unit)

/-- Everything of a stage that this module waits for in window `b` has come. -/
def stageDone (gather : Bool) (t : RStage) (b stage u : Nat) (got : List Nat) : Bool :=
  if gather then (List.range t.l).all fun p => p == t.rank || (unitsOf u (t.part b p)).all fun k => got.contains (unitKey stage p k)
  else (unitsOf u (t.part b t.rank)).all fun k => got.contains (unitKey stage t.rank k)

/-! ### Flits (17 Table 17-4) -/

def rfStage (f : Flit) : Nat := flAddr f >>> 40 % 8
def rfSlot (f : Flit) : Nat := natFld (flAddr f) 32 8
def rfIdx (f : Flit) : Nat := natFld (flAddr f) 24 8
def rfUnit (f : Flit) : Nat := natFld (flAddr f) 0 24

def Hw.redFlit (h : Hw) (chan : Nat) (dst : BitVec 16) (op stage g idx unit : Nat) (data : List Byte) : Flit :=
  ⟨flitHeader 1 chan dst h.links.lpos 0 0 op data.length (put stage 40 3 + put g 32 8 + put idx 24 8 + put unit 0 24), data, 0⟩

/-- Flits of a segment: 19 for BXI32, 28 for BXI48 (17:R362). -/
def segFlits (w : Nat) : Nat := if w = 32 then 19 else 28

/-- Bytes of a segment with its checksum in the last four payload bytes. -/
def segBytes (w : Nat) (vals : List Int) : List Byte :=
  let body := vals.flatMap fun v => leBytes (w / 8) (wrapInt w v)
  let ck := wrapInt 32 (vals.foldl (· + ·) 0)
  body ++ List.replicate (224 * segFlits w - 4 - body.length) 0 ++ leBytes 4 ck

def segVals (w : Nat) (b : List Byte) : List Int := (List.range 1024).map fun i => toSigned w (leAt b (i * (w / 8)) (w / 8))

/-- The carried checksum is that of the integers (17:R363). -/
def segOk (w : Nat) (b : List Byte) : Bool :=
  wrapInt 32 ((segVals w b).foldl (· + ·) 0) == leAt b (224 * segFlits w - 4) 4

/-- Integers of the groups of a segment that lie in a piece; the others are sent as zeros. -/
def segOf (vals : Array (List Int)) (r : Nat × Nat) (seg : Nat) : List Int :=
  (List.range 16).flatMap fun i =>
    let g := 16 * seg + i
    if r.1 ≤ g && g < r.2 then vals.getD g (List.replicate 64 0) else List.replicate 64 0

def codesOf (codes : Array Nat) (r : Nat × Nat) (unit : Nat) : List Byte :=
  (List.range 224).map fun i =>
    let g := 224 * unit + i
    BitVec.ofNat 8 (if r.1 ≤ g && g < r.2 then codes.getD g 0 else 0)

/-! ### Access to issues -/

def Hw.redCtx (h : Hw) (g : Nat) : Option Ctx := h.ctx? (grCtx (h.group g).rcd)

/-- Module channel of a group's issues. -/
def Hw.redChan (h : Hw) (g : Nat) : Nat :=
  ((h.redCtx g).bind fun c => c.chan (grChan (h.group g).rcd)).getD (grChan (h.group g).rcd)

def Hw.updIssue (h : Hw) (g : Nat) (k : Word32) (f : RedIssue → RedIssue) : Hw :=
  h.updGroup g fun x => { x with issues := x.issues.map fun i => if i.k = k then f i else i }

def Hw.issue? (h : Hw) (g : Nat) (k : Word32) : Option RedIssue := (h.group g).issues.find? fun i => i.k == k

/-- The issue that a channel works on: its oldest. -/
def Hw.chanHead (h : Hw) (ch : Nat) : Option Nat := (h.chip.redq.find? fun e => e.1 == ch).map (·.2)

/-- The group's oldest issue, when it is at the head of its channel. -/
def Hw.redActive (h : Hw) (g : Nat) : Option RedIssue :=
  if h.chanHead (h.redChan g) = some g then (h.group g).issues.head? else none

/-- Groups of the issue's tensor, once it has started. -/
def Hw.redG (h : Hw) (g : Nat) : Nat := (((h.group g).issues.head?.bind fun i => i.srcD.head?).map srcGroups).getD 0

/-- Source of a reduction: tiled, rank 2, FP32, BF16 or FP16, not transposed (17 Table 17-3). -/
def redSrcOk (m : Word512) : Bool :=
  dsKind m == 1 && dsLayout m == 1 && dsRank m == 2 && (dsFormat m == 1 || dsFormat m == 2 || dsFormat m == 3) && !dsTrans m

/-- Destination of a reduction of width WIDE. -/
def redDstOk (x m : Word512) : Bool :=
  dsKind m == 1 && dsLayout m == 1 && dsRank m == 2 && (dsFormat m == 1 || dsFormat m == (if grWide x then 0xC else 0xB)) &&
    dsWrite m && !dsAcc m && !dsCompw m && !dsWinen m && !dsTrans m

/-- The link port that sends a stage's even segments, whose adders do the group's work (17:R360); with no stage, and where the direction has no link,
the manual names none (log 23, DESIGN CHOICE). -/
def Hw.stagePort (h : Hw) (g : Nat) (t : Option RStage) : Nat :=
  let any_ := engineAmong 0x0F00 g (List.range 48)
  match t with
  | none => any_
  | some t =>
    let f := h.redFlit (h.redChan g) (h.ringNext (h.group g).rcd t true) 2 0 g 0 0 []
    (flowLink f ((h.links.ofDir (2 * t.dim)).filter h.links.live)).getD any_

def Hw.redPort (h : Hw) (g : Nat) : Nat := h.stagePort g (h.rs (h.group g).rcd (h.redG g)).head?

/-- The port's adders as the agent of an access (01:R19). -/
def redWho (l : Nat) : Who := ⟨.program, 9, srcBytes (linkDie l) 0xFF (0x50 + l % 16)⟩

/-! ### Leaving a channel (17:R359, R365, R366) -/

/-- CSEM on every contributing die (17:R365, R366). -/
def Hw.redSignal (h : Hw) (g : Nat) : Hw :=
  match h.redCtx g with
  | none => h
  | some c => (grDies (h.group g).rcd c).foldl (fun h n => h.semAdd c.num n (grCsem (h.group g).rcd) 1 255) h

/-- The oldest issue leaves the group and its channel. -/
def Hw.redLeave (h : Hw) (g : Nat) (k : Word32) : Hw :=
  let ch := h.redChan g
  (h.updGroup g fun x => { x with issues := x.issues.filter fun i => i.k != k }).onChip fun c => { c with redq := c.redq.erase (ch, g) }

/-- Abort flits to both neighbours of every ring of the group (17:R366). -/
def Hw.redSpread (h : Hw) (g idx : Nat) : Hw :=
  let x := (h.group g).rcd
  let ch := h.redChan g
  (h.rs x (h.redG g)).foldl (fun h t =>
    [true, false].foldl (fun h p => h.routeFlit (h.redFlit ch (h.ringNext x t p) 5 0 g idx 0 [])) h) h

/-- A condition of a reduction, from the adders of the port that brought its flit, or of the group's first stage (01:R19, log 23, DESIGN CHOICE). -/
def Hw.raiseRed (h : Hw) (g code : Nat) (l : Option Nat := none) : Hw :=
  let l := l.getD (h.redPort g)
  h.raise ⟨code, linkDie l, 0xFF, 0x50 + l % 16, 0, 0, some (grCtx (h.group g).rcd)⟩

/-- An issue aborts with a condition: it counts as taken, CSEM is signalled, and the abort spreads (17:R366). -/
def Hw.redAbortOne (h : Hw) (g : Nat) (k : Word32) (code : Nat) (l : Option Nat := none) : Hw :=
  let h := h.raiseRed g code l
  let h := h.redSpread g (k.toNat % 256)
  let h := h.redSignal g
  (h.redLeave g k).updGroup g fun x => { x with
    aborted := BitVec.ofNat 16 (satInc 65535 x.aborted.toNat), last := BitVec.ofNat 8 (code % 256) }

/-! ### Sources (17:R358, R363) -/

/-- FP32 elements of a die's source, group after group; elements outside the index box are zeros. -/
def redRead (e : GEnv) (m : Word512) : GM (List Nat) := do
  let t1 := tilesOf (dsSize m 1)
  let fmt := dsFormat m
  let tiles ← (List.range (tilesOf (dsSize m 0) * t1)).mapM fun t => do
    let i := [64 * (t / t1), 64 * (t % t1)]
    let p ← rdTile e fmt (tilePlace m i).1
    pure ((List.range 4096).map fun j =>
      if 64 * (t / t1) + j / 64 < dsSize m 0 && 64 * (t % t1) + j % 64 < dsSize m 1
      then toF32 (elVal fmt (tileEl fmt p (j / 64) (j % 64))) else 0)
  pure tiles.flatten

/-- Rows of 64. -/
def rows64 : Nat → List Nat → List (List Nat)
  | 0, _ => []
  | k + 1, l => l.take 64 :: rows64 k (l.drop 64)

/-- The sources of every contributing die, or what stops the read. -/
def Hw.redSources (h : Hw) (c : Ctx) (w : Who) (passed : List Reread) : List (Nat × Word512) → Except Stop (List (List Nat) × Hw)
  | [] => .ok ([], h)
  | n :: r => do
    let e : GEnv := ⟨n.1, (h.partOf c.num n.1).root, w, passed⟩
    let s ← (redRead e n.2).run { h := h }
    let t ← Hw.redSources s.2.h c w passed r
    .ok (s.1 :: t.1, t.2)

/-- The module's codes: the greatest of its dies' codes, group by group. -/
def ownCodes (hh : Nat) (src : List (List Nat)) : List Nat :=
  match src.map fun d => (rows64 (d.length / 64) d).map (boundCode hh) with
  | [] => []
  | a :: r => r.foldl (List.zipWith max) a

/-- The module's integers under agreed codes, and whether one saturated. -/
def ownVals (w hh : Nat) (codes : List Nat) (src : List (List Nat)) : List (List Int) × Bool :=
  let one (d : List Nat) : List (List (Int × Bool)) :=
    (codes.zip (rows64 (d.length / 64) d)).map fun p => p.2.map (toBxi w hh (codeEb hh p.1))
  match src.map one with
  | [] => ([], false)
  | a :: r =>
    let v := r.foldl (List.zipWith fun x y => List.zipWith (fun p q => (p.1 + q.1, p.2 || q.2)) x y) a
    (v.map (·.map (·.1)), v.any (·.any (·.2)))

/-! ### Sending (17:R360-R364) -/

/-- Segments that a channel and direction may keep (17:R364). -/
def keptMax : Nat := 256

/-- The flits of a kept segment leave. -/
def Hw.sendSeg (h : Hw) (g : Nat) (k : Word32) (t : RStage) (s : RedKept) : Hw :=
  let x := (h.group g).rcd
  let dst := h.ringNext x t s.plus
  (List.range (segFlits (grW x))).foldl (fun h i =>
    h.routeFlit (h.redFlit (h.redChan g) dst 2 s.stage g (k.toNat % 256) s.seg (bytesAt s.bytes (224 * i) 224))) h

/-- Kept segments not yet sent leave while fewer than 256 of their direction are out. -/
def Hw.pumpSegs (h : Hw) (g : Nat) (k : Word32) : Hw :=
  match h.issue? g k with
  | none => h
  | some i =>
    let st := h.rs (h.group g).rcd (h.redG g)
    let rec go : List RedKept → Nat → Nat → Hw → Hw
      | [], _, _, h => h
      | s :: r, a, b, h =>
        let n := if s.plus then a else b
        if s.sent || keptMax ≤ n then go r a b h
        else
          let h := match stageAt st (stagePos st.length s.stage) with
            | some t => h.sendSeg g k t s
            | none => h
          let h := h.updIssue g k fun i => { i with kept := i.kept.map fun q => if q = s then { q with sent := true } else q }
          go r (if s.plus then a + 1 else a) (if s.plus then b else b + 1) h
    go i.kept ((i.kept.filter fun s => s.sent && s.plus).length) ((i.kept.filter fun s => s.sent && !s.plus).length) h

/-- A unit of a piece goes to the next participant of its ring: even units in the + direction (17:R360). -/
def Hw.sendUnit (h : Hw) (g : Nat) (k : Word32) (sums : Bool) (t : RStage) (pos piece unit : Nat) (vals : Array (List Int))
    (codes : Array Nat) : Hw :=
  let x := (h.group g).rcd
  let plus := unit % 2 == 0
  let code := stageCode (h.rs x (h.redG g)).length pos
  if sums then
    (h.updIssue g k fun i => { i with kept := i.kept ++
      [⟨plus, code, unit, segBytes (grW x) (segOf vals (t.piece piece) unit), false⟩] }).pumpSegs g k
  else h.routeFlit (h.redFlit (h.redChan g) (h.ringNext x t plus) 1 code g (k.toNat % 256) unit (codesOf codes (t.piece piece) unit))

/-- What this module sends when a stage of the window begins. -/
def Hw.beginStage (h : Hw) (g : Nat) (k : Word32) (sums : Bool) (t : RStage) (pos m : Nat) : Hw :=
  match h.issue? g k with
  | none => h
  | some i =>
    let u := if sums then 16 else 224
    let gather := m ≤ pos
    let send (h : Hw) (p : Nat) (plus : Bool) : Hw :=
      ((unitsOf u (t.part i.window p)).filter fun j => (j % 2 == 0) == plus).foldl (fun h j =>
        h.sendUnit g k sums t pos p j i.vals.toArray i.codes.toArray) h
    if gather then send (send h t.rank true) t.rank false
    else send (send h ((t.rank + t.l - 1) % t.l) true) ((t.rank + 1) % t.l) false

/-! ### Receiving -/

/-- Codes of a piece merged with the max operator, or replaced in a gather. -/
def mergeCodes (gather : Bool) (codes : List Nat) (r : Nat × Nat) (unit : Nat) (b : List Byte) : List Nat :=
  (List.range codes.length).zip codes |>.map fun e =>
    if 224 * unit ≤ e.1 && e.1 < 224 * unit + 224 && r.1 ≤ e.1 && e.1 < r.2 then
      let c := (b.getD (e.1 - 224 * unit) 0).toNat
      if gather then c else max e.2 c
    else e.2

/-- Integers of a piece added to the own part, or replaced in a gather. -/
def mergeVals (gather : Bool) (vals : List (List Int)) (r : Nat × Nat) (seg : Nat) (v : List Int) : List (List Int) :=
  (List.range vals.length).zip vals |>.map fun e =>
    if 16 * seg ≤ e.1 && e.1 < 16 * seg + 16 && r.1 ≤ e.1 && e.1 < r.2 then
      let x := (v.drop (64 * (e.1 - 16 * seg))).take 64
      if gather then x else List.zipWith (· + ·) e.2 x
    else e.2

/-- A whole unit has arrived for a piece: forwarded, and kept when it is this module's. -/
def Hw.redUnit (h : Hw) (g : Nat) (k : Word32) (sums : Bool) (t : RStage) (pos m piece unit : Nat) (plus : Bool)
    (data : List Byte) : Hw :=
  match h.issue? g k with
  | none => h
  | some i =>
    let gather := m ≤ pos
    let r := t.piece piece
    let w := grW (h.group g).rcd
    let codes := if sums then i.codes else mergeCodes gather i.codes r unit data
    let vals := if sums then mergeVals gather i.vals r unit (segVals w data) else i.vals
    let next := if plus then (t.rank + 1) % t.l else (t.rank + t.l - 1) % t.l
    let mine := if gather then true else piece == t.rank
    let last := if gather then next == piece else piece == t.rank
    let h := h.updIssue g k fun i => { i with
      got := unitKey pos piece unit :: i.got
      codes := if mine then codes else i.codes
      vals := if mine then vals else i.vals }
    if last then h else h.sendUnit g k sums t pos piece unit vals.toArray codes.toArray

/-- The segment is accepted or asked for again (17:R364). -/
def Hw.redAnswer (h : Hw) (g : Nat) (k : Word32) (t : RStage) (plus : Bool) (op stage unit : Nat) : Hw :=
  let x := (h.group g).rcd
  h.routeFlit (h.redFlit (h.redChan g) (h.ringNext x t !plus) op stage g (k.toNat % 256) unit [])

/-- A flit of the present phase and of a stage that has begun. -/
def Hw.redTake (h : Hw) (g : Nat) (k : Word32) (sums : Bool) (t : RStage) (pos m : Nat) (l : Option Nat) (f : Flit) : Hw :=
  match h.issue? g k with
  | none => h
  | some i =>
    let unit := rfUnit f
    let plus := unit % 2 == 0
    let u := if sums then 16 else 224
    match pieceOf (m ≤ pos) t pos plus u unit i.got with
    | none => h
    | some p =>
      if !sums then h.redUnit g k false t pos m p unit plus (bytesAt f.payload 0 224)
      else
        let x := (h.group g).rcd
        let w := grW x
        let st := rfStage f
        let old := ((i.parts.find? fun q => q.1 == plus && q.2.1 == st && q.2.2.1 == unit).map (·.2.2.2)).getD []
        let b := old ++ bytesAt f.payload 0 224
        let rest := i.parts.filter fun q => !(q.1 == plus && q.2.1 == st && q.2.2.1 == unit)
        if b.length < 224 * segFlits w then h.updIssue g k fun i => { i with parts := rest ++ [(plus, st, unit, b)] }
        else
          let h := h.updIssue g k fun i => { i with parts := rest }
          let port := l.getD (h.redPort g)
          let counted (h : Hw) (e : Nat) : Hw := h.count (ctrLink port e) 1 .program 9 (redWho port).src
          if segOk w b then
            ((if pos < m then counted h 19 else h).redAnswer g k t plus 3 st unit).redUnit g k true t pos m p unit plus b
          else
            let n := ((i.misses.find? fun q => q.1 == st && q.2.1 == unit).map (·.2.2)).getD 0
            if 2 ≤ n then h.redAbortOne g k 0x0F03 l
            else
              let h := counted (h.raiseRed g 0x0F02 l) 20
              let l := (i.misses.filter fun q => !(q.1 == st && q.2.1 == unit)) ++ [(st, unit, n + 1)]
              (h.updIssue g k fun i => { i with misses := l }).redAnswer g k t plus 4 st unit

/-- A flit that came early is put back, or taken now. -/
def Hw.redOffer (h : Hw) (g : Nat) (k : Word32) (l : Option Nat) (f : Flit) : Hw :=
  match h.issue? g k with
  | none => h
  | some i =>
    let st := h.rs (h.group g).rcd (h.redG g)
    let pos := stagePos st.length (rfStage f)
    let sums := flOp f == 2
    let later := h.updIssue g k fun i => { i with early := i.early ++ [f] }
    match i.phase, stageAt st pos with
    | .queued, _ => later
    | .written, _ => h
    | _, none => h
    | ph, some t =>
      let win := rfUnit f / (if sums then 896 else 64)
      if win != i.window then (if i.window < win then later else h)
      else if sums != (ph == .sums) then (if sums then later else h)
      else if i.stage < pos then later
      else h.redTake g k sums t pos st.length l f

/-- Early flits are offered again. -/
def Hw.redReplay (h : Hw) (g : Nat) (k : Word32) : Hw :=
  match h.issue? g k with
  | none => h
  | some i => i.early.foldl (fun h f => h.redOffer g k none f) (h.updIssue g k fun i => { i with early := [] })

/-- Sums of a window begin: the module converts its part under the agreed codes (17:R351, R361). -/
def Hw.redConvert (h : Hw) (g : Nat) (k : Word32) : Hw :=
  match h.issue? g k, h.redCtx g with
  | some i, some c =>
    let x := (h.group g).rcd
    let lo := redWindow * i.window
    let codes := (i.codes.drop lo).take redWindow
    let v := (i.vals.take lo ++ (ownVals (grW x) (grH x) i.codes i.src).1.drop lo,
      (ownVals (grW x) (grH x) codes (i.src.map fun d => (d.drop (64 * lo)).take (64 * redWindow))).2)
    let h := if v.2 && !c.raised.contains 0x0F09 then (h.raiseRed g 0x0F09).updCtx c.num fun c => { c with raised := 0x0F09 :: c.raised } else h
    let h := if codes.contains 0xFF && !((h.ctx? c.num).map (·.raised.contains 0x0F0A)).getD true then
      (h.raiseRed g 0x0F0A).updCtx c.num fun c => { c with raised := 0x0F0A :: c.raised } else h
    h.updIssue g k fun i => { i with phase := .sums, vals := v.1, stage := 0, got := [] }
  | _, _ => h

/-- A reduce-scatter stage has ended: the owned sums go to the staging area, on the lowest contributing die (17:R360). -/
def Hw.stageOut (h : Hw) (g : Nat) (k : Word32) (t : RStage) : Hw :=
  match h.issue? g k, h.redCtx g with
  | some i, some c =>
    let x := (h.group g).rcd
    let r := t.part i.window t.rank
    let at_ := grStage x + (8 * grW x + 1) * (r.1 - (t.piece t.rank).1)
    let groups := (List.range (r.2 - r.1)).map fun j => (codeEb (grH x) (i.codes.getD (r.1 + j) 0), i.vals.getD (r.1 + j) [])
    let n := (grDies x c).headD 0
    match h.vaWriteR n (h.partOf c.num n).root at_ (bytesAt (Config.staged (grW x) groups) 0 ((8 * grW x + 1) * groups.length))
        (redWho (h.stagePort g (some t))) with
    | .ok h => h
    | .error _ => h
  | _, _ => h

/-- The schedule advances as far as what has arrived allows. -/
def Hw.redAdvance (g : Nat) (k : Word32) : Nat → Hw → Hw
  | 0, h => h
  | fuel + 1, h =>
    match h.issue? g k with
    | none => h
    | some i =>
      let x := (h.group g).rcd
      let l := h.rs x (h.redG g)
      let m := l.length
      let sums := i.phase == .sums
      -- codes are always gathered; sums only for an all-reduce
      let total := if sums && grMode x = 1 then m else 2 * m
      if i.phase != .codes && !sums then h
      else
        let done := match stageAt l i.stage with
          | some t => stageDone (m ≤ i.stage) t i.window i.stage (if sums then 16 else 224) i.got
          | none => true
        let ended := sums && decide (i.stage < m) && done
        if i.stage < total && !done then h
        else
          let h := match ended, stageAt l i.stage with
            | true, some t => h.stageOut g k t
            | _, _ => h
          if i.stage + 1 < total then
            let h := h.updIssue g k fun i => { i with stage := i.stage + 1 }
            let h := match stageAt l (i.stage + 1) with
              | some t => h.beginStage g k sums t (i.stage + 1) m
              | none => h
            Hw.redAdvance g k fuel (h.redReplay g k)
          else if sums then
            if h.redG g ≤ redWindow * (i.window + 1) then h.updIssue g k fun i => { i with phase := .written }
            else
              let h := h.updIssue g k fun i => { i with phase := .codes, window := i.window + 1, stage := 0, got := [] }
              let h := match stageAt l 0 with
                | some t => h.beginStage g k false t 0 m
                | none => h
              Hw.redAdvance g k fuel (h.redReplay g k)
          else
            let h := h.redConvert g k
            let h := match stageAt l 0 with
              | some t => h.beginStage g k true t 0 m
              | none => h
            Hw.redAdvance g k fuel (h.redReplay g k)

/-- Stages of both phases, and the phases themselves, for each window. -/
def Hw.redFuel (h : Hw) (g : Nat) : Nat := 20 * (h.redG g / redWindow + 1)

/-- The issue takes its slots as they stand at its start (06:R136). -/
def Hw.redSlots (h : Hw) (g : Nat) (k : Word32) (c : Ctx) : Hw :=
  let x := (h.group g).rcd
  let slot (s n : Nat) : Word512 := (h.partOf c.num n).slot s
  h.updIssue g k fun i => if i.srcD.isEmpty then { i with
    srcD := (grDies x c).map (slot (grSrc x)), dstD := (grDies x c).map (slot (grDst x)) } else i

/-- The issue at the head of a channel reads its sources and phase E begins; a source that does not verify waits for its
re-read (17:R361, R363). An issue with a slot that cannot be used is dropped whole, as an abort that tells the other participants (06:R136, log 85,
DESIGN CHOICE). -/
def Hw.redStart (h : Hw) (g : Nat) : Hw :=
  match h.redActive g, h.redCtx g with
  | some q, some c =>
    if q.phase != .queued || !q.stall.ready then h
    else
      let x := (h.group g).rcd
      let h := h.redSlots g q.k c
      match h.issue? g q.k with
      | none => h
      | some i =>
        if !(i.srcD.all redSrcOk && i.dstD.all (redDstOk x)) then h.redAbortOne g i.k 0x0504
        else match h.redSources c (redWho (h.redPort g)) i.stall.rereadsOf ((grDies x c).zip i.srcD) with
        | .error (.tile k a f) => h.updIssue g i.k fun i => { i with stall := .tile k a f i.stall.rereadsOf }
        | .error (.burst s b) => h.updIssue g i.k fun i => { i with stall := .burst s b }
        | .error _ => h
        | .ok r =>
          let h := r.2.updIssue g i.k fun i => { i with
            phase := .codes, stall := .run, src := r.1, codes := ownCodes (grH x) r.1, stage := 0, got := [] }
          let l := h.rs x (h.redG g)
          let h := match stageAt l 0 with
            | some t => h.beginStage g i.k false t 0 l.length
            | none => h
          Hw.redAdvance g i.k (h.redFuel g) (h.redReplay g i.k)
  | _, _ => h

/-- The next issue of a channel begins; flits that came before it was taken are offered to it, an abort among them ends it. One that is dropped at its
start makes room for the one behind it. -/
def Hw.redNextGo (ch : Nat) : Nat → Hw → Hw
  | 0, h => h
  | fuel + 1, h =>
    match h.chanHead ch with
    | none => h
    | some g =>
      let t := h.redStart g
      if t.chip.redq.length < h.chip.redq.length then Hw.redNextGo ch fuel t else t

def Hw.redNext (h : Hw) (ch : Nat) : Hw := Hw.redNextGo ch h.chip.redq.length h

/-- An abort, and the next issue of the channel. -/
def Hw.redAbort (h : Hw) (g : Nat) (k : Word32) (code : Nat) (l : Option Nat := none) : Hw :=
  let ch := h.redChan g
  (h.redAbortOne g k code l).redNext ch

/-- Every issue in flight of a context aborts (17 Table 17-7). -/
def Hw.redAbortCtx (h : Hw) (num : BitVec 16) (code : Nat) : Hw :=
  (List.range 256).foldl (fun h g =>
    if grValid (h.group g).rcd && grCtx (h.group g).rcd == num then
      (h.group g).issues.foldl (fun h i => h.redAbortOne g i.k code) h
    else h) h

/-- Every reduction in flight aborts. -/
def Hw.redAbortAll (h : Hw) (code : Nat) : Hw :=
  (List.range 256).foldl (fun h g => (h.group g).issues.foldl (fun h i => h.redAbortOne g i.k code) h) h

/-- Reductions issued on a context's channels are still in flight. -/
def Hw.redBusy (h : Hw) (num : BitVec 16) : Bool :=
  h.chip.groups.toList.any fun x => grCtx x.rcd == num && !x.issues.isEmpty

/-- A flit's issue, by its index: in flight, the next to be taken, stale, or unexpected. -/
def Hw.redWhich (h : Hw) (g idx : Nat) : Option Word32 :=
  ((h.group g).issues.find? fun i => i.k.toNat % 256 == idx).map (·.k)

/-- Segments and codes held for a lost fleet direction abort their reduction at once (17:R367). -/
def Hw.redFleet (h : Hw) : Hw :=
  let lost := h.links.bulkHeld.filter fun e => flClass e.2 == 1 && (e.1 == 6 || e.1 == 7) && !h.links.alive e.1
  let h := h.onLinks fun x => { x with bulkHeld := x.bulkHeld.filter fun e => !lost.contains e }
  lost.foldl (fun h e =>
    match h.redWhich (rfSlot e.2) (rfIdx e.2) with
    | some k => h.redAbort (rfSlot e.2) k 0x0F04
    | none => h) h

/-- A reduction flit for this module: taken by its issue, kept for the next one, or unexpected (17:R359). -/
def Hw.redArrive (h : Hw) (l : Nat) (f : Flit) : Hw :=
  let g := rfSlot f
  let x := h.group g
  if !grValid x.rcd then h
  else match h.redWhich g (rfIdx f) with
    | some k =>
      if flOp f = 5 then h.redAbort g k 0x0F07 (some l)
      else if h.redActive g = none then h.updIssue g k fun i => { i with early := i.early ++ [f] }
      else Hw.redAdvance g k (h.redFuel g) (h.redOffer g k (some l) f)
    | none =>
      let ahead := (rfIdx f + 256 - x.issued.toNat % 256) % 256
      if ahead = 0 then h.onChip fun c => { c with redEarly := c.redEarly ++ [(g, f)] }
      else if ahead < 128 then
        match h.redActive g with
        | some i => h.redAbort g i.k 0x0F05 (some l)
        | none => h
      else h

/-! ### Commands -/

/-- The row's flit: a reduction flit with its OP. -/
def redRow (op : Nat) (f : Flit) : Flit := { f with header := setFld (setFld f.header 127 124 1) 54 51 op }

/-- A reduction flit that link `l` brought; one for another module was forwarded by FLIT_RECEIVE. -/
def Hw.redFrom (h : Hw) (l : Nat) (f : Flit) : Hw := if flDst f == h.links.lpos then (h.redArrive l f).redFleet else h

/-- The next issue of a group, with flits that came before it. -/
def redFresh (k : Word32) (early : List Flit) : RedIssue := ⟨k, .queued, [], [], [], 0, [], early, [], [], [], .run, [], [], 0⟩

/-- An issue is taken: 1 from every contributing die's ISEM, and it stands last on its channel (17:R358, R359). -/
def Hw.redQueue (h : Hw) (g : Nat) (ds : List Nat) (early : List Flit) : Hw :=
  let x := h.group g
  let ch := h.redChan g
  let mine (e : Nat × Flit) : Bool := e.1 == g && rfIdx e.2 == x.issued.toNat % 256
  let h := ds.foldl (fun h n => h.updCx n fun y => { y with sems := vupd y.sems (grIsem x.rcd) fun v => v - 1 }) h
  (h.updGroup g fun y => { y with issued := y.issued + 1, issues := y.issues ++ [redFresh y.issued early] }).onChip fun c => { c with
    redq := c.redq ++ [(ch, g)], redEarly := c.redEarly.filter fun e => !mine e }

/-- A group issues, once every contributing die is ready (17:R358). -/
def Hw.redIssue (h : Hw) (g : Nat) : Hw :=
  match h.redCtx g with
  | none => h
  | some c =>
    let x := (h.group g).rcd
    let ds := grDies x c
    if !grValid x || ds.isEmpty || !ds.all fun n => h.resident n c.num && decide (1 ≤ ((h.cx n).sem (grIsem x)).toNat) then h
    else
      let k := (h.group g).issued
      let ch := h.redChan g
      let early := (h.chip.redEarly.filter fun e => e.1 == g && rfIdx e.2 == k.toNat % 256).map (·.2)
      let h := h.redQueue g ds (early.filter fun f => flOp f != 5)
      if early.any fun f => flOp f == 5 then h.redAbort g k 0x0F07 else (h.redNext ch).redFleet

/-- REDUCTION_ISSUE (17:R358). -/
def execReductionIssue (g : Fin 256) (s : State) : Out := .next (s.onHw fun h => h.redIssue g.val)

/-- REDUCTION_CODE_FLIT (17:R361). -/
def execReductionCodeFlit (l : Fin 48) (f : Flit) (s : State) : Out := .next (s.onHw fun h => h.redFrom l.val (redRow 1 f))

/-- REDUCTION_SEGMENT_RECEIVE (17:R363). -/
def execReductionSegmentReceive (l : Fin 48) (f : Flit) (s : State) : Out := .next (s.onHw fun h => h.redFrom l.val (redRow 2 f))

/-- The kept copy that an answer names: the oldest that has been sent. -/
def RedIssue.keptFor (i : RedIssue) (f : Flit) : Option RedKept :=
  i.kept.find? fun s => s.sent && s.stage == rfStage f && s.seg == rfUnit f

/-- A segment has been accepted: its kept copy goes, and one that waited leaves (17:R364). -/
def Hw.redAccepted (h : Hw) (f : Flit) : Hw :=
  match h.redWhich (rfSlot f) (rfIdx f) with
  | none => h
  | some k =>
    match (h.issue? (rfSlot f) k).bind fun i => i.keptFor f with
    | none => h
    | some s => (h.updIssue (rfSlot f) k fun i => { i with kept := i.kept.erase s }).pumpSegs (rfSlot f) k

/-- REDUCTION_SEGMENT_ACCEPTED (17:R364). -/
def execReductionSegmentAccepted (_l : Fin 48) (f : Flit) (s : State) : Out :=
  .next (s.onHw fun h => if flDst f == h.links.lpos then (h.redAccepted (redRow 3 f)).redFleet else h)

/-- A segment is asked for again: its kept copy leaves once more (17:R364). -/
def Hw.redResend (h : Hw) (f : Flit) : Hw :=
  let g := rfSlot f
  match h.redWhich g (rfIdx f) with
  | none => h
  | some k =>
    let st := h.rs (h.group g).rcd (h.redG g)
    match (h.issue? g k).bind (fun i => i.keptFor f), stageAt st (stagePos st.length (rfStage f)) with
    | some s, some t => h.sendSeg g k t s
    | _, _ => h

/-- REDUCTION_RETRY_REQUEST (17:R364). -/
def execReductionRetryRequest (_l : Fin 48) (f : Flit) (s : State) : Out :=
  .next (s.onHw fun h => if flDst f == h.links.lpos then (h.redResend (redRow 4 f)).redFleet else h)

/-- REDUCTION_ABORT_RECEIVE (17:R366). -/
def execReductionAbortReceive (l : Fin 48) (f : Flit) (s : State) : Out := .next (s.onHw fun h => h.redFrom l.val (redRow 5 f))

/-! ### Completion (17:R353, R365) -/

/-- One destination tile, sealed with GEN 0; rows outside the module's range keep what the tile holds. -/
def redTile (e : GEnv) (x m : Word512) (r : Nat × Nat) (codes : Array Nat) (vals : Array (List Int)) (t : Nat) : GM Unit := do
  let t1 := tilesOf (dsSize m 1)
  let a := (tilePlace m [64 * (t / t1), 64 * (t % t1)]).1
  let fmt := dsFormat m
  let w := grW x
  let mine (row : Nat) : Bool := r.1 ≤ 64 * t + row && 64 * t + row < r.2
  if (List.range 64).any mine then
    let whole := (List.range 64).all mine
    let old ← (if whole then pure [] else rdBytes e a (tileStored fmt))
    let p := (bytesAt old 64 (tilePayload fmt)).toArray
    let eb (row : Nat) : Nat := codeEb (grH x) (codes.getD (64 * t + row) 0)
    let inBox (row c : Nat) : Bool := 64 * (t / t1) + row < dsSize m 0 && 64 * (t % t1) + c < dsSize m 1
    let raw (row c : Nat) : Nat :=
      if mine row then
        let s := (vals.getD (64 * t + row) []).getD c 0
        if fmtIsBxi fmt then wrapInt w s else if inBox row c then sumF32 w (eb row) s else 0
      else (tileEl fmt p row c).raw
    let exps := if fmtIsBxi fmt then (List.range 64).map fun row => BitVec.ofNat 8 (if mine row then eb row else tileBxiExp p row) else []
    let body := (List.range 4096).flatMap fun j => leBytes (fmtBits fmt / 8) (raw (j / 64) (j % 64))
    wrBytes e a (tileSeal fmt 0 false (exps ++ body))

/-- The destination and then the tag word of one die. -/
def redWrite (e : GEnv) (x m : Word512) (r : Nat × Nat) (k : Word32) (codes : Array Nat) (vals : Array (List Int)) : GM Unit := do
  (List.range (tilesOf (dsSize m 0) * tilesOf (dsSize m 1))).forM fun t => redTile e x m r codes vals t
  wrBytes e (grTagaddr x) (leBytes 8 (2 ^ 63 + (grTag0 x + k.toNat) % 2 ^ 32))

/-- The range that the module writes: all of it, or its shard (17:R360). -/
def Hw.redRange (h : Hw) (x : Word512) (g : Nat) : Nat × Nat :=
  if grMode x = 1 then
    match (h.rs x g).getLast? with
    | some t => t.piece t.rank
    | none => (0, g)
  else (0, g)

/-- The oldest issue of a group has its sums: destinations and tag words are written, then CSEM is signalled (17:R365). -/
def Hw.redComplete (h : Hw) (g : Nat) : Hw :=
  match h.redActive g, h.redCtx g with
  | some i, some c =>
    if i.phase != .written then h
    else
      let x := (h.group g).rcd
      let r := h.redRange x (h.redG g)
      let ch := h.redChan g
      let w := redWho (h.stagePort g (h.rs x (h.redG g)).getLast?)
      let h := ((grDies x c).zip i.dstD).foldl (fun (h : Hw) n =>
        let e : GEnv := ⟨n.1, (h.partOf c.num n.1).root, w, []⟩
        match (redWrite e x n.2 r i.k i.codes.toArray i.vals.toArray).run { h := h } with
        | .ok r => r.2.h
        | .error (.burst k b) => h.raiseUE k b w.die (w.src % 256) (some c.num)
        | .error _ => h) h
      ((h.redSignal g).redLeave g i.k).redNext ch
  | _, _ => h

/-- REDUCTION_COMPLETE (17:R365). -/
def execReductionComplete (g : Fin 256) (s : State) : Out := .next (s.onHw fun h => (h.redComplete g.val).redFleet)

/-- A flit of the group has been held 100 ms without a path (17:R367). -/
def Hw.redHoldExpire (h : Hw) (g : Nat) : Hw :=
  let mine (e : Nat × Flit) : Bool := flClass e.2 == 1 && rfSlot e.2 == g
  match h.links.bulkHeld.find? mine with
  | none => h
  | some e =>
    let h := h.onLinks fun x => { x with bulkHeld := x.bulkHeld.filter fun e => !mine e }
    match h.redWhich g (rfIdx e.2) with
    | some k => h.redAbort g k 0x0F04
    | none => h

/-- REDUCTION_HOLD_EXPIRE (17:R367). -/
def execReductionHoldExpire (g : Fin 256) (s : State) : Out := .next (s.onHw fun h => (h.redHoldExpire g.val).redFleet)

end Sys2Proof.Machine
end

