-- ==== Sys2Proof/Machine/Xfers.lean ====
section
/-! DEFINITION. Transfers: what each granule reads, builds and writes (15:R313-R315, R323-R326, 06:R141, R142, R150-R152, R494). -/

namespace Sys2Proof.Machine

/-! ### Shape of a transfer -/

def Xfer.m (x : Xfer) : Word512 := tfMem x.rcd x.srcD x.dstD
def Xfer.fmt (x : Xfer) : Nat := dsFormat x.m
def Xfer.rk (x : Xfer) : Nat := dsRank x.m
def Xfer.ext (x : Xfer) : List Nat := (List.range x.rk).map (tfExtent x.rcd)
def Xfer.memToMem (x : Xfer) : Bool := tfSkind x.rcd = 0 && tfDkind x.rcd = 0
def Xfer.out (x : Xfer) : Bool := tfSkind x.rcd = 1 && tfDkind x.rcd = 0
def Xfer.listed (x : Xfer) : Bool := tfList x.rcd != 0xFFF
/-- The scratchpad side holds stored tiles. -/
def Xfer.tiles (x : Xfer) : Bool := tfSform x.rcd && !x.memToMem && tfDkind x.rcd != 5
/-- Origin on the destination side (15:R314). -/
def Xfer.dorg (x : Xfer) : List Int :=
  if x.memToMem then updAt x.origin (tfDdim x.rcd) (· + tfDshift x.rcd) else x.origin

/-- How a transfer is cut into granules (14 Table 14-4). -/
inductive XPlan where
  | rotate
  | bytes
  | list
  | dtile
  | drecord
  | tile
  | flat
  deriving DecidableEq, Repr

def Xfer.plan (x : Xfer) : XPlan :=
  if tfDkind x.rcd = 5 then .rotate
  else if tfFlat x.rcd then .bytes
  else if x.listed then .list
  else if tfDkind x.rcd = 0 && dsLayout x.dstD = 1 then .dtile
  else if tfDkind x.rcd = 0 && dsLayout x.dstD = 2 then .drecord
  else if x.tiles && !(x.out && dsAcc x.dstD) then .tile
  else .flat

/-- The last two of a list, and those before. -/
def last2 (l : List Nat) : Nat × Nat := (l.getD (l.length - 2) 1, l.getD (l.length - 1) 1)
def lastI2 (l : List Int) : Int × Int := (l.getD (l.length - 2) 0, l.getD (l.length - 1) 0)
def outer {α : Type} (l : List α) : List α := l.take (l.length - 2)

/-- Tile columns counted in pairs under MXPAIR (15:R314). -/
def Xfer.cols (x : Xfer) : Nat := let n := tilesOf (last2 x.ext).2; if tfMxpair x.rcd then n / 2 else n

/-- Scratchpad bytes of one tile or pair. -/
def Xfer.slotSize (x : Xfer) : Nat := if tfMxpair x.rcd then 4352 else tileStored x.fmt

def Xfer.nTiles (x : Xfer) : Nat := boxCount (outer x.ext) * tilesOf (last2 x.ext).1 * x.cols

/-- Destination tiles that the box meets along a dimension: the first and how many. -/
def tileSpan (o : Int) (e : Nat) : Int × Nat := (o / 64, ((o + (e : Int) - 1) / 64 - o / 64 + 1).toNat)

def Xfer.dgrid (x : Xfer) : (Int × Nat) × (Int × Nat) :=
  (tileSpan (lastI2 x.dorg).1 (last2 x.ext).1, tileSpan (lastI2 x.dorg).2 (last2 x.ext).2)

/-- Elements of one piece. -/
def Xfer.per (x : Xfer) : Nat :=
  if x.tiles || (tfSkind x.rcd = 0 && dsLayout x.srcD = 1) then 4096 else 4096 / max 1 (fmtBits x.fmt / 8)

/-- Block records that the box meets: the first and how many. -/
def Xfer.records (x : Xfer) : Nat × Nat :=
  let m := x.dstD
  let lo := flatIdx (dsSizes m) (idxClamp m x.dorg) / 256
  let hi := flatIdx (dsSizes m) (idxClamp m (addIdx x.dorg (x.ext.map (· - 1)))) / 256
  (lo, hi - lo + 1)

/-- The number of granules. -/
def Xfer.granules (x : Xfer) : Nat :=
  match x.plan with
  | .rotate => 1
  | .bytes => 1
  | .list => lsCount x.lst
  | .dtile => boxCount (outer x.ext) * x.dgrid.1.2 * x.dgrid.2.2
  | .drecord => x.records.2
  | .tile => x.nTiles
  | .flat => max 1 ((boxCount x.ext + x.per - 1) / x.per)

/-- Offset and extent of scratchpad tile `g` within the transfer. -/
def Xfer.sub (x : Xfer) (g : Nat) : List Nat × List Nat :=
  let tq := tilesOf (last2 x.ext).1
  let tp := x.cols
  let w := if tfMxpair x.rcd then 128 else 64
  let a := g / tp % tq
  let b := g % tp
  (unflat (outer x.ext) (g / (tq * tp)) ++ [64 * a, w * b],
    (outer x.ext).map (fun _ => 1) ++ [min 64 ((last2 x.ext).1 - 64 * a), min w ((last2 x.ext).2 - w * b)])

/-- Offset and extent of the part that falls into destination tile `g`. -/
def Xfer.dsub (x : Xfer) (g : Nat) : List Nat × List Nat :=
  let na := x.dgrid.1.2
  let nb := x.dgrid.2.2
  let cut (o : Int) (e : Nat) (t : Int) : Nat × Nat :=
    let lo := max o (64 * t)
    let hi := min (o + (e : Int)) (64 * t + 64)
    ((lo - o).toNat, (hi - lo).toNat)
  let p := cut (lastI2 x.dorg).1 (last2 x.ext).1 (x.dgrid.1.1 + ((g / nb % na : Nat) : Int))
  let q := cut (lastI2 x.dorg).2 (last2 x.ext).2 (x.dgrid.2.1 + ((g % nb : Nat) : Int))
  (unflat (outer x.ext) (g / (na * nb)) ++ [p.1, q.1], (outer x.ext).map (fun _ => 1) ++ [p.2, q.2])

/-! ### Whole tiles (15:R314, 06:R141, R142) -/

/-- An index that is the first of a tile inside the index box. -/
def startsTile (m : Word512) (i : List Int) : Bool :=
  dsLayout m = 1 && (lastI2 i).1 % 64 = 0 && (lastI2 i).2 % 64 = 0 && !idxOut m i

/-- In-box rows and columns, in index order, of the tile at an index. -/
def tileBox (m : Word512) (i : List Int) : Nat × Nat :=
  let r := dsRank m
  (min 64 (dsSize m (r - 2) - (lastI2 i).1.toNat), min 64 (dsSize m (r - 1) - (lastI2 i).2.toNat))

/-- The same rectangle as the stored tile holds it. -/
def storedBox (m : Word512) (b : Nat × Nat) : Nat × Nat := if dsTrans m then (b.2, b.1) else b

/-- An edge tile stands unchanged only under constant pad 0 (06:R141). -/
def padZero (m : Word512) : Bool := dsPadmode m = 1 && dsPadval m = 0

/-- A box wholly outside the index box. -/
def offBox (m : Word512) (o : List Int) (e : List Nat) : Bool :=
  ((o.zip e).zip (dsSizes m)).any fun x => decide ((x.2 : Int) ≤ x.1.1) || decide (x.1.1 + (x.1.2 : Int) ≤ 0)

/-- The stored tile may move whole into the destination tile at `dorg + off` (15:R314, 06:R494). -/
def Xfer.wholeTo (x : Xfer) (off sext : List Nat) : Bool :=
  let d := addIdx x.dorg off
  let s := addIdx x.origin off
  let al (i : List Int) : Bool := (lastI2 i).1 % 64 = 0 && (lastI2 i).2 % 64 = 0
  let db := tileBox x.dstD d
  if dsAcc x.dstD || !startsTile x.dstD d || !al x.origin || !al x.dorg || (last2 sext).1 < db.1 || (last2 sext).2 < db.2 then false
  else if x.out then x.tiles
  else if dsFormat x.srcD ≠ dsFormat x.dstD || !startsTile x.srcD s then false
  else
    let sb := tileBox x.srcD s
    let ss := storedBox x.srcD sb
    let sd := storedBox x.dstD db
    !(sb != (64, 64) && !padZero x.srcD && !(fmtIsBxi (dsFormat x.dstD) && sb == db)) && !((sb.1 < db.1 || sb.2 < db.2) && x.win != 0) &&
      decide (ss.1 ≤ sd.1) && decide (ss.2 ≤ sd.2)

/-- A use with TRANS that is not by whole tiles is dropped (06:R142). -/
def Xfer.transOk (x : Xfer) : Bool :=
  let t (d : Word512) : Bool := dsKind d == 1 && dsTrans d
  if !((tfSkind x.rcd = 0 && t x.srcD) || (tfDkind x.rcd = 0 && t x.dstD)) then true
  else match x.plan with
    | .tile => tfSkind x.rcd = 0 && (List.range x.nTiles).all fun g => startsTile x.srcD (addIdx x.origin (x.sub g).1)
    | .dtile => (x.out || dsLayout x.srcD = 1) && (List.range x.granules).all fun g =>
        let o := x.dsub g
        x.wholeTo o.1 o.2 || offBox x.dstD (addIdx x.dorg o.1) o.2
    | _ => false

/-- A use that 06:R136 drops whole. -/
def Xfer.usable (x : Xfer) : Bool :=
  !((tfSkind x.rcd = 0 && dsKind x.srcD ≠ 1) || (tfDkind x.rcd = 0 && (dsKind x.dstD ≠ 1 || !dsWrite x.dstD)) ||
    (x.listed && dsKind x.lst ≠ 3)) && x.transOk

/-! ### Scratchpad sources (02:R50, 05 Table 5-6) -/

/-- The bytes of one stored tile as an export takes them: a guarded tile as it is, any other sealed afresh with GEN. -/
def exportTile (c : Core) (fmt gen addr : Nat) : List Byte :=
  let n := tileStored fmt
  let b := c.spad.readN addr n
  match c.guards.find? fun g => g.base == addr && g.size == n with
  | some g => if g.st = .local_ then tileSeal fmt gen false (b.drop 64) else b
  | none => tileSeal fmt gen false (b.drop 64)

/-- Scratchpad bytes that an issued transfer of a core takes with it. -/
def Xfer.capture (x : Xfer) (c : Core) : List Byte :=
  if tfDkind x.rcd = 5 || tfFlat x.rcd then c.spad.readN x.sp (tfExtent x.rcd 0)
  else if x.listed then
    if x.tiles then (List.range ((lsCount x.lst * 256 + 4095) / 4096)).flatMap fun g =>
      exportTile c x.fmt (tfGen x.rcd) (x.sp + g * tileStored x.fmt)
    else c.spad.readN x.sp (lsCount x.lst * 256 * max 1 (fmtBits x.fmt / 8))
  else if x.tiles then
    (List.range x.nTiles).flatMap fun g => exportTile c x.fmt (tfGen x.rcd) (x.sp + g * tileStored x.fmt)
  else c.spad.readN x.sp (boxCount x.ext * max 1 (fmtBits x.fmt / 8))

def DieCtx.core (x : DieCtx) (i : Nat) : Core := vget x.cores i Core.init
def DieCtx.updCore (x : DieCtx) (i : Nat) (f : Core → Core) : DieCtx := { x with cores := vupd x.cores i f }
def Hw.updCore (h : Hw) (n i : Nat) (f : Core → Core) : Hw := h.updCx n fun x => x.updCore i f

/-- The guard slot of a tile that an export has verified is Verified (05 Table 5-6). -/
def Core.exported (c : Core) (addr fmt : Nat) : Core :=
  { c with guards := c.guards.map fun g =>
      if g.base = addr && g.fmt = fmt && g.st = .unverified then { g with st := .verified } else g }

/-- Tile `g` of the scratchpad source, verified (05 Table 5-6). -/
def Xfer.srcTile (x : Xfer) (e : GEnv) (g : Nat) : GM (List Byte) := do
  let n := tileStored x.fmt
  let a := x.sp + g * n
  let t ← (match e.again .pad a with
    | some t => pure t
    | none =>
      let t := bytesAt (((x.snap.head?).map (·.2)).getD []) (g * n) n
      if tileVerify x.fmt t then pure t else GM.stop (.tile .pad a x.fmt))
  GM.modifyHw fun h => h.updCore e.n x.core fun c => c.exported a x.fmt
  pure t

/-- The scratchpad tile that holds the position at offset `off`. -/
def Xfer.tileOf (x : Xfer) (off : List Nat) : Nat :=
  (flatIdx (outer x.ext) (outer off) * tilesOf (last2 x.ext).1 + (last2 off).1 / 64) * x.cols + (last2 off).2 / 64

/-- The source element at offset `off` of the extent. -/
def Xfer.srcEl (x : Xfer) (e : GEnv) (off : List Nat) : GM El :=
  if tfSkind x.rcd = 0 then readEl e x.srcD (addIdx x.origin off)
  else if x.tiles then do
    let t ← x.srcTile e (x.tileOf off)
    pure (tileEl x.fmt (bytesAt t 64 (tilePayload x.fmt)).toArray ((last2 off).1 % 64) ((last2 off).2 % 64))
  else
    let w := fmtBits x.fmt / 8
    pure ⟨leAt (((x.snap.head?).map (·.2)).getD []) (flatIdx x.ext off * w) w, 0x7F, false⟩

/-- Format of the source elements. -/
def Xfer.srcFmt (x : Xfer) : Nat := if tfSkind x.rcd = 0 then dsFormat x.srcD else x.fmt

/-! ### Deliveries (15:R315, R324, R325) -/

/-- Die of a logical die number of the context on die `n`. -/
def Hw.logical (h : Hw) (n d : Nat) : Option Nat :=
  ((h.die n).owner.bind h.ctx?).bind fun c => (c.ents[d]?).map fun e => e.die.val

/-- Healthy cores that a delivery reaches: die and core. -/
def Hw.dests (h : Hw) (n : Nat) (x : Xfer) : List (Nat × Nat) :=
  if tfDkind x.rcd = 1 then [(n, x.core)]
  else
    let more := ((List.range 16).filter fun d => natFld (tfRdies x.rcd) d 1 = 1).filterMap fun d => h.logical n d
    (firstKeys (n :: more)).flatMap fun d =>
      ((List.range 32).filter fun c => natFld (tfCmask x.rcd) c 1 = 1 && bit (h.die d).healthy c).map fun c => (d, c)

/-- The part of context `num` for die `d`, on the die or saved. -/
def Hw.ctxPart (h : Hw) (num : BitVec 16) (d : Nat) : DieCtx := if h.resident d num then h.cx d else (h.savedCx num d).getD DieCtx.init

/-- Bytes for a saved context go to its scratchpad image, through the fabric from die `from_` (15:R324). -/
def Hw.imageStore (h : Hw) (num : BitVec 16) (n core off : Nat) (data : List Byte) (w : Who) : Hw :=
  match h.savedCx num n with
  | none => h
  | some x =>
    match h.vaWriteR n x.root (x.spImg.toNat + 2 ^ 22 * core + off) data w with
    | .ok h => h
    | .error _ => h

/-- Accesses of an external agent to banks of a core's scratchpad (22 Table 22-1 group 5, 13:R273). -/
def Hw.countBanks (h : Hw) (n c addr len : Nat) (w : Who) : Hw :=
  if len = 0 then h else h.count (ctrCore n c 81) ((addr + len - 1) / 128 + 1 - addr / 128) w.priv w.cls w.src

/-- A delivery of `data` at `addr` to core `c` of a context's die, as `f` applies it: to the core, or to the context's saved part, whose bytes stand in its
scratchpad image; false when `f` refuses it, and then nothing has changed (15:R315, R324). -/
def Hw.landPad (h : Hw) (num : BitVec 16) (d c addr : Nat) (data : List Byte) (w : Who) (f : Core → Core × Bool) : Hw × Bool :=
  let r := f ((h.ctxPart num d).core c)
  if !r.2 then (h, false)
  else if h.resident d num then (((h.updCore d c fun _ => r.1).countBanks d c addr data.length w).carry w.die d data.length w, true)
  else
    let h := h.imageStore num d c addr data w
    (h.updSaved num d fun x => x.updCore c fun _ => { r.1 with spad := [] }, true)

/-- A delivery to each destination core of the context on die `n`, the first refusal stopping the agent as `s` says. -/
def landAll (e : GEnv) (ds : List (Nat × Nat)) (addr : Nat) (data : List Byte) (s : Stop) (f : Core → Core × Bool) : GM Unit :=
  ds.forM fun d => do
    let g ← get
    match (g.h.die e.n).owner with
    | none => pure ()
    | some num =>
      let r := g.h.landPad num d.1 d.2 addr data e.who f
      if r.2 then GM.modifyHw fun _ => r.1 else GM.stop s

/-- Bytes that are no whole stored tile land in each destination's scratchpad (05 Table 5-6); `org` is where they come from (02:R48). -/
def putLocal (e : GEnv) (ds : List (Nat × Nat)) (addr : Nat) (data : List Byte) : GM Unit :=
  landAll e ds addr data .wait fun c => (c.extLocal addr data e.org, true)

/-- A whole stored tile lands in each destination's scratchpad. Where no guard slot is free and the tile fails its verification, the delivering agent
stops at it, and goes on with the bytes of a re-read that verifies (05:R126, R127). -/
def putTile (e : GEnv) (ds : List (Nat × Nat)) (addr fmt : Nat) (st : GuardSt) (data : List Byte) : GM Unit :=
  let t := (e.again .pad addr).getD data
  landAll e ds addr t (.tile .pad addr fmt) fun c => c.deliverTile addr fmt st t e.org

/-- A piece of a ring store leaves for the neighbour; on an abandoned channel it counts as complete and is not applied
(15:R323, R324). -/
def sendStore (e : GEnv) (x : Xfer) (off : Nat) (tile : Bool) (data : List Byte) : GM Unit :=
  GM.modifyHw fun h =>
    let d := h.linkDir (tfLink x.rcd)
    let fs := h.storeFlits d (tfChan x.rcd) (tfRemdie x.rcd) (tfRemcore x.rcd) (64 * tfSpaddr2 x.rcd + off) tile data
    match (h.die e.n).owner with
    | some num =>
      ((h.carry e.n (linkDie (tfLink x.rcd)) data.length e.who).sendOrdered d (tfChan x.rcd) num fs
        ⟨0, e.n, dmaEngine x.stream.val, 0x0D03, x.id⟩).1
    | none => h

/-- Bytes of a Vernier image arrive at each destination's shadow (10:R223, R227). -/
def putTable (e : GEnv) (ds : List (Nat × Nat)) (bank off : Nat) (data : List Byte) : GM Unit :=
  GM.modifyHw fun h => match (h.die e.n).owner with
    | none => h
    | some num => ds.foldl (fun h d =>
        if h.resident d.1 num then (h.updCore d.1 d.2 fun c => vArrive c bank off data).carry e.who.die d.1 data.length e.who
        else (h.updSaved num d.1 fun x => x.updCore d.2 fun c => vArrive c bank off data).carry e.who.die d.1 data.length e.who) h

/-- Bytes or a tile of item offset `off` go to the destination. -/
def Xfer.put (x : Xfer) (e : GEnv) (ds : List (Nat × Nat)) (off : Nat) (tile : Option GuardSt) (data : List Byte) : GM Unit :=
  if tfDkind x.rcd = 3 then sendStore e x off tile.isSome data
  else if tfDkind x.rcd = 4 then putTable e ds (tfVbank x.rcd) off data
  else match tile with
    | some st => putTile e ds (x.sp + off) x.fmt st data
    | none => putLocal e ds (x.sp + off) data

/-! ### Granules -/

/-- One stored tile for the scratchpad side: its bytes and the guard state it registers with (15:R314, 06:R141). -/
def Xfer.tileIn (x : Xfer) (e : GEnv) (sorg : List Int) (sext : List Nat) : GM (List Byte × GuardSt) := do
  let m := x.srcD
  let fmt := x.fmt
  if startsTile m sorg then
    let va := (tilePlace m (idxNat sorg)).1
    let box := storedBox m (tileBox m sorg)
    if box != (64, 64) && !padZero m then
      let p ← rdTile e fmt va
      let f (r c : Nat) : El :=
        if r < box.1 && c < box.2 then tileEl fmt p r c
        else if dsPadmode m = 1 then ⟨dsPadval m, 0x7F, true⟩
        else tileEl fmt p (min r (box.1 - 1)) (min c (box.2 - 1))
      pure (tileSeal fmt (tfGen x.rcd) false (buildDense fmt fmt f), .verified)
    else
      let hd ← rdBytes e va 64
      if (tileHead hd).ok && (tileHead hd).comp then
        let p ← rdTile e fmt va
        pure (tileSeal fmt (tileHead hd).gen false p.toList, .verified)
      else if tfToSpad x.rcd then do
        let t ← rdBytes e va (tileStored fmt)
        pure (t, .unverified)
      else do
        let t ← rdStored e fmt va
        pure (t, .verified)
  else
    let els ← readBox e m sorg sext 0 (boxCount sext)
    let w := (last2 sext).2
    let f (r c : Nat) : El := if r < (last2 sext).1 && c < w then els.getD (r * w + c) El.zero else El.zero
    pure (tileSeal fmt (tfGen x.rcd) false (buildDense fmt fmt f), .verified)

/-- The dense payload of one half of an MXFP4 pair, both tiles verified (07:R160). -/
def Xfer.half (x : Xfer) (e : GEnv) (sorg : List Int) (rows : Nat) : GM (Array Byte) := do
  let m := x.srcD
  if startsTile m sorg && tileBox m sorg = (64, 64) then rdTile e 6 (tilePlace m (idxNat sorg)).1
  else
    let els ← readBox e m sorg ((outer (dsSizes m)).map (fun _ => 1) ++ [rows, 64]) 0 (64 * rows)
    pure (buildDense 6 6 fun r c => if r < rows then els.getD (64 * r + c) El.zero else El.zero).toArray

/-- The MXFP4 operand layout of a pair of tiles (07:R160). -/
def pairLayout (a b : Array Byte) : List Byte :=
  let row (p : Array Byte) (r : Nat) : List Byte := (List.range 32).map fun i => p.getD (32 * r + i) 0
  let sc (p : Array Byte) (r : Nat) : List Byte := [p.getD (2048 + 2 * r) 0, p.getD (2048 + 2 * r + 1) 0]
  ((List.range 64).flatMap fun r => row a r ++ row b r) ++ ((List.range 64).flatMap fun r => sc a r ++ sc b r)

/-- A tile of the scratchpad moves whole to the tile at `d`; elements outside the box are stored as zeros (06:R141). -/
def Xfer.exportTo (x : Xfer) (t : List Byte) (d : List Int) : List Byte :=
  let m := x.dstD
  let fmt := x.fmt
  let box := storedBox m (tileBox m d)
  let p := (bytesAt t 64 (tilePayload fmt)).toArray
  let els := packElems fmt ((List.range 4096).map fun k =>
    if k / 64 < box.1 && k % 64 < box.2 then (tileEl fmt p (k / 64) (k % 64)).raw else 0)
  let q := if box = (64, 64) then p.toList
    else p.toList.take (tileElem0 fmt) ++ els ++ p.toList.drop (tileElem0 fmt + 512 * fmtBits fmt)
  if dsCompw m then tileSeal fmt (tileHead t).gen true q
  else if q == p.toList then t else tileSeal fmt (tfGen x.rcd) false q

/-- Positions of a block of a list entry, with the source offsets of a packed side. -/
def Xfer.blockIdx (x : Xfer) (cs : List Int) : List (List Int) :=
  let o := (cs.take (x.rk - 2)) ++ [16 * (lastI2 cs).1, 16 * (lastI2 cs).2]
  (List.range 256).map fun j => addIdx o ((List.range (x.rk - 2)).map (fun _ => 0) ++ [j / 16, j % 16])

/-- Coordinates of list entry `k`; none when an unused word is not zero (06:R150). -/
def Xfer.entry (x : Xfer) (e : GEnv) (k : Nat) : GM (Option (List Int)) := do
  let b ← rdBytes e (dsBase x.lst + 32 * k) 32
  let w (i : Nat) : Int := toSigned 32 (leAt b (4 * i) 4)
  pure (if ((List.range 8).drop x.rk).any fun i => w i ≠ 0 then none else some ((List.range x.rk).map w))

/-- The elements of list entry `k` as a read gives them (06:R150). A block that an entry with a non-zero unused word names lies wholly out of bounds;
clamping brings each of its indices to some element of the tensor, and which one is left open (log 77). -/
def Xfer.readEntry (x : Xfer) (e : GEnv) (m : Word512) (k : Nat) : GM (List El) := do
  let c ← x.entry e k
  match c with
  | some cs => (x.blockIdx cs).mapM fun i => readEl e m i
  | none =>
    if dsPadmode m = 1 then pure (List.replicate 256 ⟨dsPadval m, 0x7F, true⟩)
    else (List.range 256).mapM fun j => do
      let i := unflat (dsSizes m) (Config.clampedTo (dsBase x.lst + 32 * k) j % max 1 (dsCount m))
      let v ← readEl e m (i.map fun (a : Nat) => (a : Int))
      pure { v with pad := true }

/-- Element (row, column) of the tile that block `b` covers at position `j` (05:R118). -/
def blockCell (b j : Nat) : Nat := 64 * (16 * (b / 4) + j / 16) + 16 * (b % 4) + j % 16

/-- Destination indices of a list entry's block. -/
def Xfer.entryDst (x : Xfer) (cs : List Int) : List (List Int) :=
  (x.blockIdx cs).map fun i => if x.memToMem then updAt i (tfDdim x.rcd) (· + tfDshift x.rcd) else i

/-- Destination elements that a list entry writes, as tile slot and place: in bounds, and not withheld as pad outside the owned window (06:R148). -/
def Xfer.entryWrites (x : Xfer) (c : Option (List Int)) : List (Nat × List Nat) :=
  match c with
  | none => []
  | some cs => ((x.blockIdx cs).zip (x.entryDst cs)).filterMap fun p =>
      let pad := tfSkind x.rcd = 0 && idxOut x.srcD p.1
      if idxOut x.dstD p.2 || (pad && !inWindow x.win (idxNat p.2)) then none
      else some ((tilePlace x.dstD (idxNat p.2)).1, idxNat p.2)

/-- Destination tiles that entry `k` is the first to touch and the whole list writes in full: built afresh (06:R494). -/
def Xfer.listFresh (x : Xfer) (e : GEnv) (k : Nat) : GM (Nat → Bool) := do
  if dsLayout x.dstD ≠ 1 || dsAcc x.dstD then pure fun _ => false
  else
    let cs ← (List.range (lsCount x.lst)).mapM fun i => x.entry e i
    let ws := cs.map x.entryWrites
    pure fun slot =>
      !((ws.take k).flatten.any fun p => p.1 == slot) &&
        (let els := ws.flatten.filter fun p => p.1 == slot
         match els with
         | [] => false
         | p :: _ => decide ((els.foldl (fun (a : List (List Nat)) q => if a.contains q.2 then a else a ++ [q.2]) []).length = inBoxOf x.dstD p.2))

/-- One list entry (06:R150-R152). -/
def Xfer.listGranule (x : Xfer) (e : GEnv) (ds : List (Nat × Nat)) (k : Nat) : GM Unit := do
  let w := max 1 (fmtBits x.fmt / 8)
  if tfDkind x.rcd = 0 then
    let c ← x.entry e k
    let els ← (if tfSkind x.rcd = 0 then x.readEntry e x.srcD k
      else if x.tiles then do
        let t ← x.srcTile e (k / 16)
        let p := (bytesAt t 64 (tilePayload x.fmt)).toArray
        pure ((List.range 256).map fun j => tileEl x.fmt p (blockCell (k % 16) j / 64) (blockCell (k % 16) j % 64))
      else pure ((List.range 256).map fun j =>
        (⟨leAt (((x.snap.head?).map (·.2)).getD []) ((256 * k + j) * w) w, 0x7F, false⟩ : El)))
    match c with
    | none => modify fun g => { g with dropped := g.dropped + 256 }
    | some cs =>
      let fr ← x.listFresh e k
      writeEls e x.dstD x.win x.srcFmt (tfGen x.rcd) fr ((x.entryDst cs).zip els)
  else if x.tiles then
    -- the tile, or the pair of tiles of two times 16 entries (log 78, DESIGN CHOICE), stands for the entries up to this one
    let per := if tfMxpair x.rcd then 32 else 16
    let k0 := k / per * per
    let blocks ← (List.range (k - k0 + 1)).mapM fun i => x.readEntry e x.srcD (k0 + i)
    let f (t r c : Nat) : El :=
      ((blocks[16 * t + 4 * (r / 16) + c / 16]?).map fun l => l.getD (16 * (r % 16) + c % 16) El.zero).getD El.zero
    if tfMxpair x.rcd then
      x.put e ds (k / 32 * 4352) none (pairLayout (buildDense 6 6 (f 0)).toArray (buildDense 6 6 (f 1)).toArray)
    else x.put e ds (k / 16 * tileStored x.fmt) (some .verified) (tileSeal x.fmt (tfGen x.rcd) false (buildDense x.fmt x.fmt (f 0)))
  else
    let els ← x.readEntry e x.srcD k
    x.put e ds (256 * k * w) none (els.flatMap fun v => leBytes w v.raw)

/-- Guarded tiles that lie whole in a range taken from a core. -/
def Xfer.wholeGuards (x : Xfer) (src len : Nat) : List Guard :=
  (((x.snapGuards.find? fun p => p.1 == src).map (·.2)).getD []).filter fun q =>
    decide (x.sp ≤ q.base) && decide (q.base + q.size ≤ x.sp + len)

/-- A rotate: every core's range goes to the core of the next rank (15:R326). -/
def Xfer.rotateGranule (x : Xfer) (e : GEnv) : GM Unit :=
  let cores := (List.range 32).filter fun c => natFld (tfCmask x.rcd) c 1 = 1
  let a := cores.length
  (List.range a).forM fun r => do
    let src := cores.getD r 0
    let dst := cores.getD ((r + 1) % a) 0
    match x.snap.find? fun s => s.1 == src with
    | none => pure ()
    | some s =>
      let g ← get
      if bit (g.h.die e.n).healthy dst then
        putLocal e [(e.n, dst)] (64 * tfSpaddr2 x.rcd) s.2
        ((x.wholeGuards src s.2.length).filter fun q => q.st != .local_).forM fun q =>
          putTile e [(e.n, dst)] (64 * tfSpaddr2 x.rcd + (q.base - x.sp)) q.fmt .unverified (bytesAt s.2 (q.base - x.sp) q.size)
      else pure ()

/-- A tile of a guard slot as it is exported: verified, or sealed afresh where a core has written into it (05 Table 5-6). -/
def Xfer.guardedTile (x : Xfer) (e : GEnv) (q : Guard) (bytes : List Byte) : GM (List Byte × GuardSt) :=
  if q.st = .local_ then pure (tileSeal q.fmt (tfGen x.rcd) false (bytes.drop 64), .verified)
  else match e.again .pad q.base with
    | some t => pure (t, .unverified)
    | none => if tileVerify q.fmt bytes then pure (bytes, .unverified) else GM.stop (.tile .pad q.base q.fmt)

/-- A range of a scratchpad goes to scratchpads: a tile that a guard slot covers is exported whole, every other byte arrives as a Local write (15:R315,
05 Table 5-6, log 76, DESIGN CHOICE). The source of a multicast is the lowest served core. -/
def Xfer.bytesGranule (x : Xfer) (e : GEnv) (ds : List (Nat × Nat)) : GM Unit :=
  match (List.range 32).findSome? fun c => x.snap.find? fun s => s.1 == c with
  | none => pure ()
  | some s => do
    let ts ← (x.wholeGuards s.1 s.2.length).mapM fun q => do
      let t ← x.guardedTile e q (bytesAt s.2 (q.base - x.sp) q.size)
      pure (q, t)
    if tfDkind x.rcd = 3 then sendStore e x 0 false s.2 else putLocal e ds x.sp s.2
    ts.forM fun t =>
      if tfDkind x.rcd = 3 then sendStore e x (t.1.base - x.sp) true t.2.1 else putTile e ds t.1.base t.1.fmt t.2.2 t.2.1

/-- One granule of a transfer. -/
def Xfer.granule (x : Xfer) (e : GEnv) : GM Unit := do
  let g := x.next
  let st ← get
  let ds := st.h.dests e.n x
  match x.plan with
  | .rotate => x.rotateGranule e
  | .bytes => x.bytesGranule e ds
  | .list => x.listGranule e ds g
  | .dtile =>
    let o := x.dsub g
    let d := addIdx x.dorg o.1
    if offBox x.dstD d o.2 then modify fun s => { s with dropped := s.dropped + boxCount o.2 }
    else if x.wholeTo o.1 o.2 then
      let slot := (tilePlace x.dstD (idxNat d)).1
      let t ← (if x.out then do
          let t ← x.srcTile e (x.tileOf o.1)
          pure (x.exportTo t d)
        else rdStored e (dsFormat x.srcD) (tilePlace x.srcD (idxNat (addIdx x.origin o.1))).1)
      wrBytes e slot t
      modify fun s => { s with dropped := s.dropped + (boxCount o.2 - (tileBox x.dstD d).1 * (tileBox x.dstD d).2) }
    else
      let els ← (List.range (boxCount o.2)).mapM fun j => do
        let p := List.zipWith (· + ·) o.1 (unflat o.2 j)
        let v ← x.srcEl e p
        pure (addIdx x.dorg p, v)
      writeEls e x.dstD x.win x.srcFmt (tfGen x.rcd) (fun _ => false) els
  | .drecord =>
    let sizes := dsSizes x.dstD
    let first := 256 * (x.records.1 + g)
    let idx := (List.range 256).filterMap fun j =>
      if first + j < dsCount x.dstD then
        let i := unflat sizes (first + j)
        let off := List.zipWith (fun (a : Nat) (o : Int) => (a : Int) - o) i x.dorg
        if (off.zip x.ext).all fun p => decide (0 ≤ p.1) && decide (p.1 < (p.2 : Int)) then some (idxNat off) else none
      else none
    if g = 0 then
      let inside := ((x.dorg.zip x.ext).zip sizes).foldl (fun (a : Nat) p =>
        a * (min (p.1.1 + (p.1.2 : Int)) (p.2 : Int) - max p.1.1 0).toNat) 1
      modify fun s => { s with dropped := s.dropped + (boxCount x.ext - inside) }
    let els ← idx.mapM fun p => do
      let v ← x.srcEl e p
      pure (addIdx x.dorg p, v)
    writeEls e x.dstD x.win x.srcFmt (tfGen x.rcd) (fun _ => false) els
  | .tile =>
    let o := x.sub g
    if x.out then
      let els ← (List.range (boxCount o.2)).mapM fun j => do
        let p := List.zipWith (· + ·) o.1 (unflat o.2 j)
        let v ← x.srcEl e p
        pure (addIdx x.dorg p, v)
      writeEls e x.dstD x.win x.srcFmt (tfGen x.rcd) (fun _ => false) els
    else if tfMxpair x.rcd then
      let a ← x.half e (addIdx x.origin o.1) (last2 o.2).1
      let b ← x.half e (addIdx x.origin (updAt o.1 (x.rk - 1) (· + 64))) (last2 o.2).1
      x.put e ds (g * 4352) none (pairLayout a b)
    else
      let t ← x.tileIn e (addIdx x.origin o.1) o.2
      x.put e ds (g * tileStored x.fmt) (some t.2) t.1
  | .flat =>
    let first := g * x.per
    let n := min x.per (boxCount x.ext - first)
    let w := max 1 (fmtBits x.fmt / 8)
    let els ← (List.range n).mapM fun j => do
      let p := unflat x.ext (first + j)
      let v ← x.srcEl e p
      pure (p, v)
    if tfDkind x.rcd = 0 then
      writeEls e x.dstD x.win x.srcFmt (tfGen x.rcd) (fun _ => false) (els.map fun p => (addIdx x.dorg p.1, p.2))
    else x.put e ds (first * w) none (els.flatMap fun p => leBytes w p.2.raw)

end Sys2Proof.Machine
end

