-- ==== Sys2Proof/Machine/Arrive.lean ====
section
/-! DEFINITION. What arrives on ordered channels: ring stores and remote signals (15:R324, 03:R70, 16:R335, R336, 20:R425). -/

namespace Sys2Proof.Machine

/-- A store lands in a core: a tile registers Unverified, other bytes are a Local write (15:R315). A tile that finds no guard
slot and fails its own verification is not written (05:R126), and the second part is false. -/
def Core.landStore (c : Core) (org : Nat) (st : RingStore) : Core × Bool :=
  if st.tile then c.deliverTile st.addr.toNat st.fmt.toNat .unverified st.data org else (c.extLocal st.addr.toNat st.data org, true)

/-- A ring-store tile that found no guard slot fails its verification: no row carries its re-read, which fails; 0x0B21 is raised and the
context is pre-empted (05:R126, R127, log 70, DESIGN CHOICE). -/
def Hw.storeBad (h : Hw) (num : BitVec 16) (n addr : Nat) : Hw :=
  let seq := h.host.seq
  let h := h.raise ⟨0x0B21, n, 0xFF, engineAmong 0x0B21 n (dieEngines n), 0, addr, some num⟩
  let h := h.updCtx num fun c => if c.stopCode = 0 then { c with stopCode := 0x0B21, stopSeq := seq } else c
  if h.resident n num then h.preemptCtx num else h

/-- A store that came on channel `k` lands for a context whose die is at work or saved. -/
def Hw.landStore (h : Hw) (num : BitVec 16) (k : Nat) (st : RingStore) : Hw :=
  let n := st.die.val
  let c := st.core.val
  if h.resident n num && !bit (h.die n).healthy c then h
  else
    let r := h.landPad num n c st.addr.toNat st.data ⟨.program, 8, srcBytes 96 0xFF 0x50⟩ fun x => x.landStore (16 + k) st
    if r.2 then r.1 else h.storeBad num n st.addr.toNat

/-- What has arrived on channel `k` takes effect, and its receive buffers are free. -/
def Hw.land (h : Hw) (num : BitVec 16) (k : Nat) (a : Arrival) : Hw :=
  let h := h.drainChan k
  match a with
  | .store st => h.landStore num k st
  | .signal d sem amount => h.semAdd num d sem.val amount (16 + k)

/-- Arrivals for a context wait while a Waypoint take copies, while the die it is for saves or restores, and behind those
that wait already (15:R324, 20:R425). -/
def Hw.mustHold (h : Hw) (c : Ctx) (a : Arrival) : Bool :=
  let n := match a with | .store st => st.die.val | .signal d _ _ => d
  let isStore := match a with | .store _ => true | .signal _ _ _ => false
  c.holding || !c.arrivals.isEmpty || (isStore && h.resident n c.num && (h.die n).phase == .draining)

/-- Something arrives on an ordered channel: an unbound or abandoned end abandons the channel (16:R335, R336). -/
def Hw.arrive (h : Hw) (k : Nat) (a : Arrival) : Hw :=
  let b := h.chb k
  if !b.opened then h.abandon k
  else match h.ctx? b.ctx with
    | none => h.abandon k
    | some c =>
      if h.mustHold c a then h.updCtx b.ctx fun c => { c with arrivals := c.arrivals ++ [(k, a)] }
      else h.land b.ctx k a

/-- Arrivals that waited land in order, unless the take goes on or a die of the context still saves. -/
def Hw.landHeld (h : Hw) (num : BitVec 16) : Hw :=
  match h.ctx? num with
  | none => h
  | some c =>
    if c.holding || c.ents.any fun e => h.resident e.die.val num && (h.die e.die.val).phase == .draining then h
    else
      let h := h.updCtx num fun c => { c with arrivals := [] }
      c.arrivals.foldl (fun h a => h.land num a.1 a.2) h

/-- The ordered channel of direction X+ or X− on which link `l` brings flits of channel `ch`, if it is one. -/
def Hw.linkChan (h : Hw) (l ch : Nat) : Option Nat := if h.linkDir l < 2 then some (chIndex (h.linkDir l) ch) else none

/-- RING_STORE_ARRIVE (15:R324). -/
def execRingStoreArrive (l : Fin 48) (ch : Fin 64) (store : RingStore) (s : State) : Out :=
  .next (s.onHw fun h => match h.linkChan l.val ch.val with
    | some k => h.arrive k (.store store)
    | none => h)

/-- REMOTE_SIGNAL_ARRIVE (03:R70). -/
def execRemoteSignalArrive (l : Fin 48) (ch : Fin 64) (die : Fin 128) (sem : Fin 64) (amount : Fin 16) (s : State) : Out :=
  .next (s.onHw fun h => match h.linkChan l.val ch.val with
    | some k => h.arrive k (.signal die.val sem (amount.val + 1))
    | none => h)

end Sys2Proof.Machine
end

