-- ==== Sys2Proof/Machine/Streams.lean ====
section
/-! DEFINITION. Streams, small transfers, releases: what a trigger issues and what completions signal (15:R316-R321, 02:R51, 03:R69-R72). -/

namespace Sys2Proof.Machine

/-! ### Served cores and ranks (15:R317) -/

def maskCores (mask : Nat) : List Nat := (List.range 32).filter fun c => natFld mask c 1 = 1

/-- Healthy cores that a stream serves. -/
def Hw.served (h : Hw) (n : Nat) (s : StreamSt) : List Nat := (maskCores (stCmask s.rcd)).filter fun c => bit (h.die n).healthy c

/-- Rank of a core among a mask; retired cores keep their rank. -/
def rankIn (mask c : Nat) : Nat := popCount mask c

/-- The transfer record of a stream as it stands in its slot. -/
def DieCtx.tslot (x : DieCtx) (s : StreamSt) : Word512 := x.slot (stTslot s.rcd)

/-- Issued once per trigger word (15 Table 15-3). -/
def tfOnce (t : Word512) : Bool := let k := tfDkind t; k == 2 || k == 4 || k == 5

/-- The transfer of item `k` for a core: its descriptors as they stand now (15:R317, 06:R136). -/
def DieCtx.mkXfer (x : DieCtx) (s : StreamSt) (c k : Nat) : Xfer :=
  let t := x.tslot s
  let srcD := if tfSkind t = 0 then x.slot (tfSrc t) else 0
  let dstD := if tfDkind t = 0 then x.slot (tfDst t) else 0
  let m := tfMem t srcD dstD
  let period := stPeriod s.rcd
  let i : Int := ((if period = 0 then k else k % period : Nat) : Int)
  let r := if tfOnce t then 0 else rankIn (stCmask s.rcd) c
  let o := (List.range (dsRank m)).map (tfOrigin t)
  let o := updAt o (stSdim s.rcd) (· + i * stSamt s.rcd)
  let o := updAt o (stCdim s.rcd) (· + (r : Int) * stCamt s.rcd)
  { id := x.nextId, stream := ⟨stSnum s.rcd % 64, Nat.mod_lt _ (by decide)⟩, item := k, core := c
    rank := rankIn (stCmask s.rcd) c, rcd := t, srcD := srcD, dstD := dstD
    lst := if tfList t = 0xFFF then 0 else x.slot (tfList t)
    win := if tfDkind t = 0 && dsWinen dstD then x.slot (dsWinslot dstD) else 0
    origin := o, sp := 64 * (stSpbase s.rcd + k % stDepth s.rcd * stPitch s.rcd)
    snap := [], snapGuards := [], next := 0, total := 0, stall := .run, dropped := false, chained := false, ack := none }

def DieCtx.updStream (x : DieCtx) (k : Nat) (f : StreamSt → StreamSt) : DieCtx :=
  { x with streams := x.streams.map fun e => if e.1 = k then (e.1, f e.2) else e }
def Hw.updStream (h : Hw) (n k : Nat) (f : StreamSt → StreamSt) : Hw := h.updCx n fun x => x.updStream k f

/-- One more on a core's count. -/
def bump (l : List (Nat × Nat)) (c : Nat) : List (Nat × Nat) := alPut l c (alGet 0 l c + 1)

/-! ### Releases (02:R51) -/

/-- OP of a job record (11 Table 11-1). -/
def gjOp (w : Word512) : Nat := fld w 511 508

/-- Transfers of a die that have not completed: a product job counts by its rounds, any other job and one whose record is still unread from its first
trigger on (11:R240); a dropped transfer counts as complete (06:R136). -/
def DieCtx.outstanding (x : DieCtx) : List Nat :=
  (x.xfers.filter fun t => !t.dropped).map (·.id) ++ x.smalls.map (·.id) ++
    x.gmes.toList.flatMap (fun g => g.back.map (·.round.id) ++ g.adding ++ (g.bjobs.filter fun j => !j.known || gjOp j.rcd ≠ 1).map (·.id) ++
      g.hjobs.map (·.id)) ++
    x.puus.toList.flatMap fun p => p.queue.map (·.id)

/-- Words that a core has executed include the word of step `t`. -/
def ranPast (step t : BitVec 48) : Bool := step != t && decide ((step - t).toNat < 2 ^ 47)

/-- Every healthy core of a die has executed the word of step `t`. -/
def Hw.allPast (h : Hw) (n : Nat) (t : BitVec 48) : Bool :=
  ((List.range 32).filter fun c => bit (h.die n).healthy c).all fun c => ranPast ((h.cx n).core c).step t

/-- A signal takes effect at its target; a remote one travels on its channel (03:R70). The place of SEM and the amount in
the flit is the model's (log 20, DESIGN CHOICE). -/
def Hw.fireSignal (h : Hw) (n : Nat) (g : PendSig) : Hw :=
  match (h.die n).owner with
  | none => h
  | some num =>
    match g.remote with
    | none => h.semAdd num g.die g.sem.toNat g.amount n
    | some (link, ch) =>
      let d := h.linkDir link
      let f := h.orderedFlit d ch g.die 0 3 0 [BitVec.ofNat 8 g.sem.toNat, BitVec.ofNat 8 g.amount]
      (h.sendOrdered d ch num [f] ⟨0, n, 0x01, 0x0307, (h.chb (chIndex d ch)).sent⟩).1

/-- A signal whose word every core has executed and whose transfers have completed (02:R51, 03:R69). -/
def Hw.sigReady (h : Hw) (n : Nat) (g : PendSig) : Bool :=
  h.allPast n g.step && !g.waits.any fun i => (h.cx n).outstanding.contains i

/-- Signals that may take effect do so, in order. -/
def Hw.releaseFrom (n : Nat) : List PendSig → Hw → Hw
  | [], h => h
  | g :: r, h =>
    if h.sigReady n g then
      Hw.releaseFrom n r ((h.updCx n fun x => { x with sigs := x.sigs.erase g }).fireSignal n g)
    else Hw.releaseFrom n r h

def Hw.release (h : Hw) (n : Nat) : Hw := Hw.releaseFrom n (h.cx n).sigs h

/-- A transfer issued by a core's word of step `t` belongs to every signal of that word or a later one (02:R51). -/
def DieCtx.cover (x : DieCtx) (t : BitVec 48) (id : Nat) : DieCtx :=
  { x with sigs := x.sigs.map fun g => if (g.step - t).toNat < 2 ^ 47 then { g with waits := g.waits ++ [id] } else g }

/-! ### Items (15:R318, R319) -/

/-- An item has landed or completed for a core, or for every served core. -/
def Hw.itemDone (h : Hw) (n k core : Nat) (once : Bool) : Hw :=
  match (h.cx n).stream? k with
  | none => h
  | some s =>
    let cs := if once then h.served n s else [core]
    h.updStream n k fun s => { s with landed := cs.foldl bump s.landed }

/-- An item of the stream and core, earlier than transfer `x`, has not completed (15:R322). -/
def DieCtx.earlier (x : DieCtx) (t : Xfer) : Bool :=
  x.xfers.any fun u => u.stream == t.stream && (u.core == t.core || tfOnce t.rcd) && decide (u.item < t.item)

/-- Dropped items complete as their turn comes, in item order (06:R136, 15:R322). -/
def Hw.settle (n k : Nat) : Nat → Hw → Hw
  | 0, h => h
  | fuel + 1, h =>
    match (h.cx n).xfers.find? fun t => t.stream.val == k && t.dropped && !(h.cx n).earlier t with
    | none => h
    | some t =>
      Hw.settle n k fuel ((h.updCx n fun y => { y with xfers := y.xfers.filter fun u => u.id != t.id }).itemDone n k t.core (tfOnce t.rcd))

/-- Dropped items of a stream that can complete do so. -/
def Hw.settleItems (h : Hw) (n k : Nat) : Hw := Hw.settle n k ((h.cx n).xfers.length) h

/-- What an item takes of the scratchpads is taken of each core at its own trigger (15:R315). -/
def tfTaken (t : Word512) : Bool := tfDkind t == 5 || (tfFlat t && tfDkind t == 2)

/-- A delivery of die `n` begins: through its multicast tree, or in chain form where the tree is faulted (15:R325). -/
def Hw.delivered (h : Hw) (n : Nat) (p : Priv) (cls src : Nat) : Hw :=
  if (h.die n).mcFault then
    (h.count (ctrDie n 82) 1 p cls src).updDie n fun d => { d with mcChained := BitVec.ofNat 24 (satInc (2 ^ 24 - 1) d.mcChained.toNat) }
  else h.count (ctrDie n 81) 1 p cls src

/-- Item `k` for core `c` is issued, with what it takes of the core's scratchpad as `spad` gives it (02:R50). -/
def Hw.issueItem (h : Hw) (n : Nat) (s : StreamSt) (c k : Nat) (t : BitVec 48) (spad : Core) : Hw :=
  let x0 := (h.cx n).mkXfer s c k
  let snum := stSnum s.rcd
  let once := tfOnce x0.rcd
  let who : Priv × Nat × Nat := (.program, 1, srcBytes n 0xFF (dmaEngine snum))
  let h := h.count (ctrDie n 64) 1 who.1 who.2.1 who.2.2
  let h := h.updStream n snum fun s => { s with
    issued := (if once then h.served n s else [c]).foldl bump s.issued, snaps := s.snaps.filter fun p => p.1 != k }
  if dsKind x0.rcd ≠ 4 || !x0.usable then
    let h := (h.raiseDie n 0x0504 0xFF (dmaEngine snum)).count (ctrDie n 34) 1 who.1 who.2.1 who.2.2
    (h.updCx n fun y => { y with xfers := y.xfers ++ [{ x0 with dropped := true }], nextId := y.nextId + 1 }).settleItems n snum
  else
    let taken := if tfTaken x0.rcd then s.snaps.filter fun p => p.1 == k else []
    let tree := x0.tree
    let chain := tree && (h.die n).mcFault
    let x : Xfer := { x0 with
      snap := if tfTaken x0.rcd then taken.map fun p => (p.2.1, p.2.2.1)
        else if tfSkind x0.rcd = 1 then [(c, x0.capture spad)] else []
      snapGuards := if tfTaken x0.rcd then taken.map fun p => (p.2.1, p.2.2.2) else if tfFlat x0.rcd then [(c, spad.guards)] else []
      total := x0.granules, chained := chain }
    let h := if tree then h.delivered n who.1 3 who.2.2 else h
    -- the bytes that it takes now are read from the scratchpad's banks
    let h := if tfTaken x0.rcd then h else x.snap.foldl (fun h p => h.countBanks n p.1 x.sp p.2.length ⟨who.1, who.2.1, who.2.2⟩) h
    h.updCx n fun y => ({ y with xfers := y.xfers ++ [x], nextId := y.nextId + 1 }).cover t x.id

/-- The count that bounds the once-per-word items: the least trigger count of the served cores. -/
def Hw.leastTrig (h : Hw) (n : Nat) (s : StreamSt) : Nat :=
  match h.served n s with
  | [] => 0
  | c :: r => minOf (alGet 0 s.trig c) (r.map (alGet 0 s.trig))

/-- Items up to `lim` (exclusive) that a core, or all together, may issue and have not. -/
def Hw.issueUpTo (h : Hw) (n k c lim : Nat) (t : BitVec 48) (spad : Core) : Hw :=
  match (h.cx n).stream? k with
  | none => h
  | some s =>
    let from_ := alGet 0 s.issued c
    ((List.range (lim - from_)).map (· + from_)).foldl (fun h i => h.issueItem n s c i t spad) h

/-- A stream opens: a fetch stream issues its first D items for every served core (15:R318). -/
def Hw.openStream (h : Hw) (n k : Nat) : Hw :=
  match (h.cx n).stream? k with
  | none => h
  | some s =>
    if stMode s.rcd = 1 then
      let lim := min (stDepth s.rcd) (stCount s.rcd)
      let cs := h.served n s
      let cs := if tfOnce ((h.cx n).tslot s) then cs.take 1 else cs
      cs.foldl (fun h c => h.issueUpTo n k c lim (h.cx n).helm.step ((h.cx n).core c)) h
    else h

/-- A stream record enters a slot: its stream is bound and open (15:R316, R317). -/
def DieCtx.bindStream (x : DieCtx) (slot : Nat) (rcd : Word512) : DieCtx :=
  { x with streams := alPut x.streams (stSnum rcd) ⟨BitVec.ofNat 12 slot, rcd, true, [], [], [], 0, 0, none, none, []⟩ }

/-- The slot of a stream record is destroyed or emptied: the stream closes, and items already issued complete. -/
def DieCtx.unbindStream (x : DieCtx) (snum : Nat) : DieCtx :=
  { x with streams := x.streams.filter fun e => e.1 != snum }

def DieCtx.boundStream (x : DieCtx) (snum : Nat) : Bool := x.streams.any fun e => e.1 == snum

/-! ### Triggers (15:R317-R320) -/

/-- Closing: every served core has triggered COUNT times. A GME stream closes by its jobs. -/
def Hw.closeIfDone (h : Hw) (n k : Nat) : Hw :=
  match (h.cx n).stream? k with
  | none => h
  | some s =>
    if stMode s.rcd ≠ 3 && (h.served n s).all fun c => decide (stCount s.rcd ≤ alGet 0 s.trig c) then
      h.updStream n k fun s => { s with isOpen := false }
    else h

/-- The counters of a GME's or PUU's own traffic. -/
def gmeWho (n cl : Nat) (hash : Bool) : Who := ⟨.program, if hash then 5 else 4, srcBytes n 0xFF (0x10 + cl)⟩

/-- A job takes its place by its first trigger. -/
def insertJob (j : GJob) : List GJob → List GJob
  | [] => [j]
  | k :: r => if j.id < k.id then j :: k :: r else k :: insertJob j r

/-- A job stands in its accumulator's queue; one that is not read yet stands with the banked jobs. -/
def Gme.queue (g : Gme) (j : GJob) : Gme :=
  if gjOp j.rcd = 3 || gjOp j.rcd = 4 then { g with hjobs := insertJob j g.hjobs } else { g with bjobs := insertJob j g.bjobs }

def Hw.gme (h : Hw) (n cl : Nat) : Gme := vget (h.cx n).gmes cl Gme.init
def Hw.updGme (h : Hw) (n cl : Nat) (f : Gme → Gme) : Hw := h.updCx n fun x => { x with gmes := vupd x.gmes cl f }
def Hw.puu (h : Hw) (n cl : Nat) : Puu := vget (h.cx n).puus cl Puu.init
def Hw.updPuu (h : Hw) (n cl : Nat) (f : Puu → Puu) : Hw := h.updCx n fun x => { x with puus := vupd x.puus cl f }
def gmeAgent (cl : Nat) : Agent := .gme ⟨cl % 4, Nat.mod_lt _ (by decide)⟩

/-- The job record; one that lies elsewhere than in the local stack is not read (11:R233). -/
def Hw.gmeRead (h : Hw) (n cl : Nat) (j : GJob) : Except Stop (GJob × Hw) := do
  let l ← h.walk n (h.cx n).root j.addr 1
  if l.host || l.stk ≠ n then .ok ({ j with known := true, foreign := true, stall := .run }, h)
  else
    let r ← h.vaRead n j.addr 64 (gmeWho n cl false)
    let w : Word512 := BitVec.ofNat 512 (leNat r.1)
    -- the read counts under the class that the job's OP gives (11:R250)
    let r ← h.vaRead n j.addr 64 (gmeWho n cl (3 ≤ gjOp w))
    .ok ({ j with known := true, rcd := w, stall := .run }, r.2)

/-- The job record is read at the job's first trigger; the job then stands in its accumulator's queue (11:R233). -/
def Hw.gmeFetch (h : Hw) (n cl : Nat) (j : GJob) : Hw :=
  match h.gmeRead n cl j with
  | .ok r => (r.2.faultPast n (gmeAgent cl) (gmeInfo (r.2.cx n) cl j) j.stall).updGme n cl fun g => g.queue r.1
  | .error s =>
    let st := h.stopAgent n (gmeAgent cl) (gmeInfo (h.cx n) cl j) j.stall s
    st.2.updGme n cl fun g => g.queue { j with stall := st.1 }

/-- A trigger of a GME stream: a hand-back when the core holds a delivered round, else the next job's start
(11:R233, R237, R239, 15:R320). -/
def Hw.gmeTrigger (h : Hw) (n : Nat) (s : StreamSt) (c : Nat) (t : BitVec 48) (spad : Core) : Hw :=
  let k := stSnum s.rcd
  let cl := stCluster s.rcd
  let g := vget (h.cx n).gmes cl Gme.init
  let mine (r : Round) : Bool := r.core == c && r.stream.val == k
  match g.rounds.find? mine with
  | some r =>
    let held := (g.rounds.filter mine).length
    let pitch := 0x8000 + (s.q.getD 1) * 0x2000
    let base := 64 * stSpbase s.rcd + (alGet 0 s.landed c - held) % stDepth s.rcd * pitch
    let id := (h.cx n).nextId
    h.updCx n fun x => ({ x with
      nextId := x.nextId + 1
      gmes := vupd x.gmes cl fun g => { g with
        rounds := g.rounds.erase r
        back := g.back ++ [({ round := { r with id := id }, data := spad.spad.readN (base + 0x6800) (16 * r.strips.length * 512), row := 0 } : Back)] } }).cover t id
  | none =>
    let product := g.bjobs.any fun j => j.stream.val == k && gjOp j.rcd == 1
    let again := match s.lastStart with | some u => !ranPast t u | none => false
    if product || again || stCount s.rcd ≤ s.started then h
    else
      let id := (h.cx n).nextId
      let j : GJob := ⟨id, ⟨k % 64, Nat.mod_lt _ (by decide)⟩, stAddr s.rcd + 64 * s.started, 0, 0, 0, 0, false, false, false, false, [], [], 0, .run⟩
      let h := h.updCx n fun x => { x with nextId := x.nextId + 1 }
      let h := h.updStream n k fun s => { s with started := s.started + 1, lastStart := some t }
      (h.gmeFetch n cl j).updCx n fun x => x.cover t id

/-- Core `c` executes a word that triggers stream `k` (03:R72, 15:R317-R320). -/
def Hw.trigger (h : Hw) (n c k : Nat) (t : BitVec 48) (spad : Core) : Hw :=
  match (h.cx n).stream? k with
  | none => h.raiseOnce n 0x0D01 0xFF (dmaEngine k)
  | some s =>
    if !(h.served n s).contains c then h
    else if !s.isOpen then h.raiseOnce n 0x0D01 0xFF (dmaEngine k)
    else
      let x0 := (h.cx n).mkXfer s c (alGet 0 s.trig c)
      let take := stMode s.rcd = 2 && tfTaken x0.rcd && dsKind x0.rcd = 4
      let upd (s : StreamSt) : StreamSt := { s with
        trig := bump s.trig c
        snaps := if take then s.snaps ++ [(alGet 0 s.trig c, c, x0.capture spad, spad.guards)] else s.snaps }
      let h := if take then h.countBanks n c x0.sp (x0.capture spad).length ⟨.program, 3, srcBytes n 0xFF (dmaEngine k)⟩ else h
      let h := h.updStream n k upd
      let s := upd s
      let once := tfOnce ((h.cx n).tslot s)
      let done := if once then h.leastTrig n s else alGet 0 s.trig c
      let h := match stMode s.rcd with
        | 1 => h.issueUpTo n k c (min (done + stDepth s.rcd) (stCount s.rcd)) t spad
        | 2 => h.issueUpTo n k c (min done (stCount s.rcd)) t spad
        | 3 => h.gmeTrigger n s c t spad
        | _ =>
          if s.started < stCount s.rcd then
            let id := (h.cx n).nextId
            let cmd : PCmd := ⟨id, ⟨k % 64, Nat.mod_lt _ (by decide)⟩, stAddr s.rcd + 64 * s.started, none, false, false, 0, 0, 0, .run⟩
            let h := h.updStream n k fun s => { s with started := s.started + 1 }
            h.updCx n fun x => ({ x with
              nextId := x.nextId + 1
              puus := vupd x.puus (stCluster s.rcd) fun p => { p with queue := p.queue ++ [cmd] } }).cover t id
          else h
      h.closeIfDone n k

/-! ### Small transfers (15:R321) -/

/-- Core `c` executes a word that issues the small transfer of slot `i`: its bytes join the transfer of that word. -/
def Hw.smallIssue (h : Hw) (n c i : Nat) (t : BitVec 48) (spad : Core) : Hw :=
  let rcd := (h.cx n).slot i
  if dsKind rcd ≠ 6 then
    (h.raiseDie n 0x0504 0xFF 0x28).count (ctrDie n 34) 1 .program 2 (srcBytes n 0xFF 0x28)
  else if natFld (smCmask rcd) c 1 = 0 then h
  else
    let data := spad.spad.readN (smSrc rcd) (smLen rcd)
    let h := h.count (ctrDie n 80) 1 .program 2 (srcBytes n 0xFF 0x28)
    -- one queue entry for each word; a core that runs late adds its part to the entry of its word
    let key := t.toNat
    match (h.cx n).smalls.find? fun m => m.step == key with
    | some m => h.updCx n fun x => { x with smalls := x.smalls.map fun y =>
        if y.id = m.id then { y with parts := y.parts ++ [(c, rankIn (smCmask rcd) c, data)] } else y }
    | none =>
      let id := (h.cx n).nextId
      let m : Small := ⟨id, key, i, rcd, [(c, rankIn (smCmask rcd) c, data)], .run, false, none⟩
      h.updCx n fun x => ({ x with nextId := id + 1, smalls := x.smalls ++ [m] } : DieCtx).cover t id

end Sys2Proof.Machine
end

