-- ==== Sys2Proof/Machine/Flags.lean ====
section
/-! DEFINITION. The flags of Helm: loads, when they are resolved, and what a branch sees (03:R73). -/

namespace Sys2Proof.Machine

/-- A flag load is known to a branch issued at `step` once every healthy core has executed the fourth word after the load; where that word is the branch
itself, which no core executes before it is resolved, once every core has executed the load (log 73, DESIGN CHOICE). -/
def Hw.flagKnown (h : Hw) (n : Nat) (step : BitVec 48) (p : FlagPend) : Bool :=
  h.allPast n (if step = p.step + 4 then p.step else p.step + 4)

def flagValue (p : FlagPend) : Bool :=
  if p.all then p.votes.all fun v => v.2 ≠ 0 else p.votes.any fun v => v.2 ≠ 0

/-- Loads of a flag that a branch issued at `step` sees: issued 4 or more words before. -/
def flagLoads (x : Helm) (f : Nat) (step : BitVec 48) : List FlagPend :=
  x.flags.filter fun p => p.flag.toNat == f && decide (4 ≤ (step - p.step).toNat) && decide ((step - p.step).toNat < 2 ^ 47)

/-- The latest of them. -/
def lastLoad (l : List FlagPend) (step : BitVec 48) : Option FlagPend :=
  l.foldl (fun a p => match a with
    | none => some p
    | some q => if (step - p.step).toNat ≤ (step - q.step).toNat then some p else some q) none

/-- Value of a flag for a word issued now. -/
def Helm.flagNow (x : Helm) (f : Nat) : Bool :=
  match lastLoad (flagLoads x f x.step) x.step with
  | some p => flagValue p
  | none => bit x.hf f

/-- Loads more than 128 words back are folded into HF. -/
def Helm.foldFlags (x : Helm) : Helm :=
  let old := x.flags.filter fun p => decide (128 < (x.step - p.step).toNat) && decide ((x.step - p.step).toNat < 2 ^ 47)
  { x with
    hf := old.foldl (fun (b : BitVec 8) p => setFld b p.flag.toNat p.flag.toNat (b2n (flagValue p))) x.hf
    flags := x.flags.filter fun p => !old.contains p }

end Sys2Proof.Machine
end

