-- ==== Sys2Proof/Machine/Legal.lean ====
section
/-! DEFINITION. Illegal and inconsistent control words: which field fails and why (03:R63, R84, R495, Table 3-12). -/

namespace Sys2Proof.Machine

/-- FIELD codes of 03 Table 3-12. -/
def fSeq : Nat := 1
def fSync : Nat := 2
def fMx : Nat := 3
def fVx : Nat := 4
def fSc : Nat := 5
def fVf : Nat := 6
def fAg (g : Nat) : Nat := 7 + g
def fImm : Nat := 11

/-- A failure (FIELD, REASON) when the condition holds. -/
def failIf (b : Bool) (field reason : Nat) : List (Nat × Nat) := if b then [(field, reason)] else []

/-- What the checks read of Helm and of the context. -/
structure LegalEnv where
  iter : Nat → Nat
  lc : Nat → Nat
  statFmt : Nat
  /-- the die belongs to the context -/
  dieIn : Nat → Bool

/-- CLASS values with a TARGET (03 Table 3-3). -/
def usesTarget (c : Nat) : Bool := c == 1 || c == 2 || c == 3 || c == 4 || c == 5 || c == 7

/-- SEQ: R63 and R64, R65. -/
def seqFails (e : LegalEnv) (w : Word512) : List (Nat × Nat) :=
  let c := cwClass w
  failIf (8 < c) fSeq 1 ++
  failIf ((!usesTarget c && c ≤ 8 && cwTarget w ≠ 0) || (c ≠ 1 && cwLc w ≠ 0) || (c ≠ 3 && c ≠ 4 && cwFlag w ≠ 0) ||
    (cwImmuse w ≠ 1 && cwLdlc w ≠ 0)) fSeq 2 ++
  failIf (cwImmuse w = 1 && (cwImm w = 0 || (c = 1 && cwLdlc w = cwLc w))) fSeq 9 ++
  failIf (c = 1 && e.lc (cwLc w) = 0) fSeq 0xA

/-- A chain slot needs the IMM scalar (08:R179). -/
def slotNeedsImm (s : Nat) : Bool := slotOp s ≠ 0 && (slotOp s == 6 || slotOp s == 7 || slotSrcb s == 3)

/-- Uses of IMM that the word's operations need: (FIELD, IMMUSE). -/
def immNeeds (w : Word512) : List (Nat × Nat) :=
  failIf (cwSemop w = 2 && cwSigrem w = 1) fSync 6 ++ failIf (cwSmall w = 1) fSync 4 ++ failIf (cwSrd w = 1) fSync 5 ++
    failIf ((List.range 4).any fun k => slotNeedsImm (vxSlot w k)) fVx 7

/-- The immediate use mismatch of a word (R84, R495). -/
def immMismatch (w : Word512) : List (Nat × Nat) :=
  let need := immNeeds w
  match need.find? fun p => p.2 ≠ cwImmuse w with
  | some p => [(p.1, 6)]
  | none => failIf (need.isEmpty && 4 ≤ cwImmuse w) fSeq 6

/-- The target of a remote signal lies outside the context or the ring links (R70). -/
def sigTargetBad (e : LegalEnv) (w : Word512) : Bool :=
  cwSemop w == 2 && cwSigrem w == 1 && cwImmuse w == 6 &&
    (if (cwImm w).testBit 23 then decide (15 < natFld (cwImm w) 16 7) else !e.dieIn (natFld (cwImm w) 24 8))

/-- SYNC (03 Table 3-5). -/
def syncFails (e : LegalEnv) (w : Word512) : List (Nat × Nat) :=
  failIf (cwBar w = 3 || cwSemop w = 3 || cwFlop w = 3 || cwSrd w = 3) fSync 1 ++
  failIf (cwSyncRsv w ≠ 0 || (cwSemop w = 0 && (cwSem w ≠ 0 || cwSemn w ≠ 0)) || (cwSemop w ≠ 2 && cwSigrem w ≠ 0) ||
    (cwTrig w = 0 && cwStream w ≠ 0) || (cwFlop w = 0 && cwFlagn w ≠ 0)) fSync 2 ++
  failIf (sigTargetBad e w) fSync 0xB

/-- MX: Table 3-6, R77, R162. A format code that MODE 0b00 leaves unused fails as a non-zero unused field and not as a reserved code (R63; log 91,
DESIGN CHOICE). MODE 0b10 without AG3 enabled as a read is an inconsistent word, REASON 0x07 (R495; log 93, DESIGN CHOICE). -/
def mxFails (e : LegalEnv) (w : Word512) : List (Nat × Nat) :=
  let m := mxMode w
  let r := mxRows w e.iter
  failIf (m ≠ 0 && (5 < mxFmta w || 5 < mxFmts w)) fMx 1 ++
  failIf (mxRsv w ≠ 0 || (m = 0 && (mxFmta w ≠ 0 || mxFmts w ≠ 0)) || (m ≠ 1 && mxAccrow w ≠ 0) ||
    ((m = 0 || m = 2) && mxAcc w ≠ 0) || ((m = 0 || m = 1) && mxStrow w ≠ 0) ||
    (mxDrn w = 0 && (mxDrow w ≠ 0 || mxDzero w ≠ 0)) || (mxTwr w = 0 && mxTrow w ≠ 0) ||
    (mxRowlc w = 0 && mxLc w ≠ 0)) fMx 2 ++
  failIf (m ≠ 0 && mxFmta w ≤ 5 && mxFmts w ≤ 5 &&
    (mxK (mxFmta w) ≠ mxK (mxFmts w) || (m = 1 && mxFmts w ≠ e.statFmt) ||
      (2 ≤ m && mxK (mxFmts w) ≤ r.st) || (m = 2 && !agReads w 3))) fMx 7 ++
  failIf (m = 1 && mxDrn w = 1 && r.dr = r.acc) fMx 8

/-- Opcodes of Table 8-3, and those with no SRCB. -/
def vxOpKnown (o : Nat) : Bool :=
  (1 ≤ o && o ≤ 0xC) || (0x10 ≤ o && o ≤ 0x16) || (0x18 ≤ o && o ≤ 0x1D) || (0x20 ≤ o && o ≤ 0x2A) || o == 0x3F
def vxOpNoB (o : Nat) : Bool := o == 1 || o == 0xA || o == 0xB || (0x18 ≤ o && o ≤ 0x1D) || o == 0x3F

/-- One slot of the chain (R177, R179). -/
def slotFails (w : Word512) (k : Nat) : List (Nat × Nat) :=
  let s := vxSlot w k
  let o := slotOp s
  if o = 0 then failIf (s ≠ 0) fVx 2
  else if !vxOpKnown o then [(fVx, 1)]
  else
    let ag := slotSrcb s == 1 || slotSrcb s == 2 || (k == 0 && decide (vxSrca w ≤ 2))
    failIf (o = 0x3F && (k ≠ 0 || vxN w ≠ 1 || 2 < vxSrca w)) fVx 1 ++
    failIf (!vxOpNoB o && slotSrcb s = 0) fVx 1 ++
    failIf (vxOpNoB o && slotSrcb s ≠ 0) fVx 2 ++
    failIf (ag && slotMod s = 7) fVx 1 ++
    failIf (!ag && slotMod s ≠ 0) fVx 2

/-- VX: Table 3-7, R78, R175, R179. With no operation the other fields are unused: a code there fails as a non-zero unused field and not as a
reserved code (R63; log 91, DESIGN CHOICE). -/
def vxFails (w : Word512) : List (Nat × Nat) :=
  let others := vxVlu w ≠ 0 || vxCx w ≠ 0 || vxPsrc w ≠ 0 || vxPset w ≠ 0 || vxRnd w ≠ 0 || vxOfmt w ≠ 0
  let gset := (List.range 4).any fun k => slotOp (vxSlot w k) == 0x3F
  (List.range 4).flatMap (slotFails w) ++
  failIf (vxRsv w ≠ 0) fVx 2 ++
  failIf (vxN w = 0 && (vxSrca w ≠ 0 || others)) fVx 2 ++
  failIf (vxN w ≠ 0 && gset && others) fVx 2 ++
  failIf (vxN w ≠ 0 && (7 < vxSrca w || 3 < vxPsrc w || 1 < vxRnd w || 6 < vxOfmt w)) fVx 1 ++
  failIf ((List.range 3).any fun k => slotOp (vxSlot w k) == 0 && slotOp (vxSlot w (k + 1)) != 0) fVx 5

/-- SC: Table 3-8, R197. -/
def scFails (w : Word512) : List (Nat × Nat) :=
  failIf (5 < scOp w || rsuOp w = 7) fSc 1 ++
  failIf (scRsv w ≠ 0 || (scOp w = 0 && (scSrc w ≠ 0 || scSeg w ≠ 0 || scCarry w ≠ 0)) ||
    (rsuOp w = 0 && (rsuSrc w ≠ 0 || rsuSlot w ≠ 0)) || (rsuOp w ≠ 5 && rsuTopk w ≠ 0)) fSc 2

/-- VF: Table 3-9, R220, R226. -/
def vfFails (w : Word512) : List (Nat × Nat) :=
  let e := vfEntry w
  failIf (vfEn w = 1 && (e = 0xF || (0x16 ≤ e && e ≤ 0x7F))) fVf 1 ++
  failIf (vfRsv w ≠ 0 || (vfEn w = 0 && (e ≠ 0 || vfSrc w ≠ 0)) || (vfEn w = 0 && vfSwap w = 0 && vfBank w ≠ 0) ||
    (vfEn w = 1 && e < 0x80 && vfSwap w = 0 && vfBank w ≠ 0)) fVf 2

/-- Unit address of a generator as Helm evaluates it (R80). -/
def legalUnit (e : LegalEnv) (a : Nat) : Int :=
  if agLcen a then (agBase a : Int) + toSigned 16 (agStride a) * (e.iter (agLc a) : Int) else (agBase a : Int)

/-- Banks that an enabled generator touches (R81). -/
def agBanks (e : LegalEnv) (a : Nat) : List Nat :=
  if agEn a && agWidth a < 7 then
    let first := (64 * legalUnit e a / 128) % 64
    (List.range (max 1 (agBytes a / 128))).map fun k => (first.toNat + k) % 64
  else []

/-- One address generator: Table 3-10, R63, R80, R81. -/
def agFails (e : LegalEnv) (w : Word512) (g : Nat) : List (Nat × Nat) :=
  let a := agBits w g
  if !agEn a then failIf (a ≠ 0) (fAg g) 2
  else
    let wr := agWrites w g
    let n : Int := agBytes a
    let b := 64 * legalUnit e a
    failIf (agWidth a = 7 || (wr && 5 < agWsrc a)) (fAg g) 1 ++
    failIf (agRsv a ≠ 0 || (!wr && agWsrc a ≠ 0) || (g < 3 && agDir a) || (!agLcen a && (agStride a ≠ 0 || agLc a ≠ 0)))
      (fAg g) 2 ++
    failIf (agWidth a < 7 && (decide (b < 0) || decide (4194304 < b + n) || decide (b % (min n 128) ≠ 0))) (fAg g) 3 ++
    failIf ((List.range g).any fun k => (agBanks e (agBits w k)).any fun x => (agBanks e a).contains x) (fAg g) 4

/-- IMM: Table 3-4, R70, R183. A VLEN from 65,537 to 131,071 lies outside its range in bits that are not reserved, and fails with REASON 0x01 (R495;
log 92, DESIGN CHOICE). -/
def immFails (w : Word512) : List (Nat × Nat) :=
  let v := cwImm w
  failIf (cwImmuse w = 3 && v < 2 ^ 17 && (v = 0 || 65536 < v)) fImm 1 ++
  failIf ((cwImmuse w = 0 && v ≠ 0) || (cwImmuse w = 3 && 2 ^ 17 ≤ v) || (cwImmuse w = 4 && 2 ^ 12 ≤ v) ||
    (cwImmuse w = 6 && v % 1024 ≠ 0)) fImm 2

/-- Every failure of a word. -/
def wordFails (e : LegalEnv) (w : Word512) : List (Nat × Nat) :=
  seqFails e w ++ syncFails e w ++ immMismatch w ++ mxFails e w ++ vxFails w ++ scFails w ++ vfFails w ++
    (List.range 4).flatMap (agFails e w) ++ immFails w

/-- The lesser of two failures: FIELD first, then REASON (R495). -/
def failMin (a b : Nat × Nat) : Nat × Nat := if a.1 < b.1 || (a.1 == b.1 && a.2 ≤ b.2) then a else b

/-- FIELD and REASON of the skip log entry, or none when the word is legal and consistent. -/
def checkWord (e : LegalEnv) (w : Word512) : Option (Nat × Nat) :=
  match wordFails e w with
  | [] => none
  | a :: r => some (r.foldl failMin a)

end Sys2Proof.Machine
end

