-- ==== Sys2Proof/Machine/Helm.lean ====
section
/-! DEFINITION. Helm issuing a control word and the cores executing it (03:R57-R89, 02:R37-R52, 04:R93-R98). -/

namespace Sys2Proof.Machine

/-! ### Logs of a die (02:R48, R49, 03:R86, R87) -/

/-- Entries of the hazard log. -/
def Hzm.cap (z : Hzm) : Nat := 1024 <<< min z.logSize.toNat 6

/-- One hazard log entry (02 Table 2-6): written at HEAD, or dropped. -/
def Hw.logHazard (h : Hw) (n core : Nat) (step : BitVec 48) (waddr : BitVec 17) (kind ag spaddr short : Nat) : Hw :=
  let z := (h.die n).hzm
  let on := z.enable && (if kind = 2 then z.unordered else z.early)
  let drop (h : Hw) : Hw :=
    (h.updDie n fun d => { d with hzm := { d.hzm with dropped := BitVec.ofNat 32 (satInc (2 ^ 32 - 1) d.hzm.dropped.toNat) } }).count
      (ctrDie n 225) 1 .program 0 (srcBytes n core 0x08)
  if !on then h
  else if z.full && !z.wrap then drop h
  else
    let e := put step.toNat 80 48 + put waddr.toNat 63 17 + put spaddr 41 22 + put core 36 5 + put kind 34 2 + put ag 32 2 +
      put (if kind = 2 then 0 else min short 255) 24 8
    match h.vaWrite n (4096 * z.base.toNat + 16 * z.head.toNat) (leBytes 16 e) ⟨.program, 0, srcBytes n core 0x08⟩ with
    | .error _ => drop h
    | .ok h =>
      let nx := z.head.toNat + 1
      (h.updDie n fun d => { d with hzm := { d.hzm with
        head := BitVec.ofNat 16 (if nx = z.cap then 0 else nx), full := d.hzm.full || nx == z.cap } }).count
          (ctrDie n 224) 1 .program 0 (srcBytes n core 0x08)

/-- One skip log entry (03 Table 3-12); a write that meets a fault is lost. -/
def Hw.logSkip (h : Hw) (n : Nat) (waddr : BitVec 17) (field reason : Nat) : Hw :=
  let x := h.cx n
  let e := put x.helm.step.toNat 80 48 + put waddr.toNat 63 17 + put reason 48 8 + put field 40 8
  let a := 4096 * (h.die n).skipBase.toNat + 16 * x.helm.skips.toNat
  match h.vaWrite n a (leBytes 16 e) ⟨.program, 0, srcBytes n 0xFF 0x01⟩ with
  | .ok h => h
  | .error _ => h

/-! ### Counter reads (03:R74, 22:R456) -/

/-- Counter number that a selector names for a core, if it names one. A selector with a non-zero bit where Table 22-6 has zero names none and reads
as zero, and its word is not skipped (03:R63; log 90, DESIGN CHOICE). -/
def counterKey (n core sel : Nat) : Option Nat :=
  let e := natFld sel 0 8
  let l := natFld sel 24 6
  if natFld sel 8 16 ≠ 0 then none
  else match natFld sel 30 2 with
    | 0 => if l = 0 && e < 96 then some (ctrCore n core e) else none
    | 1 => if l = 0 then some (ctrDie n e) else none
    | 2 => if l < 48 && e < 32 then some (ctrLink l e) else none
    | _ => if l = 0 && e < 64 then some (ctrHub e) else none

/-- The value of a counter read; the second part says that the group is not program-readable. -/
def Hw.counterValue (h : Hw) (n core sel : Nat) : Nat × Bool :=
  match counterKey n core sel with
  | none => (0, false)
  | some k =>
    if bit (vget h.ctr.filt (ctrGroup k) 0) 252 then ((h.counter k).toNat, false) else (0, true)

/-! ### A core executes its words -/

/-- Events of a core's counters. -/
def Hw.countCore (h : Hw) (n core ev k : Nat) : Hw := if k = 0 then h else h.count (ctrCore n core ev) k .program 0 (srcBytes n core 0x02)

/-- Conditions and hazards that a core reports. -/
def Hw.coreEvent (h : Hw) (n core : Nat) (step : BitVec 48) (waddr : BitVec 17) (e : CoreEv) : Hw :=
  match e with
  | .first code eng sub =>
    let h := if code = 0x0601 then h.updCore n core fun c => { c with mxuFail := true } else h
    h.raiseOnce n code core eng sub
  | .cond code eng a0 a1 => h.raiseDie n code core eng a0 a1
  | .hazard k ag a short => h.logHazard n core step waddr k ag a short
  | .count ev k => h.countCore n core ev k

/-- Counters of the core level for one word (22 Table 22-1 groups 0 to 5). -/
def Hw.countWord (h : Hw) (n i : Nat) (e : FifoEntry) : Hw :=
  let cnt (ev k : Nat) (h : Hw) : Hw := h.countCore n i ev k
  let w := e.w
  let h := cnt 0 1 h
  if e.skipped then cnt 1 1 h
  else if !coreActive w i then cnt 2 1 h
  else
    let h := cnt 16 (b2n (mxMode w == 1)) h
    let h := cnt 17 (b2n (decide (2 ≤ mxMode w))) h
    let h := cnt 18 (mxDrn w) h
    let h := cnt 34 (b2n (vxCx w != 0)) h
    let h := cnt 48 (b2n (scOp w != 0)) h
    let h := cnt 49 (b2n (rsuOp w != 0)) h
    let h := cnt 50 (b2n (rsuOp w == 6)) h
    let h := cnt 64 (256 * vfEn w) h
    cnt 65 (vfSwap w) h

/-- One word on core `i` of die `n`, with its effects on the die; `none` when the core cannot execute it yet (05:R127). -/
def Hw.coreStep (h : Hw) (n i : Nat) (e : FifoEntry) : Option Hw :=
  let c := (h.cx n).core i
  let cv := if !e.skipped && cwSrd e.w = 1 then h.counterValue n i (cwImm e.w) else (e.status, false)
  match c.exec i { e with status := cv.1 } with
  | none => none
  | some o =>
    let t := c.step
    let vis := c.commit.commitPred
    let h := h.updCore n i fun _ => o.core
    let h := h.countWord n i e
    let h := o.evs.foldl (fun h ev => h.coreEvent n i t e.waddr ev) h
    let h := if cv.2 then h.raiseOnce n 0x1302 0xFF 0x01 else h
    let h := match o.flag with
      | some f => h.updHelm n fun x => { x with
          flags := x.flags.map fun p => if p.step = t then { p with votes := p.votes ++ [(i, f)] } else p }
      | none => h
    let h := if !e.skipped && cwTrig e.w = 1 then h.trigger n i (cwStream e.w) t vis else h
    some (if !e.skipped && cwSmall e.w = 1 then h.smallIssue n i (natFld (cwImm e.w) 0 12) t vis else h)

/-- A core finds the word that it is about to execute with bad parity, and awaits it from the replay buffer (03:R60). -/
def Hw.parityFound (h : Hw) (n i : Nat) : Hw :=
  if ((h.cx n).core i).await then h
  else ((h.updCore n i fun c => { c with await := true }).raiseDie n 0x0305 i 0x02).countCore n i 20 1

/-- The words in a core's FIFO execute in order until one cannot. -/
def Hw.runCore (n i : Nat) : Nat → Hw → Hw
  | 0, h => h
  | fuel + 1, h =>
    match ((h.cx n).core i).fifo with
    | [] => h
    | e :: r =>
      if e.bad then h.parityFound n i
      else match h.coreStep n i e with
      | none => h.count (ctrCore n i 83) 1 .program 0 (srcBytes n i 0x0A)
      | some h => Hw.runCore n i fuel (h.updCore n i fun c => { c with fifo := r })

/-- A core takes a word from the tree (03:R59); one that stands past it after a split boundary discards it (03:R76). -/
def Hw.takeWord (h : Hw) (n i : Nat) (t : BitVec 48) (e : FifoEntry) : Hw :=
  let c := (h.cx n).core i
  if c.split.isSome && c.step != t then h
  else
    let h := h.updCore n i fun c => { c with split := none, fifo := c.fifo ++ [e] }
    if c.fifo.isEmpty then Hw.runCore n i 1 h else h

def Hw.healthyCores (h : Hw) (n : Nat) : List Nat := (List.range 32).filter fun i => bit (h.die n).healthy i

/-! ### Banks (04:R94-R98) -/

def DieCtx.bank (x : DieCtx) (b : Nat) : IBank := vget x.banks b IBank.init
def DieCtx.updBank (x : DieCtx) (b : Nat) (f : IBank → IBank) : DieCtx := { x with banks := vupd x.banks b f }

/-- The words that Helm may fetch. -/
def IBank.word (k : IBank) (i : Nat) : Word512 := smGet (0 : Word512) k.code i

/-- A load into a bank is requested, held or in progress. -/
def DieCtx.loadOf (x : DieCtx) (b : Nat) : Bool := x.loads.any fun l => l.bank.toNat == b

/-- The segment-table entry of a segment (04 Table 4-2): offset, words, next and CRC; none when it cannot be read. -/
structure SegEntry where
  offset : Nat
  words : Nat
  next : Nat
  crc : Nat
  deriving DecidableEq, Repr

def segEntry (e : Nat) : SegEntry := ⟨natFld e 96 32, natFld e 79 17, natFld e 67 12, natFld e 0 32⟩

/-- SEGTAB of the die's image copy. -/
def Hw.segOf (h : Hw) (n seg : Nat) : Option SegEntry :=
  let w : Who := ⟨.program, 1, srcBytes n 0xFF 0x09⟩
  -- SEGTAB lies in bits [927:896] of the header, bytes 112 to 115
  match h.vaRead n ((h.cx n).imgBase.toNat + 112) 4 w with
  | .error _ => none
  | .ok r =>
    match h.vaRead n ((h.cx n).imgBase.toNat + leNat r.1 + 16 * seg) 16 w with
    | .error _ => none
    | .ok x => some (segEntry (leNat x.1))

/-- The loader takes its next request: the first that is not held. -/
def DieCtx.startLoad (x : DieCtx) : DieCtx :=
  if x.loads.any fun l => l.started then x
  else match x.loads.find? fun l => !l.held with
  | none => x
  | some l =>
    let y := { x with loads := { l with started := true } :: x.loads.erase l }
    if l.after.isSome then y else y.updBank l.bank.toNat fun k => { k with
      valid := false, loading := true, drv := l.drv, seg := l.seg, loaded := BitVec.ofNat 17 l.next, words := 0 }

/-- A load into a bank is requested: its valid bit clears unless the load is held (04:R94). -/
def Hw.requestLoad (h : Hw) (n : Nat) (l : LoadReq) : Hw :=
  h.updCx n fun x =>
    let x := { x with loads := x.loads ++ [l] }
    (if l.held then x else x.updBank l.bank.toNat fun k => { k with valid := false }).startLoad

/-- Helm leaves bank `a`: loads held for it are released, ahead of those not yet started (04:R95, R96). -/
def Hw.releaseHeld (h : Hw) (n a : Nat) : Hw :=
  let x := h.cx n
  let mine := x.loads.filter fun l => l.held && l.bank.toNat == a
  if mine.isEmpty then h
  else
    let rest := x.loads.filter fun l => !(l.held && l.bank.toNat == a)
    let started := rest.filter fun l => l.started
    let waiting := rest.filter fun l => !l.started
    let freed := mine.map fun (l : LoadReq) => { l with held := false }
    h.updCx n fun x =>
      (({ x with loads := started ++ freed ++ waiting } : DieCtx).updBank a fun k => { k with valid := false }).startLoad

/-- What a BANK_SWITCH from bank `a` asks of the loader (04:R95, R96): held loads of that bank are released; a driver load for
it stands; else the successor segment is requested. -/
def Hw.switchLoads (h : Hw) (n a : Nat) : Hw :=
  let x := h.cx n
  if x.loads.any fun l => l.bank.toNat == a && (l.held || l.drv) then h.releaseHeld n a
  else
    match h.segOf n (x.bank (1 - a)).seg.toNat with
    | none => h.updCx n fun y => ({ y with
        loads := y.loads ++ [⟨BitVec.ofNat 1 a, 0xFFF, false, false, false, 0, false, none, .run, some (x.bank (1 - a)).seg⟩] } : DieCtx).startLoad
    | some e =>
      if e.next = 0xFFF || ((x.bank a).valid && (x.bank a).seg.toNat == e.next) || x.loadOf a then h
      else h.requestLoad n ⟨BitVec.ofNat 1 a, BitVec.ofNat 12 e.next, false, false, false, 0, false, none, .run, none⟩

/-! ### Issue -/

/-- What is known of a word's waits when Helm comes to it again. -/
structure Passed where
  barrier : Bool
  sem : Bool
  deriving DecidableEq, Repr

/-- Dies of the context on a die. -/
def Hw.diesOf (h : Hw) (n : Nat) : List Nat :=
  (((h.die n).owner.bind h.ctx?).map fun c => c.ents.map fun e => e.die.val).getD []

/-- A pre-emption at yield is pending. -/
def DieCtx.yieldPending (x : DieCtx) : Bool := match x.pre with | .atYield _ => true | _ => false

/-- A die stops for a pre-emption at yield. -/
def Die.preemptY (d : Die) : Die :=
  let e := d.preemptNow
  { e with cx := { e.cx with ymode := true } }

/-- Dies of the context that have executed END stop too once another of its dies has stopped: they issue no word that could
carry YIELD (log 21, DEDUCED). -/
def Hw.yieldEnded (h : Hw) (n : Nat) : Hw :=
  if (h.diesOf n).any fun d => (h.die d).phase != .running then
    (h.diesOf n).foldl (fun h d => if (h.cx d).yieldPending && (h.cx d).helm.st == .idle then h.updDie d Die.preemptY else h) h
  else h

/-- Pre-emption at yield takes effect (03:R75). -/
def Hw.preemptYield (h : Hw) (n : Nat) : Hw := (h.updDie n Die.preemptY).yieldEnded n

/-- Helm holds the word it has fetched. A pre-emption at yield does not wait for what the word waits for (03:R89, log 21, DEDUCED). -/
def Hw.hold (h : Hw) (n : Nat) (w : Word512) (why : HeldWhy) : Hw :=
  if (h.cx n).yieldPending then h.preemptYield n
  else h.updHelm n fun x => { x with
    held := some (w, why)
    st := match why with
      | .bank => .waitBank
      | .flag => .waitFlag
      | .fifo => .fifoFull
      | _ => .issuing }

/-- One issued word nearer to the end of a request at yield, which takes effect at a word with YIELD (03:R75). -/
def Hw.afterIssue (h : Hw) (n : Nat) (yield_ : Bool) : Hw :=
  match (h.cx n).pre with
  | .atYield k => if yield_ then h.preemptYield n else (h.updCx n fun c => { c with pre := .atYield (k - 1) }).yieldEnded n
  | _ => h

/-- Every core's FIFO is empty, so that every core has reached the next word. -/
def Hw.coresAt (h : Hw) (n : Nat) : Bool := (h.healthyCores n).all fun i => ((h.cx n).core i).fifo.isEmpty

/-- A die's part of a barrier: its cores have reached the word and its transfers have completed (02:R52). -/
def Hw.barReady (h : Hw) (n : Nat) : Bool := h.coresAt n && (h.cx n).outstanding.isEmpty

/-- A context barrier that die `n` has reached ends now: every die of the context stands at one. -/
def Hw.ctxBarReady (h : Hw) (n : Nat) : Bool :=
  (h.diesOf n).all fun d => h.barReady d &&
    (d == n || (match (h.cx d).helm.held with | some (_, .ctxBar) => true | _ => false))

/-- Where Helm goes after a word that it has issued (03:R65-R67). -/
def Helm.next (x : Helm) (w : Word512) : Helm :=
  let t : BitVec 17 := BitVec.ofNat 17 (cwTarget w)
  let nx := x.index + 1
  let lc := lcAfter w x.lc x.lcStart
  let y := { x with lc := lc.1, lcStart := lc.2 }
  match cwClass w with
  | 1 => { y with index := if 1 < (vget x.lc (cwLc w) 0).toNat then t else nx }
  | 2 => { y with index := t }
  | 3 => { y with index := if x.flagNow (cwFlag w) then t else nx }
  | 4 => { y with index := if x.flagNow (cwFlag w) then nx else t }
  | 5 => { y with index := t, stack := BitVec.ofNat 18 (131072 * x.bank.toNat + nx.toNat) :: x.stack }
  | 6 => { y with
      bank := BitVec.ofNat 1 ((x.stack.headD 0).toNat / 131072)
      index := BitVec.ofNat 17 ((x.stack.headD 0).toNat % 131072)
      stack := x.stack.tail }
  | 7 => { y with bank := 1 - x.bank, index := t }
  | 8 => { y with index := nx, st := .idle }
  | _ => { y with index := nx }

/-- The step count advances, and its wraps are counted (02:R38). -/
def Helm.tick (x : Helm) : Helm :=
  { x with
    step := x.step + 1
    epoch := if x.step + 1 = 0 then BitVec.ofNat 16 (satInc 65535 x.epoch.toNat) else x.epoch }

/-- Helm's own state goes into the replay buffer, latest first (03:R60). -/
def Helm.record (x : Helm) (segs : List (Option (BitVec 12))) (w : Word512) : Helm :=
  { x with replay := (⟨w, x.bank, x.index, x.lc, x.lcStart, x.stack, x.skips, x.step, x.epoch, x.statFmt, segs⟩ :: x.replay).take 64 }

/-- What each bank holds. -/
def DieCtx.segs (x : DieCtx) : List (Option (BitVec 12)) := x.banks.toList.map fun k => if k.valid then some k.seg else none

/-- The word at this step was issued before, up to a split boundary (03:R76). -/
def Helm.again (x : Helm) : Bool :=
  match x.redo with
  | some r => r != x.step && decide ((r - x.step).toNat < 2 ^ 47)
  | none => false

/-- The word goes down the tree to every healthy core (03:R59). -/
def Hw.broadcast (h : Hw) (n : Nat) (t : BitVec 48) (e : FifoEntry) : Hw :=
  (h.healthyCores n).foldl (fun h i => h.takeWord n i t e) h

/-- A skipped word (03:R85, R86): logged, counted, executed as a whole-step no-op; after the 256th Helm issues no more. -/
def Hw.issueSkip (h : Hw) (n : Nat) (w : Word512) (why : Nat × Nat) : Hw :=
  let x := (h.cx n).helm
  let wa : BitVec 17 := BitVec.ofNat 17 (65536 * x.bank.toNat + x.index.toNat % 65536)
  let again := x.again
  let h := h.logSkip n wa why.1 why.2
  let h := if x.skips = 0 && !again then h.raiseOnce n 0x0301 0xFF 0x01 else h
  let segs := (h.cx n).segs
  let h := h.updHelm n fun x =>
    let y := (x.record segs w).tick
    { y with
      index := x.index + 1, skips := x.skips + 1, held := none, resolved := none
      st := if x.skips.toNat + 1 = 256 then .stopped else .issuing }
  let h := h.count (ctrDie n 0) 1 .program 0 (srcBytes n 0xFF 0x01)
  ((h.broadcast n x.step ⟨w, true, wa, 0, false⟩).release n).afterIssue n false

/-- A legal word that waits for nothing is issued and executed (03:R57-R74). -/
def Hw.issueNow (h : Hw) (n : Nat) (w : Word512) : Hw :=
  let x := (h.cx n).helm
  let again := x.again
  let wa : BitVec 17 := BitVec.ofNat 17 (65536 * x.bank.toNat + x.index.toNat % 65536)
  let pend : List FlagPend :=
    if cwFlop w = 0 || again then [] else [⟨BitVec.ofNat 3 (cwFlagn w), cwFlop w == 2, x.step, []⟩]
  let imm := cwImm w
  let sig : List PendSig :=
    if cwSemop w = 2 && !again then
      [⟨if cwSigrem w = 1 && imm.testBit 23 then some (natFld imm 16 7, natFld imm 10 6) else none,
        if cwSigrem w = 1 then natFld imm 24 8 else n, BitVec.ofNat 6 (cwSem w), cwSemn w + 1, x.step, (h.cx n).outstanding⟩]
    else []
  let h := h.updCx n fun c => { c with sigs := c.sigs ++ sig }
  let segs := (h.cx n).segs
  let h := h.updHelm n fun x =>
    let y := ((x.record segs w).next w).tick.foldFlags
    { y with
      flags := y.flags ++ pend, held := none, resolved := none
      statFmt := if 2 ≤ mxMode w then BitVec.ofNat 3 (mxFmts w) else y.statFmt
      st := if y.st = .idle then .idle else .issuing
      redo := if again then y.redo else none }
  let h := if cwClass w = 7 then h.switchLoads n x.bank.toNat
    else if cwClass w = 6 && (h.cx n).helm.bank != x.bank then h.releaseHeld n x.bank.toNat else h
  let h := h.count (ctrDie n 0) 1 .program 0 (srcBytes n 0xFF 0x01)
  ((h.broadcast n x.step ⟨w, false, wa, x.skips.toNat, false⟩).release n).afterIssue n (cwYield w == 1)

/-- The checks of Helm at issue, with its counters and stationary format as they stand. -/
def Hw.legalEnv (h : Hw) (n : Nat) : LegalEnv :=
  let x := (h.cx n).helm
  { iter := fun k => (vget x.lcStart k 0 - vget x.lc k 0).toNat
    lc := fun k => (vget x.lc k 0).toNat
    statFmt := x.statFmt.toNat
    dieIn := fun d => (h.diesOf n).contains d }

/-- A word that Helm has fetched: skipped, stopped at, held, or issued. `p` says which of its waits have passed. -/
def Hw.tryWord (h : Hw) (n : Nat) (w : Word512) (p : Passed) : Hw :=
  let x := (h.cx n).helm
  match checkWord (h.legalEnv n) w with
  | some why => if (h.healthyCores n).any fun i => decide (64 ≤ ((h.cx n).core i).fifo.length) then h.hold n w .fifo else h.issueSkip n w why
  | none =>
    if (cwClass w = 5 && 8 ≤ x.stack.length) || (cwClass w = 6 && x.stack.isEmpty) then h.stopProgram n 0x0303
    else if cwClass w = 7 && !((h.cx n).bank (1 - x.bank.toNat)).valid then
      (if (h.cx n).loadOf (1 - x.bank.toNat) then h.hold n w .bank else h.stopProgram n 0x0405)
    else if (cwClass w = 3 || cwClass w = 4) && (flagLoads x (cwFlag w) x.step).any (fun q => !h.flagKnown n x.step q) then h.hold n w .flag
    else if (h.healthyCores n).any fun i => decide (64 ≤ ((h.cx n).core i).fifo.length) then h.hold n w .fifo
    else
      let done := x.again || p.barrier || x.resolved == some x.step
      if cwBar w = 1 && !done && !h.barReady n then h.hold n w .dieBar
      else if cwBar w = 2 && !done && !h.ctxBarReady n then h.hold n w .ctxBar
      else
        -- the barrier that the word has passed orders the writes of its participants' dies, once (02:R52)
        let h := if cwBar w = 0 || (x.resolved == some x.step && !p.barrier) then h
          else
            let orgs := if cwBar w = 1 then [n] else h.diesOf n
            h.updCx n fun c => { c with helm := { c.helm with resolved := some c.helm.step }, cores := c.cores.map fun k => k.fenced orgs }
        let need := cwSemn w + 1
        if cwSemop w = 1 && !(x.again || p.sem) then
          if need ≤ ((h.cx n).sem (cwSem w)).toNat then
            let h := (h.updCx n fun c => { c with
              sems := vupd c.sems (cwSem w) fun v => v - BitVec.ofNat 32 need
              cores := c.cores.map fun k => k.acquired (cwSem w) }).count (ctrDie n 16) 1 .program 0 (srcBytes n 0xFF 0x01)
            h.issueNow n w
          else h.hold n w .sem
        else h.issueNow n w

/-- The dies that stand at the context barrier which die `n` completes go on with their words (02:R52). -/
def Hw.openBarrier (h : Hw) (n : Nat) : Hw :=
  (h.diesOf n).foldl (fun h d =>
    match (h.cx d).helm.held with
    | some (w, .ctxBar) => (h.updHelm d fun y => { y with resolved := some y.step }).tryWord d w ⟨true, false⟩
    | _ => h) h

/-- The context barrier of word `w` ends as die `n` comes to it, the last of the context's dies (02:R52, 03:R71). -/
def Hw.endsCtxBar (h : Hw) (n : Nat) (w : Word512) (p : Passed) : Bool :=
  let x := (h.cx n).helm
  cwBar w == 2 && (checkWord (h.legalEnv n) w).isNone && !(x.again || p.barrier || x.resolved == some x.step) && h.ctxBarReady n

/-- Helm stands before the barrier of the word it holds. -/
def Helm.early (x : Helm) : Bool := match x.held with | some (_, .bank) | some (_, .flag) | some (_, .fifo) => true | _ => false

/-- Helm tries a word; the other dies at its context barrier go on with it once it has passed that barrier, and not where the word
stops the program before it (03:R66, R67). -/
def Hw.meetWord (h : Hw) (n : Nat) (w : Word512) (p : Passed) : Hw :=
  let all := h.endsCtxBar n w p
  let h := h.tryWord n w p
  if all && !(h.cx n).helm.early && (h.cx n).helm.st != .stopped then h.openBarrier n else h

/-- Helm fetches at all: the die runs, is not pre-empted and holds no word. -/
def Hw.canIssue (h : Hw) (n : Nat) : Bool :=
  let d := h.die n
  d.phase == .running && d.cx.helm.held.isNone && d.cx.helm.st == .issuing && d.cx.pre != .atYield 0

/-- Helm comes to word `w` at its index (04:R93): a fetch beyond the segment stops the program. In a bank that is not valid, after a RETURN into it as
after any other word, Helm waits for its load or stops with 0x0405 (R98; for RETURN log 95, DESIGN CHOICE). -/
def Hw.issueWord (h : Hw) (n : Nat) (w : Word512) : Hw :=
  if !h.canIssue n then h
  else
    let x := (h.cx n).helm
    let k := (h.cx n).bank x.bank.toNat
    if !k.valid then
      (if (h.cx n).loadOf x.bank.toNat then
        (if (h.cx n).yieldPending then h.preemptYield n else h.updHelm n fun x => { x with st := .waitBank })
       else h.stopProgram n 0x0405)
    else if k.words.toNat ≤ x.index.toNat then h.stopProgram n 0x0407
    else
      h.meetWord n w ⟨false, false⟩

/-- Helm issues the word at its own index: what a die does with no command (log 1, DESIGN CHOICE). -/
def Hw.fetchIssue (h : Hw) (n : Nat) : Hw :=
  let x := h.cx n
  h.issueWord n ((x.bank x.helm.bank.toNat).word x.helm.index.toNat)

/-- What the block does with no command: each die issues its next word (log 1, DESIGN CHOICE). -/
def Hw.tick (h : Hw) : Hw := (List.range 16).foldl Hw.fetchIssue h

/-- The word that Helm holds is tried again. -/
def Hw.retryHeld (h : Hw) (n : Nat) (p : Passed) : Hw :=
  match (h.cx n).helm.held with
  | some (w, _) => (h.updHelm n fun y => { y with held := none, st := .issuing }).meetWord n w p
  | none => h

end Sys2Proof.Machine
end

