-- ==== Sys2Proof/Machine/WpBase.lean ====
section
/-! DEFINITION. A Waypoint take that aborts, and a pre-emption that waited for a copy (20:R428, Table 20-9). -/

namespace Sys2Proof.Machine

def Hw.take? (h : Hw) (num : BitVec 16) : Option Take := h.chip.takes.find? fun t => t.ctx == num

def Hw.updTake (h : Hw) (num : BitVec 16) (f : Take → Take) : Hw :=
  h.onChip fun c => { c with takes := c.takes.map fun t => if t.ctx = num then f t else t }

/-- A condition for a context as a whole, from the hub. -/
def Hw.raiseCtx (h : Hw) (num : BitVec 16) (code eng : Nat) (arg0 arg1 : Nat := 0) : Hw :=
  h.raise ⟨code, 99, 0xFF, eng, arg0, arg1, some num⟩

/-- A pre-emption at yield is requested of a die: where Helm waits, it takes effect at once (03:R75, R89, log 21, DEDUCED). -/
def Die.requestYield (d : Die) : Die :=
  if d.phase != .running then d
  else if d.cx.helm.held.isSome || d.cx.helm.st == .waitBank then d.preemptY
  else { d with cx := { d.cx with pre := .atYield 16384 } }

/-- A pre-emption of a running context begins (14:R303). -/
def Hw.beginPreempt (h : Hw) (num : BitVec 16) (atYield_ : Bool) : Hw :=
  if atYield_ then
    let h := h.updCtx num fun c => { c with st := .stopping }
    let ds := ((h.ctx? num).map fun c => c.ents.map fun e => e.die.val).getD []
    let h := ds.foldl (fun h d => h.updDie d Die.requestYield) h
    h.yieldEnded (ds.headD 0)
  else h.preemptCtx num

/-- The arrivals that a take held land, and a pre-emption that waited for its copy goes on. -/
def Hw.endHolding (h : Hw) (num : BitVec 16) : Hw :=
  let later := (h.ctx? num).bind fun c => c.preLater
  let h := (h.updCtx num fun c => { c with holding := false, preLater := none }).landHeld num
  match later with
  | some y => h.beginPreempt num y
  | none => h

/-- CSEM is signalled by 1 on every die of a context. -/
def Hw.signalAll (h : Hw) (num : BitVec 16) (sem : Nat) : Hw :=
  (((h.ctx? num).map fun c => c.ents.map fun e => e.die.val).getD []).foldl (fun h d => h.semAdd num d sem 1 255) h

/-- The take of a context aborts: its target keeps VALID = 0, and `code` is the condition that caused it, 0 for none. -/
def Hw.takeAbort (h : Hw) (num : BitVec 16) (code status : Nat) (goesOn : Bool) : Hw :=
  match h.take? num with
  | none => h
  | some t =>
    let h := h.onChip fun c => { c with takes := c.takes.filter fun t => t.ctx != num }
    let h := if goesOn then h.signalAll num t.csem.toNat else h
    let h := h.raiseCtx num 0x1102 0x62 (code % 256) t.gen.toNat
    (h.complete t.cmd ⟨status, 0, 0x1102, 0⟩).endHolding num

/-- Every take in progress aborts. -/
def Hw.takeAbortAll (h : Hw) (code status : Nat) (goesOn : Bool) : Hw :=
  (h.chip.takes.map (·.ctx)).foldl (fun h n => h.takeAbort n code status goesOn) h

/-- A take that copies to a buddy aborts when no direction has a route (20:R428). -/
def Hw.takeRoute (h : Hw) : Hw :=
  (h.chip.takes.filter fun t => t.st == .copy && !t.host && !(List.range 8).any h.links.alive).foldl
    (fun h t => h.takeAbort t.ctx 0x0E04 0xB true) h

end Sys2Proof.Machine
end

