-- ==== Sys2Proof/Machine/Links.lean ====
section
/-! DEFINITION. The link events: hop retry, service faults, training and the cabling check (16:R332, R336, R342-R345). -/

namespace Sys2Proof.Machine

/-! ### Hop retry (16:R332) -/

/-- Flits up to `ack` leave the replay buffer. -/
def Port.acked (p : Port) (ack : BitVec 12) : Port :=
  match p.replay with
  | [] => p
  | f :: _ =>
    let n := (ack - flSeq f).toNat + 1
    if n ≤ p.replay.length then Port.pump p.waiting { p with replay := p.replay.drop n, reps := p.reps.drop n } else p

/-- The port enters Recovering. -/
def Port.recover (p : Port) (lane : Option (Fin 5)) : Port := { p with st := .recovering, suspect := lane, quiet := false }

/-- Link `l` has its flits up to `ack` acknowledged; stores and signals among them have been applied at the neighbour (15:R323). -/
def Hw.linkAcked (h : Hw) (l : Nat) (ack : BitVec 12) : Hw :=
  let p := h.port l
  let q := p.acked ack
  let gone := match p.replay with
    | [] => []
    | f :: _ => let n := (ack - flSeq f).toNat + 1; if n ≤ p.replay.length then p.replay.take n else []
  gone.foldl (fun h f => if flClass f = 0 && p.dirNow.toNat < 2 then h.updChb (chIndex p.dirNow.toNat (flChan f)) ChBind.ackOne else h)
    (h.updPort l fun _ => q)

/-- A NAK after `ack`: everything later is replayed; a flit replayed more than 8 times puts the link into recovery. -/
def Hw.nak (h : Hw) (l : Nat) (ack : BitVec 12) : Hw :=
  let h := h.linkAcked l ack
  let p := h.port l
  if p.st != .up || p.replay.isEmpty then h
  else
    let n := p.replay.length
    let h := h.updPort l fun p => { p with reps := p.reps.map (· + 1), retry := BitVec.ofNat 32 (min (2 ^ 32 - 1) (p.retry.toNat + n)) }
    let h := h.count (ctrLink l 16) n .program 11 (srcBytes (96 + l / 16) 0xFF (0x50 + l % 16))
    if p.reps.any fun r => decide (8 ≤ r) then h.updPort l fun p => p.recover none else h

/-- A flit is discarded: one NAK, in an idle flit whose ACKSEQ is the last flit accepted, until the next flit is accepted. -/
def Hw.discardFlit (h : Hw) (l : Nat) : Hw :=
  if (h.port l).nakSent then h
  else (h.updPort l fun p => { p.sendIdle true with nakSent := true }).count (ctrLink l 17) 1 .program 11
    (srcBytes (96 + l / 16) 0xFF (0x50 + l % 16))

/-- An accepted flit goes on: an ordered flit that meets an unbound end abandons its channel (its store or signal is applied
by the command that carries it); bulk and reduction flits for another module take their next hop; management flits stop here. -/
def Hw.acceptFlit (h : Hw) (l : Nat) (f : Flit) : Hw :=
  match flClass f with
  | 0 => match h.linkChan l (flChan f) with
    | none => h
    | some k => if (h.chb k).opened then h.updPort l fun p => p.taken (flChan f) else h.abandon k
  | 3 => h.onLinks fun x => { x with delivered := x.delivered ++ [f] }
  | _ => (h.routeFlit f).redFleet

/-- A flit arrives on link `l`. -/
def Hw.flitReceive (h : Hw) (l : Nat) (f : Flit) (codeOk : Bool) : Hw :=
  let h := h.updPort l fun p => if p.st = .sleep then { p with st := .up, quiet := false } else p
  let p := h.port l
  if !(p.st == .up || p.st == .identity || p.st == .miswired) then h
  else if !codeOk || flCrc f ≠ flitCrc f then h.discardFlit l
  else
    let who := srcBytes (96 + l / 16) 0xFF (0x50 + l % 16)
    let h := if flNak f then h.nak l (flAckseq f) else if flAckv f then h.linkAcked l (flAckseq f) else h
    if flClass f = 4 then (h.updPort l fun p => p.credited (flCredit f)).count (ctrLink l 8) 1 .program 11 who
    else if flSeq f ≠ p.rxNext then h.discardFlit l
    else
      -- the acknowledgement of this flit leaves at once in an idle flit
      let h := h.updPort l fun p => ({ p with rxNext := p.rxNext + 1, nakSent := false }.credited (flCredit f)).sendIdle false
      if 3 < flClass f then h
      else
        let h := h.count (ctrLink l (4 + flClass f)) 1 .program (8 + flClass f) who
        if p.st == .up && !h.links.spare || flClass f = 3 then h.acceptFlit l f else h

/-- Link domains that may be on: those of link dies that passed the identity check (21 Table 21-2). -/
def State.linkDies (s : State) : BitVec 3 :=
  BitVec.ofNat 3 ((List.range 3).foldl (fun a j => if bit s.sec.idFail (96 + j) then a else a + 2 ^ j) 0)

/-- A module in standby wakes: its switched domains are on again (19:R412). -/
def State.leaveStandby (s : State) : State :=
  if s.power.standby then
    { s with power := { s.power with
      standby := false, ldon := s.linkDies, idleOff := 0, per := s.power.per.map fun d => { d with mxg := false, vxg := false } } }
  else s

/-- The flit is the next management flit of a link. -/
def Port.wakes (p : Port) (f : Flit) (codeOk : Bool) : Bool :=
  (p.st == .up || p.st == .sleep || p.st == .identity || p.st == .miswired) && codeOk && flCrc f == flitCrc f && flClass f == 3 &&
    flSeq f == p.rxNext

/-- FLIT_RECEIVE (16:R332); a management flit wakes a module in standby (19:R412). -/
def execFlitReceive (l : Fin 48) (f : Flit) (codeOk : Bool) (s : State) : Out :=
  .next ((if (s.hw.port l.val).wakes f codeOk then s.leaveStandby else s).onHw fun h => h.flitReceive l.val f codeOk)

/-- NAK_RECEIVE (16:R332). -/
def execNakReceive (l : Fin 48) (ackseq : BitVec 12) (s : State) : Out := .next (s.onHw fun h => h.nak l.val ackseq)

/-- HOP_TIMEOUT (16:R332, R344): it runs only while the link is Up and a flit waits for acknowledgement. -/
def execHopTimeout (l : Fin 48) (s : State) : Out :=
  .next (s.onHw fun h =>
    if (h.port l.val).st == .up && !(h.port l.val).replay.isEmpty then
      (h.raiseLink l.val 0x0E06).updPort l.val fun p => p.recover none
    else h)

/-! ### Faults in service (16:R344, R345) -/

/-- LANE_ERROR_THRESHOLD (16:R338, R342): `count` corrected symbols of a lane in one second. -/
def execLaneErrorThreshold (l : Fin 48) (lane : Fin 5) (count : Nat) (s : State) : Out :=
  .next (s.onHw fun h =>
    let p := h.port l.val
    if p.st == .up && decide (2 ^ (p.lanethr.toNat + 10) < count) then h.updPort l.val fun p => p.recover (some lane) else h)

/-- Physical lanes in use: 0 to 3, with the spared one replaced by lane 4. -/
def Port.active (p : Port) : List Nat := (List.range 4).map fun k => if k = p.spared.toNat then 4 else k

/-- The link is Up again: unacknowledged flits are replayed, and what waited goes on. -/
def Hw.linkUp (h : Hw) (l : Nat) : Hw :=
  let n := (h.port l).replay.length
  let h := h.updPort l fun p => Port.pump p.waiting { p with
    st := .up, suspect := none, reps := p.reps.map fun _ => 0, nakSent := false
    retry := BitVec.ofNat 32 (min (2 ^ 32 - 1) (p.retry.toNat + n)) }
  (h.count (ctrLink l 16) n .program 11 (srcBytes (96 + l / 16) 0xFF (0x50 + l % 16))).retryFlits.redFleet

/-- The lane test in Recovering ends; bit p of `good` says that lane p works. A lane over LANETHR is replaced where it can be. -/
def Hw.recoveryTest (h : Hw) (l : Nat) (good : BitVec 5) : Hw :=
  let p := h.port l
  if p.st != .recovering then h
  else
    let spareFree := p.spared = 7 && bit good 4
    let bad := p.active.filter fun k => !bit good k || (spareFree && p.suspect.map (·.val) == some k)
    let h := h.updPort l fun p => { p with laneok := good }
    match bad with
    | [] => h.linkUp l
    | [k] =>
      if spareFree then
        (((h.updPort l fun p => { p with spared := BitVec.ofNat 3 k }).raiseLink l 0x0E02).count (ctrLink l 18) 1 .program 11
          (srcBytes (96 + l / 16) 0xFF (0x50 + l % 16))).linkUp l
      else ((h.raiseLink l 0x0E03).leaveService l .failed).redFleet.takeRoute
    | _ => ((h.raiseLink l 0x0E03).leaveService l .failed).redFleet.takeRoute

/-- LINK_RECOVERY_TEST (16:R344, R345). -/
def execLinkRecoveryTest (l : Fin 48) (good : BitVec 5) (s : State) : Out := .next (s.onHw fun h => h.recoveryTest l.val good)

/-- CHANNEL_ABANDON_NOTICE (16:R336): the far end knows already. -/
def execChannelAbandonNotice (k : Fin 128) (s : State) : Out :=
  .next (s.onHw fun h => (h.abandon k.val).onLinks fun x => { x with notices := h.links.notices })

/-- Bulk flits held 100 ms for a lost direction are dropped (16:R345); 8 stands for the spare ports. -/
def Hw.bulkExpire (h : Hw) (d : Nat) : Hw :=
  let gone (e : Nat × Flit) : Bool := e.1 == d && flClass e.2 == 2
  if h.links.bulkHeld.any gone then
    (h.onLinks fun x => { x with bulkHeld := x.bulkHeld.filter fun e => !gone e }).raiseHub 0x0E08 0x64
  else h

/-- BULK_HOLD_EXPIRE (16:R345). -/
def execBulkHoldExpire (dir : Fin 16) (s : State) : Out := .next (s.onHw fun h => h.bulkExpire dir.val)

/-! ### Training (16:R342, R343) -/

/-- RESET FORM 2 commands of a port complete, after 0x0207 (23:R466, R470). -/
def Hw.finishPort (h : Hw) (l : Nat) : Hw :=
  let ids := (h.port l).resets
  if ids.isEmpty then h
  else ((h.updPort l fun p => { p with resets := [] }).raiseHub 0x0207 0x62 2 l).completeAll ids ⟨0, 0, 0, 0⟩

/-- The port leaves Training or Identity, which a spare takeover waits for (21:R446). -/
def Hw.leftTraining (h : Hw) (l : Nat) : Hw :=
  let h := h.updPort l fun p => { p with leftSince := true }
  if h.links.ports.toList.all fun p => p.st == .disabled || p.leftSince then h.onLinks fun x => { x with takeover := false } else h

/-- The port begins training with the DIR of its configuration; during a handover it waits in Down, and a locked port stays off. -/
def Hw.train (h : Hw) (l : Nat) : Hw :=
  if (h.port l).locked then h
  else
    let hand := h.host.handover
    h.updPort l fun p => { p with
      dirNow := p.dir, mwreason := 0, nakSent := false
      st := if hand then .down else if p.dir = 0xF then .disabled else .training }

/-- A port that is Down, Failed or Miswired. -/
def Port.untrained (p : Port) : Bool := p.st == .down || p.st == .failed || p.st == .miswired

/-- LINK_SIGNAL_FOUND (16:R342): a powered link die sees a signal or a load at its retry. -/
def execLinkSignalFound (l : Fin 48) (s : State) : Out :=
  .next (if bit s.power.ldon (l.val / 16) && (s.hw.port l.val).untrained then s.onHw fun h => h.train l.val else s)

/-- LINK_TRAINING_RETRY (16:R342): a port that is Down stays so until a signal is found. -/
def execLinkTrainingRetry (l : Fin 48) (s : State) : Out :=
  .next (s.onHw fun h =>
    let p := h.port l.val
    if p.st == .failed || p.st == .miswired then h.train l.val else h)

/-- Training ends: bits of `good` are the lanes that pass, bits of `shorted` those whose transmitter is shorted (24 Table 24-6). -/
def Hw.trainingDone (h : Hw) (l : Nat) (good shorted : BitVec 5) : Hw :=
  if (h.port l).st != .training then h
  else
    let ok := good &&& ~~~shorted
    let h := h.updPort l fun p => { p with laneok := ok, shorted := shorted, spared := 7 }
    let h := if shorted = 0 then h else h.raiseLink l 0x1408
    if popCount ok.toNat 5 < 4 then ((h.updPort l fun p => { p with st := .failed }).leftTraining l).finishPort l
    else
      let h := h.updPort l fun p => { p with st := .identity }
      match (List.range 4).find? fun k => !bit ok k with
      | some k => (h.updPort l fun p => { p with spared := BitVec.ofNat 3 k }).raiseLink l 0x0E01
      | none => h

/-- Training ends with no signal and no load on any lane: the port is Down (16 Table 16-7). -/
def Hw.trainingDark (h : Hw) (l : Nat) : Hw :=
  if (h.port l).st != .training then h
  else (h.updPort l fun p => { p with st := .down, laneok := 0, shorted := 0, spared := 7 }).leftTraining l

/-- LINK_TRAINING_DONE (16:R342); a port with no lane and no cable mated has seen no signal. -/
def execLinkTrainingDone (l : Fin 48) (good shorted : BitVec 5) (s : State) : Out :=
  .next (s.onHw fun h =>
    if good = 0 && shorted = 0 && !bit s.power.mod.cpres (l.val / 4) then h.trainingDark l.val else h.trainingDone l.val good shorted)

/-- Two DIR values that may face each other. -/
def dirsMatch (own : Nat) (ownSpare : Bool) (nbr : Nat) (nbrSpare : Bool) : Bool :=
  if own = 8 then nbr == 8 || nbrSpare
  else if nbr = 8 then ownSpare
  else decide (own < 8) && nbr == own ^^^ 1

/-- The first failed check of 16:R343, 0 for none. -/
def Links.identityReason (x : Links) (l : Nat) (id : Identity) : Nat :=
  let p := vget x.ports l (Port.init l)
  let d := p.dirNow.toNat
  if !id.ok then 1
  else if p.check && (id.physid ≠ p.expId || id.link ≠ p.expLink) then 2
  else if !dirsMatch d x.spare id.dir.toNat id.spare then 3
  else if d < 8 && !x.spare && id.lpos ≠ stepPos x.lpos d then 4
  else 0

/-- The neighbour's identity arrives in state Identity. -/
def Hw.identity (h : Hw) (l : Nat) (id : Identity) : Hw :=
  if (h.port l).st != .identity then h
  else
    let h := if id.ok then h.updPort l fun p => { p with
        nbrValid := true, ndir := id.dir, nspare := id.spare, nlink := id.link, npos := id.lpos, nphysid := id.physid }
      else h
    if id.ok && (!h.links.idValid || !id.idValid) then h
    else
      let r := h.links.identityReason l id
      if r = 0 then
        ((((h.updPort l fun p => Port.pump p.waiting { p with
          st := .up, txSeq := 0, rxNext := 0, replay := [], reps := [], nakSent := false, used := [], rxHeld := [], due := [] }).leftTraining l).finishPort l).retryFlits).redFleet
      else
        let h := (h.updPort l fun p => { p with st := .miswired, mwreason := BitVec.ofNat 4 r }).raiseLink l 0x0E05 l r
        (h.leftTraining l).finishPort l

/-- LINK_IDENTITY_RECEIVED (16:R343). -/
def execLinkIdentityReceived (l : Fin 48) (id : Identity) (s : State) : Out := .next (s.onHw fun h => h.identity l.val id)

/-- SPARE_TAKEOVER_END (21:R446). -/
def execSpareTakeoverEnd (s : State) : Out := .next (s.onHw fun h => h.onLinks fun x => { x with takeover := false })

end Sys2Proof.Machine
end

