-- ==== Sys2Proof/Machine/Dma.lean ====
section
/-! DEFINITION. Commands of data movement: granules, completions, small transfers, the multicast tree (15:R311-R327, 14:R299). -/

namespace Sys2Proof.Machine

/-- Agents of a die run: a context is on it and no pre-emption has stopped them at their granules (14:R304). -/
def Hw.agentsRun (h : Hw) (n : Nat) : Bool := (h.die n).phase == .running && (h.die n).owner.isSome

/-- Traffic class of a transfer (22 Table 22-4). -/
def Xfer.cls (x : Xfer) : Nat := if tfOnce x.rcd then 3 else 1

def Xfer.who (n : Nat) (x : Xfer) : Who := ⟨.program, x.cls, srcBytes n 0xFF (dmaEngine x.stream.val)⟩

def DieCtx.updXfer (x : DieCtx) (id : Nat) (f : Xfer → Xfer) : DieCtx :=
  { x with xfers := x.xfers.map fun t => if t.id = id then f t else t }

/-- A core of the context on die `n`, or of its saved part, that a transfer reaches. -/
def Hw.reached (h : Hw) (n : Nat) (d : Nat × Nat) : Core :=
  match (h.die n).owner with
  | some num => (h.ctxPart num d.1).core d.2
  | none => Core.init

/-- Transfers that load bank `b` of core `c` of die `n`: the dies' own and the host's. -/
def Hw.tableXfers (h : Hw) (n c b : Nat) : List Xfer :=
  let here (m : Nat) (x : Xfer) : Bool := tfDkind x.rcd == 4 && tfVbank x.rcd == b && (h.dests m x).contains (n, c)
  (List.range 16).flatMap (fun m => (h.cx m).xfers.filter (here m)) ++ (h.chip.hostX.filter fun e => here e.die.val e.x).map (·.x)

/-- A shadow that a transfer is to load holds another load, which goes on (10:R227). One whose transfer has ended early stays Loading, and the next load
replaces it (log 84, DESIGN CHOICE). -/
def Hw.shadowBusy (h : Hw) (n : Nat) (x : Xfer) : Bool :=
  tfDkind x.rcd == 4 && x.next == 0 && (h.dests n x).any fun d =>
    let s := ((h.reached n d).bank (tfVbank x.rcd)).sst
    (s == .loading || s == .held) && (h.tableXfers d.1 d.2 (tfVbank x.rcd)).any fun y => decide (0 < y.next)

/-- Transfers of one stream and core run in item order (15:R319); a second load of a Vernier shadow follows the first (10:R227). -/
def Hw.xferTurn (h : Hw) (n : Nat) (x : Xfer) : Bool := !(h.cx n).earlier x && !h.shadowBusy n x

/-- A transfer that its engine can go on with. -/
def Hw.xferReady (h : Hw) (n : Nat) (x : Xfer) : Bool :=
  !x.dropped && decide (x.next < x.total) && h.mayRun n (xferInfo (h.cx n) (h.die n).healthy x).idx x.stall && h.xferTurn n x

/-- The transfer that runs next of a stream: an engine runs one at a time, to its end, in the order of issue (15:R311). -/
def Hw.streamHead (h : Hw) (n k : Nat) : Option Xfer :=
  let l := (h.cx n).xfers.filter fun t => t.stream.val == k && h.xferReady n t
  match l.find? fun t => decide (0 < t.next) with
  | some t => some t
  | none => l.head?

/-- The streams of an engine, the one after the last it served first. -/
def DieCtx.engineOrder (x : DieCtx) (e : Nat) : List Nat :=
  let last := alGet (e + 56) x.rr e
  (List.range 8).map fun k => e + 8 * ((last / 8 + 1 + k) % 8)

/-- The transfer whose granule an engine performs next: it interleaves its streams round-robin (15:R311). -/
def Hw.engineNext (h : Hw) (n e : Nat) : Option Xfer := ((h.cx n).engineOrder e).findSome? fun k => h.streamHead n k

/-- An engine has served a stream. -/
def DieCtx.served (x : DieCtx) (k : Nat) : DieCtx := { x with rr := alPut x.rr (k % 8) k }

/-- Bytes that a granule moves, for the engine's counter (22 Table 22-1). -/
def Xfer.granuleBytes (x : Xfer) : Nat :=
  match x.plan with
  | .rotate => tfExtent x.rcd 0
  | .bytes => tfExtent x.rcd 0
  | .list => 256 * max 1 (fmtBits x.fmt / 8)
  | .dtile => tileStored x.fmt
  | .drecord => cbcSize x.fmt
  | .tile => x.slotSize
  | .flat => min x.per (boxCount x.ext - x.next * x.per) * max 1 (fmtBits x.fmt / 8)

/-- Elements dropped and withheld are counted, and the first of the launch is reported (06:R149). -/
def Hw.countDrops (h : Hw) (n eng dropped withheld : Nat) (w : Who) : Hw :=
  let h := if dropped = 0 then h else (h.count (ctrDie n 32) dropped w.priv w.cls w.src).raiseOnce n 0x0502 0xFF eng
  if withheld = 0 then h else (h.count (ctrDie n 33) withheld w.priv w.cls w.src).raiseOnce n 0x0503 0xFF eng

/-- The channel of a ring store. -/
def Xfer.chan (h : Hw) (x : Xfer) : Nat := chIndex (h.linkDir (tfLink x.rcd)) (tfChan x.rcd)

/-- The ring store's channel is abandoned, so that the store counts as complete (15:R324). -/
def Hw.storeLost (h : Hw) (x : Xfer) : Bool :=
  tfDkind x.rcd == 3 && (decide (1 < h.linkDir (tfLink x.rcd)) || (h.chb (x.chan h)).abandoned)

/-- What a ring store waits for before it completes: the neighbour's acknowledgement of all its flits so far (15:R323). -/
def Hw.storeAck (h : Hw) (x : Xfer) : Option (Nat × Nat) :=
  if tfDkind x.rcd = 3 && !h.storeLost x then some (x.chan h, (h.chb (x.chan h)).sent) else none

/-- One granule of a transfer of die `n`, when it is the one that its engine performs next (15:R311, R314, 14:R299). -/
def Hw.dmaGranule (h : Hw) (n id : Nat) : Hw :=
  match (h.cx n).xfers.find? fun t => t.id == id with
  | none => h
  | some x =>
    let e := x.stream.val % 8
    if !h.agentsRun n || (h.engineNext n e).map (·.id) != some id then h
    else
      let w := x.who n
      let i := xferInfo (h.cx n) (h.die n).healthy x
      match (x.granule ⟨n, (h.cx n).root, w, x.stall.rereadsOf⟩).run { h := h } with
      | .ok r =>
        let h := (r.2.h.faultPast n (.xfer id) i x.stall).countDrops n (dmaEngine x.stream.val) r.2.dropped r.2.withheld w
        let h := (h.count (ctrDie n (48 + 2 * e)) x.granuleBytes w.priv w.cls w.src).count (ctrDie n (49 + 2 * e)) 1 w.priv w.cls w.src
        let lost := h.storeLost x
        let ack := h.storeAck x
        h.updCx n fun y => (y.served x.stream.val).updXfer id fun t => { t with
          next := if lost then t.total else t.next + 1, stall := .run, ack := ack }
      | .error s =>
        let r := h.stopAgent n (.xfer id) i x.stall s
        r.2.updCx n fun y => (y.served x.stream.val).updXfer id fun t => { t with stall := r.1 }

/-- DMA_GRANULE (15:R314): one granule of transfer `xfer`. -/
def execDmaGranule (d : Fin 16) (xfer : Nat) (s : State) : Out := .next (s.onHw fun h => h.dmaGranule d.val xfer)

/-- A table load completes only after validation on every destination core (10:R223). -/
def Hw.validated (h : Hw) (n : Nat) (x : Xfer) : Bool :=
  tfDkind x.rcd != 4 || (h.dests n x).all fun d =>
    let s := ((h.reached n d).bank (tfVbank x.rcd)).sst
    s != .loading && s != .held

/-- The last write of a transfer is visible, or acknowledged by the neighbour, and the items before it have completed: it counts for releases and for its item, and signals DSEM (15:R313, 02:R51). -/
def Hw.dmaComplete (h : Hw) (n id : Nat) : Hw :=
  match (h.cx n).xfers.find? fun t => t.id == id with
  | none => h
  | some x =>
    if x.dropped || x.next < x.total || !h.agentsRun n || !h.validated n x || !h.ackedUpTo x.ack || (h.cx n).earlier x then h
    else
      let h := h.updCx n fun y => { y with xfers := y.xfers.filter fun t => t.id != id }
      let h := h.itemDone n x.stream.val x.core (tfOnce x.rcd)
      let h := if tfDsemen x.rcd then h.semAddDie n (tfDsem x.rcd) 1 else h
      (h.settleItems n x.stream.val).release n

/-- DMA_TRANSFER_COMPLETE (15:R313). -/
def execDmaTransferComplete (d : Fin 16) (xfer : Nat) (s : State) : Out := .next (s.onHw fun h => h.dmaComplete d.val xfer)

/-- The least count of the served cores. -/
def Hw.leastLanded (h : Hw) (n : Nat) (s : StreamSt) : Nat :=
  match h.served n s with
  | [] => 0
  | c :: r => minOf (alGet 0 s.landed c) (r.map (alGet 0 s.landed))

/-- The next item, in item order, has landed or completed on every served core: SEM is signalled (15:R318, R319, R320). -/
def Hw.itemLanded (h : Hw) (n k : Nat) : Hw :=
  match (h.cx n).stream? k with
  | none => h
  | some s =>
    if s.signalled < h.leastLanded n s then
      let h := h.updStream n k fun s => { s with signalled := s.signalled + 1 }
      if stSemen s.rcd then h.semAddDie n (stSem s.rcd) 1 else h
    else h

/-- STREAM_ITEM_LANDED (15:R318). -/
def execStreamItemLanded (d : Fin 16) (stream : Fin 64) (s : State) : Out :=
  .next (s.onHw fun h => h.itemLanded d.val stream.val)

/-! ### Small transfers (15:R321) -/

/-- The parts of a small transfer are written in the order in which they were issued. -/
def Hw.smallParts (n : Nat) (m : Small) : List (Nat × Nat × List Byte) → Hw → Except Stop Hw
  | [], h => .ok h
  | (_, rank, data) :: r, h =>
    let off : Int := (rank : Int) * smDstep m.rcd
    if smDmode m.rcd = 1 then
      let d := h.linkDir (smLink m.rcd)
      let a := ((natFld (smDst m.rcd) 0 22 : Nat) : Int) + off
      let fs := h.storeFlits d (smChan m.rcd) (smRemdie m.rcd) (smRemcore m.rcd) (wrapInt 22 a) false data
      match (h.die n).owner with
      | none => .ok h
      | some num =>
        let h := h.carry n (linkDie (smLink m.rcd)) data.length ⟨.program, 2, srcBytes n 0xFF 0x28⟩
        Hw.smallParts n m r (h.sendOrdered d (smChan m.rcd) num fs ⟨0, n, 0x28, 0x0D03, m.id⟩).1
    else
      match h.vaWrite n (wrapInt 48 (((smDst m.rcd : Nat) : Int) + off)) data ⟨.program, 2, srcBytes n 0xFF 0x28⟩ with
      | .ok h => Hw.smallParts n m r h
      | .error s => .error s

/-- Served cores of a small transfer. -/
def Hw.smallServed (h : Hw) (n : Nat) (m : Small) : List Nat := (maskCores (smCmask m.rcd)).filter fun c => bit (h.die n).healthy c

/-- What a small ring store waits for, as `Hw.storeAck` says. -/
def Hw.smallAck (h : Hw) (m : Small) : Option (Nat × Nat) :=
  let d := h.linkDir (smLink m.rcd)
  let k := chIndex d (smChan m.rcd)
  if smDmode m.rcd = 1 && decide (d < 2) && !(h.chb k).abandoned then some (k, (h.chb k).sent) else none

/-- The oldest small transfer of a die completes: SEM, and the next may follow (15:R321). -/
def Hw.smallEnds (h : Hw) (n : Nat) (m : Small) : Hw :=
  let h := h.updCx n fun x => { x with smalls := x.smalls.filter fun y => y.id != m.id }
  (if smSemen m.rcd then h.semAddDie n (smSem m.rcd) 1 else h).release n

/-- The oldest small transfer of a die, once every served core has issued its part: written, then, for a ring store once the neighbour has acknowledged it,
complete (15:R321, R323). -/
def Hw.smallComplete (h : Hw) (n : Nat) : Hw :=
  match (h.cx n).smalls with
  | [] => h
  | m :: _ =>
    if !h.agentsRun n || !h.mayRun n 72 m.stall || m.parts.length < (h.smallServed n m).length then h
    else if m.sent then (if h.ackedUpTo m.ack then h.smallEnds n m else h)
    else
      let i := agentInfo (h.die n) (.small m.id)
      match Hw.smallParts n m m.parts h with
      | .ok h =>
        let h := h.faultPast n (.small m.id) i m.stall
        let a := h.smallAck m
        if h.ackedUpTo a then h.smallEnds n m
        else h.updCx n fun x => { x with smalls := x.smalls.map fun y => if y.id = m.id then { y with sent := true, ack := a, stall := .run } else y }
      | .error s =>
        let r := h.stopAgent n (.small m.id) i m.stall s
        r.2.updCx n fun x => x.mapStall (.small m.id) fun _ => r.1

/-- SMALL_TRANSFER_COMPLETE (15:R321). -/
def execSmallTransferComplete (d : Fin 16) (s : State) : Out := .next (s.onHw fun h => h.smallComplete d.val)

/-! ### The multicast tree (15:R325) -/

/-- The tree of a die is faulted: deliveries in progress go on in chain form from their current tile, and 0x0D04 is raised once. -/
def Hw.mcastFault (h : Hw) (n : Nat) : Hw :=
  if (h.die n).mcFault then h
  else
    let tree (x : Xfer) : Bool := (tfDkind x.rcd == 2 || tfDkind x.rcd == 4) && decide (x.next < x.total)
    let host (e : HostX) : Bool := e.die.val == n && tree e.x
    let k := ((h.cx n).xfers.filter tree).length + (h.chip.hostX.filter host).length
    let h := h.onChip fun c => { c with hostX := c.hostX.map fun e => if host e then { e with x := { e.x with chained := true } } else e }
    let h := h.updDie n fun d => { d with
      mcFault := true
      mcChained := BitVec.ofNat 24 (satInc (2 ^ 24 - 1) d.mcChained.toNat k)
      cx := { d.cx with xfers := d.cx.xfers.map fun x => if tree x then { x with chained := true } else x } }
    (h.count (ctrDie n 82) k .program 3 (srcBytes n 0xFF 0x29)).raiseDie n 0x0D04 0xFF 0x29

/-- MCAST_TREE_FAULT (15:R325): parity fails at a tree stage. -/
def execMcastTreeFault (d : Fin 16) (s : State) : Out := .next (s.onHw fun h => h.mcastFault d.val)

/-- MCAST_FORCE_CHAIN (15 Table 15-7): writing 1 to CD_MCAST_STAT.FAULTED has the same effect and report. -/
def execMcastForceChain (d : Fin 16) (s : State) : Out := .next (s.onHw fun h => h.mcastFault d.val)

end Sys2Proof.Machine
end

