-- ==== Sys2Proof/Machine/Gme.lean ====
section
/-! DEFINITION. The gather-and-merge engines: product rounds, the banked accumulator, the hash-indexed accumulator (11). -/

namespace Sys2Proof.Machine

/-! ### The job record (11 Table 11-1) -/

def gjCmask (w : Word512) : Nat := fld w 507 500
def gjE (w : Word512) : Int := toSigned 9 (fld w 475 467)
def gjQ (w : Word512) : Nat := fld w 466 462
def gjR0 (w : Word512) : Nat := fld w 461 446
def gjC0 (w : Word512) : Nat := fld w 445 430
def gjRb (w : Word512) : Nat := fld w 429 424
def gjCb (w : Word512) : Nat := fld w 423 418
def gjNseg (w : Word512) : Nat := fld w 417 409
def gjOvlog2 (w : Word512) : Nat := fld w 408 404
def gjInit (w : Word512) : Bool := bit w 403
def gjOvbase (w : Word512) : Nat := fld w 383 336

/-- K of a tile format (03:R77); 0 for a format of no K class. -/
def fmtK (f : Nat) : Nat := if f = 4 || f = 5 || f = 7 || f = 8 then 64 else if f = 2 then 32 else if f = 6 then 128 else 0

/-- Pitch of round slots (11:R238). -/
def roundPitch (q : Nat) : Nat := 0x8000 + q * 0x2000

/-! ### Refusals (11 Table 11-2) -/

/-- Reserved or unused fields are not zero. -/
def gjFieldsBad (w : Word512) : Bool :=
  let op := gjOp w
  op = 0 || 4 < op || fld w 402 384 ≠ 0 || fld w 335 0 ≠ 0 ||
    (op ≠ 1 && (gjCmask w ≠ 0 || fld w 475 418 ≠ 0)) || ((op = 2 || op = 4) && fld w 499 488 ≠ 0) ||
    (op ≠ 3 && fld w 417 403 ≠ 0) || (!(op = 3 && gjInit w) && (gjOvlog2 w ≠ 0 || gjOvbase w ≠ 0))

/-- A job uses a slot with TRANS = 1, which only whole-tile transfers may (06:R142). -/
def gjTrans (j : GJob) : Bool := dsTrans j.slotB || ((gjOp j.rcd = 1 || gjOp j.rcd = 3) && dsTrans j.slotA)

/-- Slots of the wrong kind or shape. Table 11-2 names SIZE0 of VALS as its width and SIZE1 as its length; a checked record layout is no destination of
a GME (05:R130). A use under TRANS = 1 is refused with them (log 79, DEDUCED). -/
def gjSlotsBad (g : Gme) (j : GJob) : Bool :=
  let a := j.slotA
  let b := j.slotB
  let dest := dsKind b ≠ 1 || dsRank b ≠ 2 || !dsWrite b || fmtIsBxi (dsFormat b) || 2 ≤ dsLayout b
  gjTrans j || match gjOp j.rcd with
  | 1 => dsKind a ≠ 1 || dsKind b ≠ 1 || dsLayout a ≠ 1 || dsLayout b ≠ 1 || dsRank a ≠ 2 || dsRank b ≠ 2 ||
      fmtK (dsFormat a) = 0 || fmtK (dsFormat a) ≠ fmtK (dsFormat b)
  | 2 => dest || dsLayout b ≠ 1
  | 3 => dsKind a ≠ 1 || dsLayout a ≠ 0 || dsFormat a ≠ 0xA || dsRank a ≠ 1 || dsKind b ≠ 1 || dsLayout b ≠ 0 ||
      dsFormat b ≠ 1 || dsRank b ≠ 2 || dsSize b 0 ≠ 16 * gjNseg j.rcd || dsSize b 1 < dsSize a 0
  | _ => dest || g.nseg.any fun k => dsSize b 1 ≠ 16 * k

/-- Slices of a product job. -/
def gjSlices (j : GJob) : Nat := dsSize j.slotA 1 / fmtK (dsFormat j.slotA)

def gjWindow (w : Word512) : GWin := ⟨gjR0 w, gjC0 w, gjRb w, gjCb w, gjE w⟩

def gjShapeOk (n : Nat) : Bool := n == 8 || n == 16 || n == 24 || n == 32

/-- Reasons 0x03 to 0x07 of a product job. -/
def Hw.gjProduct (h : Hw) (n cl : Nat) (g : Gme) (s : StreamSt) (j : GJob) : Nat :=
  let w := j.rcd
  let a := j.slotA
  let b := j.slotB
  let k := fmtK (dsFormat a)
  let q := s.q.getD (gjQ w)
  if dsSize a 1 ≠ dsSize b 0 || dsSize a 1 % k ≠ 0 then 3
  else if gjR0 w % 4 ≠ 0 || gjC0 w % 4 ≠ 0 || !gjShapeOk (gjRb w) || !gjShapeOk (gjCb w) || 256 < gjRb w * gjCb w ||
      dsSize a 0 ≤ 16 * gjR0 w || dsSize b 1 ≤ 16 * gjC0 w then 4
  else if gjCmask w = 0 || gjCmask w ≠ natFld (stCmask s.rcd) (8 * cl) 8 ||
      (List.range 8).any fun p => natFld (gjCmask w) p 1 = 1 && !bit (h.die n).healthy (8 * cl + p) then 5
  else if gjE w < -160 || 80 < gjE w || gjQ w = 0 || 16 < gjQ w || q < gjQ w ||
      2 ^ 22 < 64 * stSpbase s.rcd + stDepth s.rcd * roundPitch q then 6
  else if g.win.any (fun x => x ≠ gjWindow w) || 256 < g.contrib.toNat + gjSlices j then 7
  else 0

/-- The overflow table is misaligned or not wholly mapped to the local stack. -/
def Hw.ovBad (h : Hw) (n base log2 : Nat) : Bool :=
  base % 65536 ≠ 0 || !(pagesOfRange base (128 * 2 ^ log2)).all fun p => match h.walk n (h.cx n).root p.1 2 with
    | .ok l => !l.host && l.stk == n
    | .error _ => false

/-- The reason for refusing a job as it starts, or 0 (11:R235). -/
def Hw.gjReason (h : Hw) (n cl : Nat) (j : GJob) : Nat :=
  let g := h.gme n cl
  let w := j.rcd
  match (h.cx n).stream? j.stream.val with
  | none => 0
  | some s =>
    if j.foreign then 8
    else if gjFieldsBad w then 1
    else if gjSlotsBad g j then 2
    else match gjOp w with
      | 1 => h.gjProduct n cl g s j
      | 3 =>
        if gjNseg w = 0 || 256 < gjNseg w || (gjInit w && (gjOvlog2 w < 10 || 22 < gjOvlog2 w)) then 6
        else if !gjInit w && (g.ovLog2 = 0 || g.nseg ≠ some (gjNseg w)) then 7
        else if gjInit w && h.ovBad n (gjOvbase w) (gjOvlog2 w) then 8 else 0
      | _ => 0

/-! ### Queues -/

/-- A job of the cluster's GME, which stands as its stall says, may go on. -/
def Hw.gmeRuns (h : Hw) (n cl : Nat) (j : GJob) : Bool := h.agentsRun n && h.mayRun n (75 + cl) j.stall

/-- A record that could not be read at its trigger is read now, in order. -/
def Hw.gmeKnow (h : Hw) (n cl : Nat) : Hw :=
  match (h.gme n cl).bjobs.find? fun j => !j.known with
  | none => h
  | some j =>
    if !h.gmeRuns n cl j then h
    else (h.updGme n cl fun g => { g with bjobs := g.bjobs.filter fun k => k.id != j.id }).gmeFetch n cl j

/-- The job that the banked accumulator runs: the earliest, once its record is known. -/
def Gme.bhead (g : Gme) : Option GJob := g.bjobs.head?.filter (·.known)

/-- The job that the hash-indexed accumulator runs: the earliest, when no earlier record is unread (11:R233). -/
def Gme.hhead (g : Gme) : Option GJob := g.hjobs.head?.filter fun j => !g.bjobs.any fun k => !k.known && decide (k.id < j.id)

def Hw.updJob (h : Hw) (n cl id : Nat) (f : GJob → GJob) : Hw :=
  h.updGme n cl fun g =>
    let m := fun (j : GJob) => if j.id = id then f j else j
    { g with bjobs := g.bjobs.map m, hjobs := g.hjobs.map m }

/-- The stream closes when its last job has ended; empty rounds that it would still deliver are not (15:R320, 11:R237). -/
def Hw.gmeClose (h : Hw) (n cl k : Nat) : Hw :=
  let g := h.gme n cl
  let open_ := (g.bjobs ++ g.hjobs).any fun j => j.stream.val == k
  match (h.cx n).stream? k with
  | some s =>
    if stCount s.rcd ≤ s.started && !open_ then
      (h.updGme n cl fun g => { g with
        rounds := g.rounds.filter fun r => r.stream.val != k
        extra := g.extra.filter fun r => r.stream.val != k }).updStream n k fun s => { s with isOpen := false }
    else h
  | none => h

/-- A job ends: it leaves its queue, and releases that waited for it may pass. Rounds of it that were not delivered follow all the same. -/
def Hw.jobEnds (h : Hw) (n cl : Nat) (j : GJob) : Hw :=
  let h := h.updGme n cl fun g => { g with
    bjobs := g.bjobs.filter fun k => k.id != j.id
    hjobs := g.hjobs.filter fun k => k.id != j.id
    extra := g.extra ++ (g.bjobs.filter fun k => k.id == j.id).flatMap (·.todo) }
  (h.gmeClose n cl j.stream.val).release n

/-- The counters of the GME (22 Table 22-1 groups 12 and 13). -/
def Hw.gmeCount (h : Hw) (n cl : Nat) (hash : Bool) (e k : Nat) : Hw :=
  if k = 0 then h else h.count (ctrDie n e) k .program (if hash then 5 else 4) (srcBytes n 0xFF (0x10 + cl))

/-- What every refusal does: 0x0901, LASTREF and a count (11:R235); a use of a slot with TRANS = 1 is a dropped use too (06:R142, log 79, DEDUCED). -/
def Hw.gmeRefuse (h : Hw) (n cl : Nat) (hash : Bool) (j : GJob) (reason : Nat) : Hw :=
  let h := (h.updGme n cl fun g => { g with lastref := BitVec.ofNat 8 reason }).raiseDie n 0x0901 0xFF (0x10 + cl) reason
  let h := if reason = 2 && gjTrans j then (h.raiseDie n 0x0504 0xFF (0x10 + cl)).gmeCount n cl hash 34 1 else h
  h.gmeCount n cl hash 114 1

/-- A job stops at its granule. -/
def Hw.jobStops (h : Hw) (n cl : Nat) (j : GJob) (s : Stop) : Hw :=
  if s = .wait then h
  else
    let r := h.stopAgent n (gmeAgent cl) (gmeInfo (h.cx n) cl j) j.stall s
    r.2.updJob n cl j.id fun k => { k with stall := r.1 }

/-- A job has got past its granule. -/
def Hw.jobPast (h : Hw) (n cl : Nat) (j : GJob) (f : GJob → GJob) : Hw :=
  (h.faultPast n (gmeAgent cl) (gmeInfo (h.cx n) cl j) j.stall).updJob n cl j.id fun k => { f k with stall := .run }

def Hw.gmeEnv (h : Hw) (n cl : Nat) (j : GJob) : GEnv := ⟨n, (h.cx n).root, gmeWho n cl (3 ≤ gjOp j.rcd), j.stall.rereadsOf⟩

/-- A job with its slots as they stand at its start (06:R136). -/
def DieCtx.jobSlots (x : DieCtx) (j : GJob) : GJob :=
  let b := x.slot (fld j.rcd 487 476)
  { j with slotA := x.slot (fld j.rcd 499 488), slotB := b, win := if dsWinen b then x.slot (dsWinslot b) else 0 }

/-! ### Block-sparse products (11:R236, R237) -/

/-- Presence of the block of A that holds an element, by the header of its tile (05:R122). -/
def blockPresent (e : GEnv) (a : Word512) (r c : Nat) : GM Bool := do
  let t := tilePlace a [r, c]
  let _ ← rdTile e (dsFormat a) t.1
  let b ← rdBytes e t.1 32
  pure ((tileHead b).present.testBit (4 * (t.2.1 / 16) + t.2.2 / 16))

/-- Strip (s, R) is present: some block of it is, and its rows are in the box. -/
def stripPresent (e : GEnv) (a : Word512) (k s r : Nat) : GM Bool := do
  if dsSize a 0 ≤ 16 * r then pure false
  else
    let l ← (List.range (k / 16)).mapM fun i => blockPresent e a (16 * r) (k * s + 16 * i)
    pure (l.any id)

/-- Present strips of each slice, in ascending row-block. -/
def sliceStrips (e : GEnv) (j : GJob) (s : Nat) : GM (List Nat) := do
  let k := fmtK (dsFormat j.slotA)
  let rs := (List.range (gjRb j.rcd)).map (· + gjR0 j.rcd)
  let ps ← rs.mapM fun r => stripPresent e j.slotA k s r
  pure ((rs.zip ps).filter (·.2) |>.map (·.1))

/-- A list cut into pieces of at most `q`. -/
def cutBy {α : Type} (q : Nat) : Nat → List α → List (List α)
  | 0, _ => []
  | fuel + 1, l => if l.isEmpty || q = 0 then [] else l.take q :: cutBy q fuel (l.drop q)

/-- Cores of a job, lowest position first. -/
def gjCores (cl : Nat) (w : Word512) : List Nat := ((List.range 8).filter fun p => natFld (gjCmask w) p 1 = 1).map (· + 8 * cl)

/-- An empty round, the last of its core. -/
def emptyRound (j : GJob) (c : Nat) (status : BitVec 8) : Round := ⟨j.stream, j.id, c, 0, 0, [], true, status, 0⟩

/-- Rounds dealt to cores (11:R237): round u goes to core u mod a, and every core gets the same number. -/
def dealRounds (j : GJob) (cores : List Nat) (cuts : List (Nat × Nat × List Nat)) : List Round :=
  let a := max 1 cores.length
  let u := cuts.length
  let per := max 1 ((u + a - 1) / a)
  (List.range (per * cores.length)).map fun i =>
    let c := cuts.getD i (0, 0, [])
    ⟨j.stream, j.id, cores.getD (i % a) 0, c.2.1, c.1, c.2.2, i / a + 1 == per, 0, 0⟩

/-- The rounds of a product job, in order of column group, slice and cut. -/
def productRounds (e : GEnv) (cl : Nat) (j : GJob) : GM (List Round) := do
  let strips ← (List.range (gjSlices j)).mapM fun s => sliceStrips e j s
  let cuts := (List.range (gjCb j.rcd / 8)).flatMap fun g =>
    ((List.range strips.length).zip strips).flatMap fun x => (cutBy (gjQ j.rcd) x.2.length x.2).map fun p => (g, x.1, p)
  pure (dealRounds j (gjCores cl j.rcd) cuts)

/-- A product job is refused: each core it names receives one empty round; a record that was not read names every core of the
stream (11:R233, R235). -/
def Hw.refuseProduct (h : Hw) (n cl : Nat) (j : GJob) (reason : Nat) : Hw :=
  let served := (((h.cx n).stream? j.stream.val).map (h.served n)).getD []
  let cores := if j.foreign then served else (gjCores cl j.rcd).filter fun c => bit (h.die n).healthy c
  let h := (h.gmeRefuse n cl false j reason).gmeCount n cl false 113 cores.length
  let mask := cores.foldl (fun m c => m + 2 ^ (c % 8)) 0
  let rcd : Word512 := setFld (setFld j.rcd 511 508 1) 507 500 mask
  let h := h.updJob n cl j.id fun k => { k with
    rcd := rcd, started := true, dealt := true, todo := cores.map fun c => emptyRound j c (BitVec.ofNat 8 reason) }
  if cores.isEmpty then h.jobEnds n cl j else h.release n

/-- A job starts: it takes its slots as they stand and is validated, or refused (11:R235, 06:R136). -/
def Hw.jobStart (h : Hw) (n cl : Nat) (hash : Bool) (j : GJob) : Option GJob × Hw :=
  if j.started then (some j, h)
  else
    let j := { (h.cx n).jobSlots j with started := true }
    let r := h.gjReason n cl j
    if r = 0 then (some j, h.updJob n cl j.id fun _ => j)
    else if gjOp j.rcd = 1 || j.foreign then (none, h.refuseProduct n cl j r)
    else (none, (h.gmeRefuse n cl hash j r).jobEnds n cl j)

/-- A product job sets or joins the window and deals its rounds (11:R236, R237, R245). -/
def Hw.dealProduct (h : Hw) (n cl : Nat) (j : GJob) : Hw :=
  match (productRounds (h.gmeEnv n cl j) cl j).run { h := h } with
  | .error s => h.jobStops n cl j s
  | .ok r =>
    let h := r.2.h.jobPast n cl j fun k => { k with dealt := true, todo := r.1 }
    let h := h.updStream n j.stream.val fun s => { s with q := some (s.q.getD (gjQ j.rcd)) }
    let h := h.updGme n cl fun g => { g with win := some (gjWindow j.rcd), contrib := BitVec.ofNat 9 (g.contrib.toNat + gjSlices j) }
    (h.gmeCount n cl false 112 r.1.length).gmeCount n cl false 113 (r.1.filter fun x => x.strips.isEmpty).length

/-- The banked job at the head starts if it is a product, or is refused (also with a reserved OP or an unread record). -/
def Hw.gmeProduct (h : Hw) (n cl : Nat) : Hw :=
  let h := h.gmeKnow n cl
  match (h.gme n cl).bhead with
  | none => h
  | some j =>
    if !h.gmeRuns n cl j || j.dealt || (gjOp j.rcd = 2 && !j.foreign) then h
    else match h.jobStart n cl false j with
      | (none, h) => h
      | (some j, h) => h.dealProduct n cl j

/-- GME_PRODUCT_JOB (11:R236). -/
def execGmeProductJob (d : Fin 16) (cl : Fin 4) (s : State) : Out := .next (s.onHw fun h => h.gmeProduct d.val cl.val)

/-! ### Rounds (11:R238, R239) -/


/-- An element of A as the GME supplies it: zero outside the box and in an absent block. -/
def elemA (e : GEnv) (a : Word512) (r c : Nat) : GM El := do
  if dsSize a 0 ≤ r then pure El.zero
  else
    let x ← readEl e a [(r : Int), (c : Int)]
    let p ← blockPresent e a r c
    pure (if p then x else { x with raw := 0 })

/-- The stationary set of a round and its scale lines (11 Table 11-3). -/
def roundSet (e : GEnv) (b : Word512) (s col : Nat) : GM (List Byte × List Byte) := do
  let fmt := dsFormat b
  let k := fmtK fmt
  let rows ← (List.range k).mapM fun i => (List.range 128).mapM fun l => readEl e b [((k * s + i : Nat) : Int), ((col + l : Nat) : Int)]
  let set := rows.flatMap fun r => packElems fmt (r.map (·.raw))
  let scales := if fmtIsMx fmt then
      (List.range (k / 32)).flatMap fun g => (List.range 128).map fun l =>
        Config.gmeScale (k * s + 32 * g) (col + l)
    else []
  pure (set, scales)

/-- The activations of a round and their scale lines (11 Table 11-3). -/
def roundActs (e : GEnv) (a : Word512) (s : Nat) (strips : List Nat) (q : Nat) : GM (List Byte × List Byte) := do
  let fmt := dsFormat a
  let k := fmtK fmt
  let rows ← (strips.flatMap fun r => (List.range 16).map (· + 16 * r)).mapM fun r => do
    let l ← (List.range k).mapM fun c => elemA e a r (k * s + c)
    pure (r, l)
  let acts := rows.flatMap fun r => packElems fmt (r.2.map (·.raw))
  let scales := if fmtIsMx fmt then
      rows.flatMap fun r => (List.range (k / 32)).map fun g => BitVec.ofNat 8 (r.2.getD (32 * g) El.zero).scale
    else []
  pure (bytesAt acts 0 (16 * q * 64), if fmtIsMx fmt then bytesAt scales 0 (16 * q * (k / 32)) else [])

/-- A round header (11 Table 11-4). -/
def roundHeader (r : Round) : List Byte :=
  leBytes 64 (put r.slice 96 32 + put r.cgroup 88 8 + put r.status.toNat 64 8 + put r.strips.length 32 5 + put (b2n r.last) 0 32)

/-- What a round places in its slot: offset and bytes. -/
def roundPieces (e : GEnv) (j : GJob) (q : Nat) (r : Round) : GM (List (Nat × List Byte)) := do
  if r.strips.isEmpty then
    pure [(0, roundHeader r), (0x400, List.replicate 8192 0), (0x2800, List.replicate (1024 * q) 0)]
  else
    let s ← roundSet e j.slotB r.slice (16 * (gjC0 j.rcd + 8 * r.cgroup))
    let a ← roundActs e j.slotA r.slice r.strips q
    pure ([(0, roundHeader r), (0x400, s.1), (0x2800, a.1)] ++
      (if s.2.isEmpty then [] else [(0x80, s.2)]) ++ (if a.2.isEmpty then [] else [(0x2400, a.2)]))

/-- The rounds that occupy slots of a stream on a core: delivered, and their partials not yet taken. -/
def Gme.occupied (g : Gme) (k c : Nat) : Nat :=
  let mine (r : Round) : Bool := r.core == c && r.stream.val == k
  (g.rounds.filter mine).length + (g.back.filter fun b => mine b.round).length

/-- A round goes into the slot that follows, of its stream and core (11:R238); `j` is the job whose operands it takes. -/
def Hw.placeRound (h : Hw) (n : Nat) (j : GJob) (s : StreamSt) (r : Round) : Except Stop Hw :=
  let cl := r.core / 8
  let q := if gjQ j.rcd = 0 then s.q.getD 1 else gjQ j.rcd
  match (roundPieces (h.gmeEnv n cl j) j q r).run { h := h } with
  | .error st => .error st
  | .ok p =>
    let base := 64 * stSpbase s.rcd + alGet 0 s.landed r.core % stDepth s.rcd * roundPitch (s.q.getD 1)
    let put (h : Hw) (x : Nat × List Byte) : Hw :=
      let b := x.2.take (2 ^ 22 - (base + x.1))
      (h.updCore n r.core fun k => k.extLocal (base + x.1) b n).countBanks n r.core (base + x.1) b.length (gmeWho n cl false)
    let h := p.1.foldl put p.2.h
    let h := h.updGme n cl fun g => { g with rounds := g.rounds ++ [r] }
    .ok (h.updStream n j.stream.val fun s => { s with landed := bump s.landed r.core })

/-- An empty job record, for an empty round after its job. -/
def afterJob (r : Round) : GJob := ⟨r.job, r.stream, 0, 0, 0, 0, 0, true, false, true, true, [], [], 0, .run⟩

/-- The next round of a core goes into its slot once that is free: one that follows an ended job, or the next of the job at the head (11:R237, R238). -/
def Hw.roundDeliver (h : Hw) (n c : Nat) : Hw :=
  let cl := c / 8
  let g := h.gme n cl
  match g.extra.find? fun r => r.core == c with
  | some r =>
    match (h.cx n).stream? r.stream.val with
    | none => h
    | some s =>
      if !h.agentsRun n || stDepth s.rcd ≤ g.occupied r.stream.val c then h
      else match h.placeRound n (afterJob r) s r with
        | .error _ => h
        | .ok h => h.updGme n cl fun g => { g with extra := g.extra.erase r }
  | none =>
    match g.bhead with
    | none => h
    | some j =>
      match j.todo.find? fun r => r.core == c, (h.cx n).stream? j.stream.val with
      | some r, some s =>
        if !h.gmeRuns n cl j || stDepth s.rcd ≤ g.occupied j.stream.val c then h
        else match h.placeRound n j s r with
          | .error st => h.jobStops n cl j st
          | .ok h => h.jobPast n cl j fun k => { k with todo := k.todo.erase r }
      | _, _ => h

/-- GME_ROUND_DELIVER (11:R238). -/
def execGmeRoundDeliver (d : Fin 16) (c : Fin 32) (s : State) : Out := .next (s.onHw fun h => h.roundDeliver d.val c.val)

/-! ### The banks and their conflict queues (11:R241-R244) -/

/-- A partial as a window element: FLAGS and SUM, and whether it saturates (11:R241). -/
def winPartial (e : Int) (x : Nat) : Nat × Int × Bool :=
  match ofF32 x with
  | .nan => (3, 0, false)
  | .inf neg => (if neg then 2 else 1, 0, false)
  | .num neg m ex =>
    let v := roundInt .even neg m (ex - e)
    let lim : Int := 2 ^ 53 - 1
    if lim < v then (0, lim, true) else if v < -lim then (0, -lim, true) else (0, v, false)

/-- Two window elements added: SUMs added, FLAGS ORed (11:R241). -/
def winSum (a b : Word64) : Word64 :=
  BitVec.ofNat 64 (put (natFld a.toNat 62 2 ||| natFld b.toNat 62 2) 62 2 + (a.toNat + b.toNat) % 2 ^ 62)

/-- A partial as a window element, and whether it saturates. -/
def winEncode (e : Int) (x : Nat) : Word64 × Bool :=
  let p := winPartial e x
  (BitVec.ofNat 64 (put p.1 62 2 + wrapInt 62 p.2.1), p.2.2)

/-- A failing element is used with FLAGS 0b11 (11:R253). -/
def winBad (bad : Bool) (x : Word64) : Word64 := if bad then x ||| (3 <<< 62) else x

/-- Where an element of the window lies: its byte address / 8 in the 32 banks of 16 KiB (11:R242). -/
def winKey (w : GWin) (row col : Nat) : Nat :=
  let r := row / 16
  let c := col / 16
  2048 * (4 * ((r + c / 8) % 8) + c % 4) + 256 * (c / 4 * (w.rb / 8) + r / 8) + 16 * (row % 16) + col % 16

/-- Rows of partials that a round hands back. -/
def Back.rows (b : Back) : Nat := 16 * b.round.strips.length

/-- The segments of row `i` of a round, with their banks, and whether a partial saturates. -/
def Back.segs (b : Back) (w : GWin) (i : Nat) : List (Nat × Seg) × Bool :=
  let row := 16 * (b.round.strips.getD (i / 16) 0 - w.r0) + i % 16
  let data := bytesAt b.data (512 * i) 512
  let parts := (List.range 128).map fun l => winEncode w.e (leAt data (4 * l) 4)
  let seg (k : Nat) : Nat × Seg :=
    let at_ := winKey w row (128 * b.round.cgroup + 16 * k)
    (at_ / 2048, ⟨at_ % 2048 / 16, ((parts.drop (16 * k)).take 16).map (·.1), [], [b.round.id]⟩)
  ((List.range 8).map seg, parts.any (·.2))

/-- A segment merged into a queued one, which is read, and written anew. -/
def Seg.merge (q s : Seg) : Seg :=
  ⟨q.pos, (List.range 16).map fun k => winSum (winBad (q.bad.contains k) (q.vals.getD k 0)) (winBad (s.bad.contains k) (s.vals.getD k 0)), [],
    q.ids ++ s.ids.filter fun i => !q.ids.contains i⟩

/-- What a bank's queue takes of the segments that have arrived, in order, with `ops` operations: the queue, the operations left, what waits, how many
merged, and whether a failing entry was read (11:R243). An append is no operation (log 80, DEDUCED). -/
def absorb : Nat → List Seg → List Seg → Nat → Bool → List Seg × Nat × List Seg × Nat × Bool
  | ops, q, [], m, bad => (q, ops, [], m, bad)
  | ops, q, s :: r, m, bad =>
    match q.find? fun e => e.pos == s.pos with
    | some e =>
      match ops with
      | 0 => (q, 0, s :: r, m, bad)
      | k + 1 => absorb k (q.map fun x => if x.pos = s.pos then x.merge s else x) r (m + 1) (bad || !e.bad.isEmpty || !s.bad.isEmpty)
    | none => if q.length < 16 then absorb ops (q ++ [s]) r m bad else (q, ops, s :: r, m, bad)

/-- The head entry of bank `b` retires: its 128 bytes are read, added into and written. The second part says that a value of bad parity was read. -/
def Gme.retire (g : Gme) (b : Nat) (s : Seg) : Gme × Bool :=
  let key (k : Nat) : Nat := 2048 * b + 16 * s.pos + k
  let new (k : Nat) : Word64 := winSum (winBad (g.badElems.contains (key k)) (smGet (0 : Word64) g.elems (key k))) (winBad (s.bad.contains k) (s.vals.getD k 0))
  ({ g with
      elems := (List.range 16).foldl (fun l k => smPut (0 : Word64) l (key k) (new k)) g.elems
      badElems := g.badElems.filter fun x => !((List.range 16).map key).contains x },
    !s.bad.isEmpty || (List.range 16).any fun k => g.badElems.contains (key k))

/-- What one step of the accumulator has done. -/
structure AccStep where
  g : Gme
  merged : Nat
  waited : Nat
  bad : Bool
  deriving DecidableEq, Repr

/-- One step of bank `b`: segments that have arrived are merged or appended, and what is left of its two operations retires head entries. -/
def AccStep.bank (a : AccStep) (arrived : List (Nat × Seg)) (b : Nat) : AccStep :=
  let old := vget a.g.waits b []
  let new := (arrived.filter fun x => x.1 == b).map (·.2)
  let r := absorb 2 (vget a.g.queues b []) (old ++ new) 0 false
  let out := r.1.take r.2.1
  let g := { a.g with queues := a.g.queues.setIfInBounds b (r.1.drop r.2.1), waits := a.g.waits.setIfInBounds b r.2.2.1 }
  let done := out.foldl (fun (x : Gme × Bool) s => let y := x.1.retire b s; (y.1, x.2 || y.2)) (g, false)
  ⟨done.1, a.merged + r.2.2.2.1, a.waited + min new.length r.2.2.1.length, a.bad || r.2.2.2.2 || done.2⟩

/-- One step of the accumulator: every bank performs its operations. -/
def Gme.accStep (g : Gme) (arrived : List (Nat × Seg)) : AccStep :=
  (List.range 32).foldl (fun a b => a.bank arrived b) ⟨g, 0, 0, false⟩

/-- Segments in the queues and before them. -/
def Gme.queued (g : Gme) : List Seg := (g.queues.toList ++ g.waits.toList).flatten

/-- The round of each core from which a row is taken next: the oldest with rows left, of those that `p` admits (11:R244). -/
def Gme.giving (g : Gme) (cl : Nat) (p : Back → Bool) : List Back :=
  (List.range 8).filterMap fun k => g.back.find? fun b => b.round.core == 8 * cl + k && decide (b.row < b.rows) && p b

/-- One step of the GME: a row of each round that gives one arrives, and the banks perform their operations. -/
def Hw.accTurn (h : Hw) (n cl : Nat) (p : Back → Bool) : Hw :=
  let eng := 0x10 + cl
  let g := h.gme n cl
  let from_ : List Back := g.giving cl p
  let rows : List (List (Nat × Seg) × Bool) := match g.win with
    | some w => from_.map fun b => b.segs w b.row
    | none => []
  let arrived := rows.flatMap (·.1)
  let g : Gme := { g with back := g.back.map fun b => if from_.any fun f => f.round.id == b.round.id then { b with row := b.row + 1 } else b }
  let r := g.accStep arrived
  let h := h.updGme n cl fun _ => r.g
  let h := from_.foldl (fun h b => h.countBanks n b.round.core 0 512 (gmeWho n cl false)) h
  let h := ((h.gmeCount n cl false 96 arrived.length).gmeCount n cl false 97 r.merged).gmeCount n cl false 98 r.waited
  let h := if rows.any (·.2) then h.raiseOnce n 0x0902 0xFF eng else h
  if r.bad then h.raiseOnce n 0x0907 0xFF eng else h

def Hw.accTurns (n cl : Nat) (p : Back → Bool) : Nat → Hw → Hw
  | 0, h => h
  | k + 1, h => Hw.accTurns n cl p k (h.accTurn n cl p)

/-- The queues run empty: they never wait on another agent (11:R243). -/
def Hw.accFlush (h : Hw) (n cl : Nat) : Hw :=
  Hw.accTurns n cl (fun _ => false) (h.gme n cl).queued.length h

/-- A round whose rows have all been taken: its job ends with the last LASTW round of its cores; until then, and after its job, another empty round
follows a LASTW one, while the stream is open and no later product job of it has begun (11:R237, R240, log 35). -/
def Hw.roundTaken (h : Hw) (n cl : Nat) (r : Round) : Hw :=
  let g := h.gme n cl
  if !r.last then h
  else match g.bjobs.find? fun j => j.id == r.job with
  | some j =>
    let last := if j.lastw.contains r.core then j.lastw else r.core :: j.lastw
    if (gjCores cl j.rcd).all last.contains then h.jobEnds n cl j
    else h.updJob n cl j.id fun k => { k with lastw := last, todo := k.todo ++ [emptyRound j r.core 0] }
  | none =>
    let goes := (((h.cx n).stream? r.stream.val).map (·.isOpen)).getD false && !g.bjobs.any fun j => j.stream == r.stream && gjOp j.rcd == 1
    if goes then h.updGme n cl fun g => { g with extra := g.extra ++ [{ r with strips := [], status := 0, id := 0 }] } else h

/-- Rounds whose rows have all been taken leave their slots, in order. -/
def Hw.takenFrom (n cl : Nat) : List Back → Hw → Hw
  | [], h => h
  | b :: r, h =>
    let h := h.updGme n cl fun g => { g with back := g.back.erase b, adding := g.adding ++ [b.round.id] }
    Hw.takenFrom n cl r (h.roundTaken n cl b.round)

/-- Rounds of which every segment is in its bank are complete, and releases that waited for them may pass (11:R240). -/
def Hw.accDone (h : Hw) (n cl : Nat) : Hw :=
  let h := Hw.takenFrom n cl ((h.gme n cl).back.filter fun b => decide (b.rows ≤ b.row)) h
  let h := if (h.gme n cl).back.any fun b => decide (b.row < b.rows) then h else h.accFlush n cl
  (h.updGme n cl fun g => { g with adding := g.adding.filter fun i => g.queued.any fun s => s.ids.contains i }).release n

/-- The oldest hand-back of a core is taken, one row a step, beside rows of the other rounds handed back on the cluster; with none, the queues run
empty (11:R239, R240, R243). -/
def Hw.roundHandback (h : Hw) (n c : Nat) : Hw :=
  let cl := c / 8
  if !h.agentsRun n then h
  else match (h.gme n cl).back.find? fun b => b.round.core == c with
  | none => if (h.gme n cl).adding.isEmpty then h else (h.accFlush n cl).accDone n cl
  | some b => (Hw.accTurns n cl (fun _ => true) (b.rows - b.row) h).accDone n cl

/-- GME_ROUND_HANDBACK (11:R239). -/
def execGmeRoundHandback (d : Fin 16) (c : Fin 32) (s : State) : Out := .next (s.onHw fun h => h.roundHandback d.val c.val)

/-- A round handed back is wholly added or not begun, and queued segments retire first (11:R254). -/
def Hw.accSettle (h : Hw) (n cl : Nat) : Hw :=
  if (h.gme n cl).back.any (fun b => decide (0 < b.row)) || !(h.gme n cl).adding.isEmpty then
    ((Hw.accTurns n cl (fun b => decide (0 < b.row)) 256 h).accFlush n cl).accDone n cl
  else h

/-! ### The banked drain (11:R245) -/

/-- Tiles of a window. -/
def winTiles (w : GWin) : Nat := w.rb / 4 * (w.cb / 4)

/-- Window element as the drain reads it. -/
def Gme.winEl (g : Gme) (w : GWin) (r c : Nat) : El :=
  let k := winKey w r c
  ⟨(winBad (g.badElems.contains k) (smGet (0 : Word64) g.elems k)).toNat, (w.e + 512).toNat, false⟩

/-- The elements of window tile `t`, with their indices in DEST. -/
def Gme.tileEls (g : Gme) (w : GWin) (t : Nat) : List (List Int × El) :=
  let r0 := 64 * (t / (w.cb / 4))
  let c0 := 64 * (t % (w.cb / 4))
  (List.range 4096).map fun i =>
    let r := r0 + i / 64
    let c := c0 + i % 64
    ([((16 * w.r0 + r : Nat) : Int), ((16 * w.c0 + c : Nat) : Int)], g.winEl w r c)

/-- One output tile of a drain. -/
def Hw.drainTile (h : Hw) (n cl : Nat) (j : GJob) (w : GWin) : Except Stop Hw :=
  let els := (h.gme n cl).tileEls w j.next
  match (writeEls (h.gmeEnv n cl j) j.slotB j.win winCode 0 (fun _ => false) els).run { h := h } with
  | .error s => .error s
  | .ok r =>
    let h := r.2.h.countDrops n (0x10 + cl) r.2.dropped r.2.withheld (gmeWho n cl false)
    .ok (if els.any fun x => natFld x.2.raw 62 2 ≠ 0 then h.raiseOnce n 0x0903 0xFF (0x10 + cl) else h)

/-- Tiles of a drain in order, up to a stop. -/
def Hw.drainFrom (n cl id : Nat) (w : GWin) : Nat → Hw → Hw
  | 0, h => h
  | fuel + 1, h =>
    match (h.gme n cl).bjobs.find? fun j => j.id == id with
    | none => h
    | some j =>
      if winTiles w ≤ j.next then h
      else match h.drainTile n cl j w with
        | .error s => h.jobStops n cl j s
        | .ok h => Hw.drainFrom n cl id w fuel (h.jobPast n cl j fun k => { k with next := k.next + 1 })

/-- The banked drain at the head runs, once the rounds before it are complete: every tile, then the window is zeroed (11:R245). -/
def Hw.gmeDrain (h : Hw) (n cl : Nat) : Hw :=
  let h := h.gmeKnow n cl
  match (h.gme n cl).bhead with
  | none => h
  | some j =>
    if !h.gmeRuns n cl j || gjOp j.rcd ≠ 2 || j.foreign || !(h.gme n cl).back.isEmpty || !(h.gme n cl).adding.isEmpty then h
    else match h.jobStart n cl false j with
      | (none, h) => h
      | (some j, h) =>
        let g := h.gme n cl
        let h := match g.win with
          | some w => (if g.badElems.isEmpty then h else h.raiseOnce n 0x0907 0xFF (0x10 + cl)).drainFrom n cl j.id w (winTiles w)
          | none => h
        let tiles := (g.win.map winTiles).getD 0
        if ((h.gme n cl).bjobs.find? fun k => k.id == j.id).any fun k => tiles ≤ k.next then
          (h.updGme n cl fun g => { g with win := none, contrib := 0, elems := [], badElems := [] }).jobEnds n cl j
        else h

/-- GME_BANKED_DRAIN (11:R245). -/
def execGmeBankedDrain (d : Fin 16) (cl : Fin 4) (s : State) : Out := .next (s.onHw fun h => h.gmeDrain d.val cl.val)

/-! ### Row scatter-add (11:R246-R248) -/

def hashBucket (key : Nat) : Nat := (key * 0x9E3779B1 % 2 ^ 32) >>> 22
def ovProbe (key log2 i : Nat) : Nat := ((key * 0x85EBCA6B % 2 ^ 32) >>> (32 - log2) + i) % 2 ^ log2

/-- Entry `i` of the overflow table: USED, KEY and VALUE (11 Table 11-6). -/
def ovEntry (e : GEnv) (base i : Nat) : GM (Bool × Nat × List Nat) := do
  let b ← rdBytes e (base + 128 * i) 128
  pure ((leAt b 4 1).testBit 0, leAt b 0 4, (List.range 16).map fun k => leAt b (8 + 4 * k) 4)

def ovWrite (e : GEnv) (base i key : Nat) (val : List Nat) : GM Unit :=
  wrBytes e (base + 128 * i) (leBytes 8 (put 1 32 1 + put key 0 32) ++ val.flatMap (leBytes 4) ++ List.replicate 56 0)

/-- The probe that holds the key, or the first free one, of the 64 (11:R248). -/
def ovSearch (e : GEnv) (base log2 key : Nat) : Nat → Nat → GM (Option (Nat × Option (List Nat)))
  | 0, _ => pure none
  | fuel + 1, i => do
    let p := ovProbe key log2 i
    GM.modifyHw fun h => h.count (ctrDie e.n 102) 1 e.who.priv e.who.cls e.who.src
    let x ← ovEntry e base p
    if !x.1 then pure (some (p, none))
    else if x.2.1 = key then pure (some (p, some x.2.2))
    else ovSearch e base log2 key fuel (i + 1)

def addVals (a b : List Nat) : List Nat := List.zipWith fadd a b

/-- A granule's change of the accumulator. -/
def updHash (n cl : Nat) (f : Gme → Gme) : GM Unit := GM.modifyHw fun h => h.updGme n cl f

/-- A value of this entry fails its parity. -/
def Gme.hashBad (g : Gme) (x : HEntry) : Bool := g.badHash.any fun i => i / 16 == x.place

/-- The values of an entry as they are read: one that fails is the canonical NaN (11:R253). -/
def Gme.hashVal (g : Gme) (x : HEntry) : List Nat :=
  ((List.range x.val.length).zip x.val).map fun v => if g.badHash.contains (16 * x.place + v.1) then nan32 else v.2

/-- One more on a count of drops. -/
def bump64 (x : Word64) : Word64 := x + 1

/-- The update of one key (11:R247). -/
def hashUpdate (e : GEnv) (n cl key : Nat) (val : List Nat) : GM Unit := do
  let g := (← get).h.gme n cl
  let eng := 0x10 + cl
  let b := hashBucket key
  match g.hash.find? fun x => x.key == key with
  | some x =>
    updHash n cl fun g => { g with
      hash := g.hash.map fun y => if y.key = key then { y with val := addVals (g.hashVal x) val } else y
      badHash := g.badHash.filter fun i => i / 16 != x.place }
    if g.hashBad x then GM.modifyHw fun h => h.raiseOnce n 0x0907 0xFF eng else pure ()
  | none =>
    let found ← (if g.spilled.contains b then ovSearch e g.ovBase g.ovLog2 key 64 0 else pure none)
    match found with
    | some (p, some old) => ovWrite e g.ovBase p key (addVals old val)
    | _ =>
      let used := (g.hash.filter fun x => x.place / 8 == b).map fun x => x.place % 8
      match (List.range 8).find? fun w => !used.contains w with
      | some w =>
        if g.hash.length < 7168 then updHash n cl fun g => { g with hash := g.hash ++ [⟨8 * b + w, key, val⟩] }
        else spill g b eng
      | none => spill g b eng
where
  spill (g : Gme) (b eng : Nat) : GM Unit := do
    updHash n cl fun g => { g with spilled := if g.spilled.contains b then g.spilled else b :: g.spilled }
    GM.modifyHw fun h => (h.raiseOnce n 0x0904 0xFF eng).gmeCount n cl true 101 1
    match ← ovSearch e g.ovBase g.ovLog2 key 64 0 with
    | some (p, none) => ovWrite e g.ovBase p key val
    | _ => GM.modifyHw fun h => (h.updGme n cl fun g => { g with keyDrops := bump64 g.keyDrops }).raiseDie n 0x0905 0xFF eng

/-- One list entry: its identifier and its row, segment by segment (11:R246). By the sizes that Table 11-2 asks of VALS a row runs along dimension 0
(log 79, DEDUCED). -/
def scatterEntry (e : GEnv) (n cl : Nat) (j : GJob) (q : Nat) : GM Unit := do
  let nseg := gjNseg j.rcd
  let x ← readEl e j.slotA [(q : Int)]
  if x.raw.testBit 31 || 0xFFFFFFFF ≤ x.raw * nseg + nseg - 1 then
    GM.modifyHw fun h => (h.updGme n cl fun g => { g with idDrops := bump64 g.idDrops }).raiseOnce n 0x0906 0xFF (0x10 + cl)
  else
    (List.range nseg).forM fun g => do
      let row ← (List.range 16).mapM fun i => readEl e j.slotB [((16 * g + i : Nat) : Int), (q : Int)]
      hashUpdate e n cl (x.raw * nseg + g) (row.map (·.raw))

/-- INIT: the accumulator is emptied and the overflow table zeroed (11:R248). -/
def scatterInit (e : GEnv) (n cl : Nat) (w : Word512) : GM Unit := do
  wrBytes e (gjOvbase w) (List.replicate (128 * 2 ^ gjOvlog2 w) 0)
  updHash n cl fun g => { g with
    hash := [], spilled := [], badHash := [], ovBase := gjOvbase w, ovLog2 := gjOvlog2 w, nseg := some (gjNseg w) }

/-- List entries in order, up to a stop. -/
def Hw.scatterFrom (n cl id : Nat) : Nat → Hw → Hw
  | 0, h => h
  | fuel + 1, h =>
    match (h.gme n cl).hjobs.find? fun j => j.id == id with
    | none => h
    | some j =>
      if dsSize j.slotA 0 ≤ j.next then h
      else match (scatterEntry (h.gmeEnv n cl j) n cl j j.next).run { h := h } with
        | .error s => h.jobStops n cl j s
        | .ok r => Hw.scatterFrom n cl id fuel (r.2.h.jobPast n cl j fun k => { k with next := k.next + 1 })

/-- INIT, once. -/
def Hw.scatterSetup (h : Hw) (n cl : Nat) (j : GJob) : Except Stop Hw :=
  if j.dealt then .ok h
  else if !gjInit j.rcd then .ok (h.jobPast n cl j fun k => { k with dealt := true })
  else match (scatterInit (h.gmeEnv n cl j) n cl j.rcd).run { h := h } with
    | .ok r => .ok (r.2.h.jobPast n cl j fun k => { k with dealt := true })
    | .error s => .error s

/-- The scatter-add at the head runs. -/
def Hw.gmeScatter (h : Hw) (n cl : Nat) : Hw :=
  let h := h.gmeKnow n cl
  match (h.gme n cl).hhead with
  | none => h
  | some j =>
    if !h.gmeRuns n cl j || gjOp j.rcd ≠ 3 then h
    else match h.jobStart n cl true j with
      | (none, h) => h
      | (some j, h) =>
        match h.scatterSetup n cl j with
        | .error s => h.jobStops n cl j s
        | .ok h =>
          let h := Hw.scatterFrom n cl j.id (dsSize j.slotA 0) h
          if ((h.gme n cl).hjobs.find? fun k => k.id == j.id).any fun k => dsSize j.slotA 0 ≤ k.next then h.jobEnds n cl j else h

/-- GME_ROW_SCATTER_ADD (11:R246). -/
def execGmeRowScatterAdd (d : Fin 16) (cl : Fin 4) (s : State) : Out := .next (s.onHw fun h => h.gmeScatter d.val cl.val)

/-! ### The hash drain (11:R249) -/

/-- Insertion by place. -/
def insPlace (a : HEntry) : List HEntry → List HEntry
  | [] => [a]
  | b :: r => if a.place < b.place then a :: b :: r else b :: insPlace a r

/-- The values of one entry to DEST, whose tile is the granule; the drain writes dense form (11:R249, R251, R254). -/
def drainEntry (e : GEnv) (j : GJob) (nseg key : Nat) (val : List Nat) : GM Unit :=
  writeEls e (setFld j.slotB 341 341 0) j.win 1 0 (fun _ => false) (((List.range 16).zip val).map fun y =>
    ([((key / nseg : Nat) : Int), ((16 * (key % nseg) + y.1 : Nat) : Int)], (⟨y.2, 0x7F, false⟩ : El)))

/-- How many entries the drain looks at: the resident ones, by bucket and way, then the overflow table in order. -/
def Gme.drainTotal (g : Gme) : Nat := g.hash.length + (if g.ovLog2 = 0 || g.spilled.isEmpty then 0 else 2 ^ g.ovLog2)

/-- Entry `i` of a hash drain. -/
def hashDrainAt (e : GEnv) (n cl : Nat) (j : GJob) (i : Nat) : GM Unit := do
  let g := (← get).h.gme n cl
  let nseg := g.nseg.getD 1
  match (g.hash.foldr insPlace [])[i]? with
  | some x =>
    drainEntry e j nseg x.key (g.hashVal x)
    if g.hashBad x then GM.modifyHw fun h => h.raiseOnce n 0x0907 0xFF (0x10 + cl) else pure ()
  | none =>
    let x ← ovEntry e g.ovBase (i - g.hash.length)
    if x.1 then drainEntry e j nseg x.2.1 x.2.2 else pure ()

/-- Entries in order, up to a stop. -/
def Hw.hashDrainFrom (n cl id : Nat) : Nat → Hw → Hw
  | 0, h => h
  | fuel + 1, h =>
    match (h.gme n cl).hjobs.find? fun j => j.id == id with
    | none => h
    | some j =>
      if (h.gme n cl).drainTotal ≤ j.next then h
      else match (hashDrainAt (h.gmeEnv n cl j) n cl j j.next).run { h := h } with
        | .error s => h.jobStops n cl j s
        | .ok r => Hw.hashDrainFrom n cl id fuel ((r.2.h.countDrops n (0x10 + cl) r.2.dropped r.2.withheld (gmeWho n cl true)).jobPast n cl j
            fun k => { k with next := k.next + 1 })

/-- The accumulator is emptied and the overflow table zeroed; OVBASE, OVLOG2 and NSEG stay (11:R249). -/
def hashEmpty (e : GEnv) (n cl : Nat) : GM Unit := do
  let g := (← get).h.gme n cl
  if g.ovLog2 = 0 then pure () else wrBytes e g.ovBase (List.replicate (128 * 2 ^ g.ovLog2) 0)
  updHash n cl fun g => { g with hash := [], spilled := [], badHash := [] }

/-- The hash drain at the head runs, entry by entry. -/
def Hw.gmeHashDrain (h : Hw) (n cl : Nat) : Hw :=
  let h := h.gmeKnow n cl
  match (h.gme n cl).hhead with
  | none => h
  | some j =>
    if !h.gmeRuns n cl j || gjOp j.rcd ≠ 4 then h
    else match h.jobStart n cl true j with
      | (none, h) => h
      | (some j, h) =>
        let total := (h.gme n cl).drainTotal
        let h := Hw.hashDrainFrom n cl j.id (total - j.next) h
        match (h.gme n cl).hjobs.find? fun k => k.id == j.id with
        | none => h
        | some j =>
          if j.next < total || !h.gmeRuns n cl j then h
          else match (hashEmpty (h.gmeEnv n cl j) n cl).run { h := h } with
            | .error s => h.jobStops n cl j s
            | .ok r => (r.2.h.jobPast n cl j id).jobEnds n cl j

/-- GME_HASH_DRAIN (11:R249). -/
def execGmeHashDrain (d : Fin 16) (cl : Fin 4) (s : State) : Out := .next (s.onHw fun h => h.gmeHashDrain d.val cl.val)

end Sys2Proof.Machine
end

