-- ==== Sys2Proof/Machine/HostBase.lean ====
section
/-! DEFINITION. Commands of the host rings: their layout, validation in the order of Table 18-11, starting and waiting (18:R381-R386, R374). -/

namespace Sys2Proof.Machine

/-! ### Layout (18 Tables 18-6, 18-7) -/

/-- What a command may use. -/
structure Shape where
  ctx : Bool
  /-- bytes of its argument block, 0 for none -/
  arg : Nat
  body : List (Nat × Nat)
  mgmt : Bool
  /-- the owning chapter checks FORM and unused fields itself (20 Table 20-10) -/
  own : Bool := false

/-- Commands with their fields; none for a reserved OPCODE or FORM (18 Tables 18-7, 18-10, 18-12, 18-13, 20-4, 21-4, 23:R466). -/
def cmShape (w : Word512) : Option Shape :=
  let die : List (Nat × Nat) := [(383, 296)]
  match cmOpcode w, cmForm w with
  | 1, 0 => some ⟨true, max 16 (16 * fld w 380 376), die, false, false⟩
  | 1, 1 => some ⟨true, 0, [(383, 355)], false, false⟩
  | 2, 0 => some ⟨true, 0, [], false, false⟩
  | 2, 1 => some ⟨true, 0, [], false, false⟩
  | 3, 0 => some ⟨true, max 16 (16 * fld w 380 376), [(380, 296)], false, false⟩
  | 4, 0 =>
    let b := match fld w 383 382 with
      | 0 => [(377, 374), (335, 272), (239, 208)]
      | 1 => [(381, 378), (335, 240)]
      | 2 => [(381, 374), (271, 208)]
      | _ => [(381, 374), (335, 208)]
    some ⟨false, 0, [(383, 382), (367, 336)] ++ b, false, false⟩
  | 4, 1 => some ⟨false, 0, [(383, 364), (359, 344)], false, false⟩
  | 5, 0 => some ⟨false, 0, [(383, 328), (319, 196)], false, false⟩
  | 5, 1 => some ⟨false, 0, [(383, 329), (319, 246), (243, 194)], false, false⟩
  | 6, 0 => some ⟨false, 0, [(383, 328), (319, 252)], false, false⟩
  | 7, 0 => some ⟨false, 64, [(383, 348)], false, false⟩
  | 8, 0 => some ⟨false, 0, [(383, 348)], false, false⟩
  | 9, 0 => some ⟨false, 64, [(383, 376)], true, false⟩
  | 0xA, 2 => some ⟨true, 0, [(383, 0)], true, true⟩
  | 0xA, _ => some ⟨true, 160, [(383, 0)], true, true⟩
  | 0xB, _ => some ⟨true, 160, [(383, 0)], true, true⟩
  | 0xC, 0 => some ⟨false, 0, [(383, 352)], true, false⟩
  | 0xC, 1 => some ⟨false, 0, [(383, 349)], true, false⟩
  | 0xC, 2 => some ⟨true, 0, [(383, 352)], true, false⟩
  | 0xD, 0 => some ⟨false, 0, [(383, 352)], true, false⟩
  | 0xE, 0 => some ⟨false, 4096, [(383, 372)], true, false⟩
  | 0xF, 0 => some ⟨false, 0, [], true, false⟩
  | 0x10, 0 => some ⟨false, 0, [], true, false⟩
  | 0x11, 0 => some ⟨false, max 4 (fld w 319 304), [(383, 288)], true, false⟩
  | 0x11, 1 => some ⟨false, max 4 (fld w 319 304), [(319, 304)], true, false⟩
  | 0x12, 0 => some ⟨false, max 32 (32 * fld w 383 379), [(383, 379)], true, false⟩
  | 0x13, 0 => some ⟨false, 64, [(383, 383), (375, 296)], true, false⟩
  | 0x14, 0 => some ⟨false, 0, [], true, false⟩
  | 0x14, 1 => some ⟨false, 0, [(383, 376)], true, false⟩
  | 0x14, 2 => some ⟨false, 0, [(383, 378)], true, false⟩
  | _, _ => none

/-- The command with the fields that it uses cleared. -/
def cmRest (s : Shape) (w : Word512) : Word512 :=
  let c := fun (x : Word512) (p : Nat × Nat) => setFld x p.1 p.2 0
  let x := ([(511, 500), (495, 478)] ++ s.body).foldl c w
  let x := if s.ctx then c x (463, 448) else x
  if s.arg = 0 then x else c x (447, 384)

/-! ### Die lists (18 Table 18-10) -/

/-- Entry `d` of an argument block, as 128 bits. -/
def dieBits (arg : List Byte) (d : Nat) : Nat := leAt arg (16 * d) 16

def dieEntOf (e : Nat) : DieEnt where
  die := ⟨natFld e 120 8 % 16, Nat.mod_lt _ (by decide)⟩
  saveOff := BitVec.ofNat 16 (natFld e 104 16)
  imgBase := BitVec.ofNat 48 (natFld e 48 48)
  saveBase := BitVec.ofNat 48 (natFld e 0 48)

/-- NDIES of a LAUNCH or RESUME. -/
def cmNdies (w : Word512) : Nat := fld w 380 376

def cmDies (w : Word512) (arg : List Byte) : List DieEnt := (List.range (cmNdies w)).map fun d => dieEntOf (dieBits arg d)

/-- The save area that begins at an offset in 64 KiB units lies in its stack. -/
def saveFits (off : Nat) : Bool := decide (off + 1024 ≤ 65536)

/-- Numbers named twice. -/
def hasDup : List Nat → Bool
  | [] => false
  | a :: r => r.contains a || hasDup r

/-! ### Validation (18:R386, Table 18-11) -/

/-- The command takes a die list. -/
def cmListed (w : Word512) : Bool := (cmOpcode w == 1 && cmForm w == 0) || cmOpcode w == 3

/-- Reasons 0x01 to 0x03, which need no argument block. -/
def cmStatic (w : Word512) : Nat :=
  match cmShape w with
  | none => 1
  | some s =>
    if cmRest s w ≠ 0 then 2
    else if s.arg ≠ 0 && (cmArg w = 0 || cmArg w % 64 ≠ 0) then 3
    else 0

/-- A context must exist, or for a LAUNCH must not. -/
def Hw.cmCtxBad (h : Hw) (w : Word512) : Bool :=
  let here := (h.ctx? (cmCtx w)).isSome
  match cmOpcode w, cmForm w with
  | 1, 0 => here
  | 1, _ => !here
  | 2, _ => !here
  | 3, _ => !here
  | 0xA, 0 => !here
  | 0xC, 2 => !here
  | _, _ => false

/-- A RESUME that does not name what the launch named (18:R385). -/
def Hw.cmListBad (h : Hw) (w : Word512) (arg : List Byte) : Bool :=
  cmOpcode w == 3 && match h.ctx? (cmCtx w) with
    | none => false
    | some c => (cmDies w arg).map (fun e => (e.die, e.saveOff, e.saveBase)) != c.ents.map (fun e => (e.die, e.saveOff, e.saveBase)) ||
        (List.range (cmNdies w)).any fun d => 16 ≤ natFld (dieBits arg d) 120 8

/-- A die field that names no compute die, or one twice. -/
def cmDieBad (w : Word512) (arg : List Byte) : Bool :=
  match cmOpcode w, cmForm w with
  | 4, 1 => decide (16 ≤ fld w 383 376)
  | 7, _ => decide (16 ≤ fld w 383 376)
  | 8, _ => decide (16 ≤ fld w 383 376)
  | 0x14, 1 => decide (16 ≤ fld w 383 376)
  | _, _ =>
    cmListed w &&
      (let ds := (List.range (cmNdies w)).map fun d => natFld (dieBits arg d) 120 8
       (ds.any fun d => decide (16 ≤ d)) || hasDup ds)

/-- SEGCNT of the context's image is kept with it. -/
def Hw.cmSegBad (h : Hw) (w : Word512) : Bool :=
  match h.ctx? (cmCtx w) with
  | none => false
  | some c => fld w 383 368 = 0 || 2 ^ c.ents.length ≤ fld w 383 368 || c.segcnt ≤ fld w 367 356

/-- An address, offset, length or count out of range. -/
def Hw.cmRangeBad (h : Hw) (w : Word512) (arg : List Byte) : Bool :=
  match cmOpcode w, cmForm w with
  | 1, 0 =>
    let role := fld w 383 381
    !(role == 1 || role == 2 || role == 3) || cmNdies w = 0 || 16 < cmNdies w || fld w 375 312 % 16 ≠ 0 ||
      (cmDies w arg).any fun e => !saveFits e.saveOff.toNat
  | 1, _ => h.cmSegBad w
  | 3, _ => cmNdies w = 0 || 16 < cmNdies w || fld w 375 312 % 16 ≠ 0
  | 4, 0 =>
    let dir := fld w 383 382
    let len := fld w 367 336
    dir = 3 || len = 0 || 2 ^ 26 < len || (dir ≠ 2 && fld w 335 272 % 64 ≠ 0) ||
      (dir ≠ 0 && 2 ^ 26 < fld w 271 240 + len) || (dir ≠ 1 && 2 ^ 26 < fld w 239 208 + len)
  | 4, 1 => !saveFits (fld w 359 344)
  | 5, 1 => fld w 271 252 ≠ 1 || !(fld w 195 194 == 1 || fld w 195 194 == 2)
  | 7, _ => !saveFits (fld w 363 348)
  | 8, _ => !saveFits (fld w 363 348)
  | 0xC, 1 => !(fld w 351 349 == 1 || fld w 351 349 == 2 || fld w 351 349 == 3)
  | 0x11, 0 => fld w 383 320 % 64 ≠ 0 || fld w 319 304 < 4 || 4096 < fld w 319 304 || fld w 303 288 < 64
  | 0x11, _ => fld w 319 304 ≠ 256
  | 0x13, _ => fld w 375 312 % 16 ≠ 0
  | 0x14, 2 => 48 ≤ fld w 383 378
  | _, _ => false

/-- The first reason that applies once the argument block has been read, or 0. -/
def Hw.cmReason (h : Hw) (w : Word512) (arg : List Byte) : Nat :=
  if cmListed w && (List.range (cmNdies w)).any fun d => natFld (dieBits arg d) 96 8 ≠ 0 then 2
  else if h.cmCtxBad w then 4
  else if h.cmListBad w arg then 5
  else if cmDieBad w arg then 6
  else if h.cmRangeBad w arg then 7
  else 0

/-! ### Starting (18:R382, R383) -/

/-- What a command does once it has started and is valid. -/
abbrev Run := Cmd → State → State

def State.cmd? (s : State) (id : Nat) : Option Cmd := s.hw.cmd? id

def Hw.updCmd (h : Hw) (id : Nat) (f : Cmd → Cmd) : Hw :=
  h.onHost fun x => { x with cmds := x.cmds.map fun c => if c.id = id then f c else c }
def State.updCmd (s : State) (id : Nat) (f : Cmd → Cmd) : State := s.onHw fun h => h.updCmd id f

/-- A command that has met a burst it cannot read waits for the re-read (13:R284). -/
def Hw.cmdReread (h : Hw) (id s b : Nat) : Hw := h.updCmd id fun c => { c with work := .burst s b }

/-- The context that a command names, which its conditions carry (20:R420, 18 Table 18-7). -/
def cmNamed (w : Word512) : Option (BitVec 16) :=
  if ((cmShape w).map (·.ctx)).getD false then some (cmCtx w) else none

/-- An invalid command changes nothing and raises 0x010A. -/
def Hw.invalid (h : Hw) (id reason : Nat) : Hw :=
  (h.raise ⟨0x010A, 99, 0xFF, 0x67, 0, 0, (h.cmd? id).bind fun c => cmNamed c.w⟩).complete id ⟨9, reason, 0x010A, 0⟩

/-- Management commands accepted in recovery (21:R441). -/
def recoveryOk (w : Word512) : Bool := let o := cmOpcode w; o == 0xE || o == 0xF || o == 0x10 || o == 0x11

def cmMgmt (w : Word512) : Bool := ((cmShape w).map (·.mgmt)).getD false

/-- A LAUNCH or RESUME of this context is still to be validated (18:R385). -/
def HostIf.validating (x : HostIf) (ctx : BitVec 16) : Bool :=
  x.cmds.any fun c => cmListed c.w && cmCtx c.w == ctx && c.wait != .running

/-- WP_RESTORE waits while a commit or handover is in progress (21:R446); every management command waits for a handover. -/
def State.mgmtWaits (s : State) (w : Word512) : Bool :=
  cmMgmt w && (s.hw.host.handover || (cmOpcode w == 0xB && (s.sec.stage == 3 || s.sec.stage == 4)))

/-- A grant that arrives during a handover is held (19:R396). -/
def State.holdGrant (s : State) (src : BitVec 2) (grant gseq : BitVec 16) (id : Option Nat) : State :=
  { s with power := { s.power with grant := { s.power.grant with held := s.power.grant.held ++ [(src, grant, gseq, id)] } } }

/-- The command, valid, acts or waits for the management cores. -/
def State.act (run : Run) (c : Cmd) (s : State) : State :=
  if s.mgmtWaits c.w then
    let s := s.updCmd c.id fun d => { d with wait := .mgmt }
    if cmOpcode c.w = 0xD then s.holdGrant 2 (BitVec.ofNat 16 (fld c.w 383 368)) (BitVec.ofNat 16 (fld c.w 367 352)) (some c.id) else s
  else
    let s := s.updCmd c.id fun d => { d with wait := .running }
    if s.sec.recovery && cmMgmt c.w && !recoveryOk c.w then s.complete c.id ⟨0xB, 0, 0, 0⟩
    else run { c with wait := .running } s

/-- A command that has started: validated, its argument block read once; it waits while Bus Master Enable is 0 (18:R374). -/
def State.start (run : Run) (id : Nat) (s : State) : State :=
  match s.cmd? id with
  | none => s
  | some c =>
    let r := cmStatic c.w
    if r ≠ 0 then s.onHw fun h => h.invalid id r
    else
      let n := ((cmShape c.w).map (·.arg)).getD 0
      if n ≠ 0 && !s.hw.host.bme then s.updCmd id fun d => { d with wait := .bme }
      else if cmOpcode c.w = 2 && s.hw.host.validating (cmCtx c.w) then s.updCmd id fun d => { d with wait := .validate }
      else
        let arg := if n = 0 then [] else s.hw.host.mem.readN (cmArg c.w) n
        let r := s.hw.cmReason c.w arg
        if r ≠ 0 then s.onHw fun h => h.invalid id r
        else (s.updCmd id fun d => { d with arg := arg }).act run { c with arg := arg }

/-- Commands of a ring that were fetched before command `id` and have not completed. -/
def HostIf.earlier (x : HostIf) (q : Fin 64) (id : Nat) : List Cmd := x.cmds.filter fun c => c.q == q && decide (c.id < id)

/-- A command fetched from ring `q` starts, or waits on a FENCE, its own or one before it (18:R382). -/
def State.admitCmd (run : Run) (q : Fin 64) (w : Word512) (s : State) : State :=
  let id := s.hw.host.nextCmd
  let before := s.hw.host.earlier q id
  let held := (cmFence w && !before.isEmpty) || before.any fun c => c.wait == .fence
  let c : Cmd := ⟨id, q, w, if held then .fence else .running, [], .none⟩
  let s := s.onHw fun h => (h.onHost fun x => { x with cmds := x.cmds ++ [c], nextCmd := id + 1 }).countHub 16 1 .driver 0x67
  if held then s else s.start run id

/-- A command row: the command of ring `q` with the row's OPCODE and FORM. -/
def hostCmd (op form : Nat) (run : Run) (q : Fin 64) (w : Word512) (s : State) : State :=
  s.admitCmd run q (setFld (setFld w 511 504 op) 503 500 form)

/-- A refusal by the owning unit (18 Table 18-9). -/
def refusal (reason code : Nat) : Result := ⟨6, reason, code, 0⟩

end Sys2Proof.Machine
end

