-- ==== Sys2Proof/Machine/CtxBase.lean ====
section
/-! DEFINITION. What launches and resumptions share: save-area headers, available resources, the shortfall report, slots (04, 06, 14, 18). -/

namespace Sys2Proof.Machine

/-! ### Save-area headers (14 Table 14-8) -/

def hdrOff (saveOff : Nat) : Nat := 65536 * saveOff + 0x40000

/-- The header of the save area at `off` (64 KiB units) of die `n`'s stack; none when its burst is uncorrectable. -/
def Hw.header (h : Hw) (n off : Nat) : Option Word512 :=
  if (h.stk n).burstBad (hdrOff off / 64) then none else some (BitVec.ofNat 512 ((h.stk n).mem.readLE (hdrOff off) 64))

def hdState (w : Word512) : Nat := fld w 511 508
def hdSpimg (w : Word512) : Nat := fld w 399 352
def hdRoot (w : Word512) : Root := ⟨fld w 447 444, 8192 * fld w 443 425⟩

/-- Work of the ring engine, for the counters (22:R454). -/
def ringWho : Who := ⟨.driver, 11, srcBytes 99 0xFF 0x67⟩

/-- The stacks of a die list wake for what a launch or a resumption reads there (13:R288). -/
def Hw.wakeEnts (h : Hw) (l : List DieEnt) : Hw := h.wakeStks (l.map fun e => e.die.val) ringWho

/-- The header rewritten. -/
def Hw.setHeader (h : Hw) (n off : Nat) (f : Word512 → Word512) : Hw :=
  match h.header n off with
  | some w => h.updStk n fun k => k.store (hdrOff off) (entryBytes (f w))
  | none => h

/-- The root that a die entry's header names. -/
def Hw.entRoot (h : Hw) (e : DieEnt) : Root := ((h.header e.die.val e.saveOff.toNat).map hdRoot).getD ⟨0, 0⟩

/-! ### What is available (04 Table 4-5) -/

/-- A compute die that a launch or a resumption may name (code 0x0A; 01:R29, 07:R172, 13:R283, Table 13-7,
21:R435, 23:R460, R466). -/
def Hw.dieAvail (h : Hw) (n : Nat) : Bool :=
  let d := h.die n
  d.owner.isNone && !d.stFail && !d.idFail && !d.chFail && !d.unpowered && !d.resetting && !d.off &&
    !h.host.vstore && !h.host.noDies && (h.stk n).mst != .off && !d.cx.cores.toList.any fun c => c.mxuFail

/-- 128 MiB of scratchpad image, pinned to the die's own stack. -/
def Hw.imagePinned (h : Hw) (n : Nat) (root : Root) (va : Nat) : Bool :=
  va % 65536 == 0 && (pagesOfRange va (2 ^ 27)).all fun p => match h.walk n root p.1 1 with
    | .ok l => tePin l.entry && !l.host && l.stk == n
    | .error _ => false

/-- MiB mapped and pinned contiguously from the save base, up to 64 (18:R385). -/
def Hw.saveMib (h : Hw) (e : DieEnt) (root : Root) : Nat → Nat → Nat
  | 0, k => k
  | fuel + 1, k =>
    if h.pinnedAt e.die.val root (e.saveBase.toNat + 2 ^ 20 * k) (2 ^ 20) e.die.val (65536 * e.saveOff.toNat + 2 ^ 20 * k) then
      h.saveMib e root fuel (k + 1)
    else k

/-- Available under code 0x09; `st` is the header STATE that counts (14:R302). -/
def Hw.saveAvail (h : Hw) (e : DieEnt) (st : Nat) : Nat :=
  match h.header e.die.val e.saveOff.toNat with
  | none => 0
  | some w =>
    if hdState w ≠ st || !h.imagePinned e.die.val (hdRoot w) (hdSpimg w) then 0 else h.saveMib e (hdRoot w) 64 0

/-- A shortfall entry (04 Table 4-6). -/
def shortfall (res die req avail seg : Nat) : Nat :=
  put res 120 8 + put die 112 8 + put req 64 32 + put avail 32 32 + put seg 0 12

/-- One resource on every named die, in die order. -/
def dieShort (ents : List DieEnt) (res req : Nat) (avail : DieEnt → Nat) : List Nat :=
  (List.range 16).flatMap fun n => (ents.filter fun e => e.die.val == n).filterMap fun e =>
    if avail e < req then some (shortfall res n req (avail e) 0) else none

/-- Codes 0x09 and 0x0A. -/
def Hw.placeShort (h : Hw) (ents : List DieEnt) (st : Nat) : List Nat :=
  dieShort ents 9 64 (fun e => h.saveAvail e st) ++ dieShort ents 0xA 1 fun e => b2n (h.dieAvail e.die.val)

/-- The report goes to its buffer; entries beyond its capacity are counted only (04:R102). -/
def Hw.report (h : Hw) (w : Word512) (l : List Nat) : Hw × Nat :=
  let addr := fld w 375 312
  let n := min l.length (fld w 311 296)
  (h.onHost fun x => { x with mem := x.mem.writeN addr ((l.take n).flatMap fun e => leBytes 16 e) },
    put l.length 224 32 + put n 192 32)

/-- A launch or resumption that falls short (04:R101, R102, Table 4-9). -/
def Hw.refuseShort (h : Hw) (c : Cmd) (l : List Nat) : Hw :=
  let r := h.report c.w l
  (r.1.raise ⟨0x0402, 99, 0xFF, 0x67, 0, 0, some (cmCtx c.w)⟩).complete c.id ⟨2, 0, 0x0402, r.2⟩

/-! ### Descriptor slots (06:R135) -/

/-- Descriptor-table entry `i` of the save area at stack offset `base`. -/
def Stack.tableEntry (k : Stack) (base i : Nat) : Word512 := BitVec.ofNat 512 (k.mem.readLE (base + 64 * i) 64)

/-- Ascending, without repeats. -/
def insNat (a : Nat) : List Nat → List Nat
  | [] => [a]
  | b :: r => if a < b then a :: b :: r else if a = b then b :: r else b :: insNat a r

/-- Entries that may hold something: those with a non-zero byte, and those that cannot be read. -/
def Stack.tableUsed (k : Stack) (base : Nat) : List Nat :=
  let inTab (a : Nat) : Bool := decide (base ≤ a) && decide (a < base + 0x40000)
  let cells := (k.mem.filter fun e => inTab e.1).map fun e => (e.1 - base) / 64
  let l := cells.foldr (fun a r => match r with | [] => [a] | b :: _ => if a = b then r else a :: r) []
  (((k.bad ++ k.errs.map (·.1)).filter fun b => inTab (64 * b)).map fun b => (64 * b - base) / 64).foldr insNat l

/-- One entry is validated and enters its slot; an entry that fails is loaded as empty. `old` are the streams that a resumed
die brings, which stay bound where their record is the same. -/
def Hw.loadSlot (h : Hw) (n base dies : Nat) (old : List (Nat × StreamSt)) (i : Nat) : Hw :=
  let k := h.stk n
  let x := k.tableEntry base i
  -- no row carries the re-read of an entry: it fails, and the entry with it (log 69, DESIGN CHOICE)
  let bad := k.burstBad ((base + 64 * i) / 64)
  if !bad && dsKind x = 0 then h
  else
    let c := h.cx n
    if bad then (h.raiseUE n ((base + 64 * i) / 64) n 0x01 (h.die n).owner).raiseDie n 0x0505 0xFF 0x01
    else if descReason (k.tableEntry base) c.boundStream (some dies) x ≠ 0 then h.raiseDie n 0x0505 0xFF 0x01
    else h.updCx n fun c =>
      let c : DieCtx := { c with slots := c.slots ++ [(i, x)] }
      if dsKind x = 5 then
        match old.find? fun e => e.1 == stSnum x && e.2.slot.toNat == i && e.2.rcd == x with
        | some e => { c with streams := alPut c.streams e.1 e.2 }
        | none => c.bindStream i x
      else c

/-- Every slot of die `n` is loaded from its table; streams bound anew open. -/
def Hw.loadSlots (h : Hw) (n dies : Nat) : Hw :=
  let base := 65536 * (h.cx n).saveOff.toNat
  let old := (h.cx n).streams
  let h := (h.wakeStk n ringWho).updCx n fun c => { c with slots := [], streams := [] }
  let h := ((h.stk n).tableUsed base).foldl (fun h i => h.loadSlot n base dies old i) h
  let fresh := ((h.cx n).streams.filter fun e => !old.contains e).map (·.1)
  fresh.foldl (fun h k => h.openStream n k) h

/-- The successor named by a segment of die `n`'s image, unless it has none. -/
def Hw.successor (h : Hw) (n seg : Nat) : Option Nat :=
  match h.segOf n seg with
  | some e => if e.next = 0xFFF then none else some e.next
  | none => none

/-- A request to the loader that the launch or a switch makes. -/
def plainLoad (bank seg : Nat) : LoadReq :=
  ⟨BitVec.ofNat 1 bank, BitVec.ofNat 12 seg, false, false, false, 0, false, none, .run, none⟩

end Sys2Proof.Machine
end

