-- ==== Sys2Proof/Machine/Sync.lean ====
section
/-! DEFINITION. Events of a die: barriers, waits, stops, control-word parity, table loads, bank loads (03, 04, 07, 10). -/

namespace Sys2Proof.Machine

/-! ### Waits that end (02:R52, 03:R68, R73) -/

/-- Why Helm holds a word, if it does. -/
def Hw.heldFor (h : Hw) (n : Nat) : Option HeldWhy := (h.cx n).helm.held.map (·.2)

/-- The barrier at which the die stands ends when its participants have arrived (02:R52). -/
def Hw.barrierResolve (h : Hw) (n : Nat) : Hw :=
  match h.heldFor n with
  | some .dieBar => if h.barReady n then h.retryHeld n ⟨true, false⟩ else h
  | some .ctxBar => if h.ctxBarReady n then h.openBarrier n else h
  | _ => h

/-- BARRIER_RESOLVE (02:R52). -/
def execBarrierResolve (d : Fin 16) (s : State) : Out := .next (s.onHw fun h => h.barrierResolve d.val)

/-- The wait at which the die stands is tried again (03:R68). -/
def Hw.semResolve (h : Hw) (n : Nat) : Hw :=
  match h.heldFor n with
  | some .sem => h.retryHeld n ⟨false, false⟩
  | _ => h

/-- SEM_WAIT_RESOLVE (03:R68). -/
def execSemWaitResolve (d : Fin 16) (s : State) : Out := .next (s.onHw fun h => h.semResolve d.val)

/-- The branch at which Helm waits for a flag is tried again (03:R73). -/
def Hw.flagResolve (h : Hw) (n : Nat) : Hw :=
  match h.heldFor n with
  | some .flag => h.retryHeld n ⟨false, false⟩
  | _ => h

/-- FLAG_RESOLUTION (03:R73). -/
def execFlagResolution (d : Fin 16) (s : State) : Out := .next (s.onHw fun h => h.flagResolve d.val)

/-- A core has gone on: Helm tries a word that waited for room in its FIFO. -/
def Hw.unblocked (h : Hw) (n : Nat) : Hw :=
  match h.heldFor n with
  | some .fifo => h.retryHeld n ⟨false, false⟩
  | _ => h

/-! ### Stops (03:R75, R86) -/

/-- The launch's 256th skip has been logged and the program stops with 0x0302 (03:R86). -/
def Hw.skipLimit (h : Hw) (n : Nat) : Hw :=
  let x := h.cx n
  if x.helm.st = .stopped && x.helm.skips = 256 && x.stop = 0 && (h.die n).owner.isSome then h.stopProgram n 0x0302 else h

/-- SKIP_LIMIT_REACHED (03:R86). -/
def execSkipLimitReached (d : Fin 16) (s : State) : Out := .next (s.onHw fun h => h.skipLimit d.val)

/-- PREEMPT_YIELD_TIMEOUT (03:R75): 16,384 words have been issued since the request with no YIELD. -/
def execPreemptYieldTimeout (d : Fin 16) (s : State) : Out :=
  .next (s.onHw fun h => if (h.cx d.val).pre = .atYield 0 then h.preemptYield d.val else h)

/-! ### Control-word parity (03:R60) -/

/-- An entry that keeps a core from the word behind it. -/
def parityHole : FifoEntry := ⟨0, true, 0, 0, false⟩

/-- The first entry of a core's FIFO fails its parity. -/
def Core.headBad (c : Core) : Core :=
  match c.fifo with
  | [] => c
  | e :: r => { c with fifo := { e with bad := true } :: r }

/-- The last entry of a core's FIFO fails its parity. -/
def Core.lastBad (c : Core) : Core := { c with fifo := (c.fifo.reverse.modifyHead fun e => { e with bad := true }).reverse }

/-- Helm issues a word whose copy in core `c`'s FIFO fails its parity: the core finds it when it comes to execute the word, and every other core executes
it (03:R60). -/
def Hw.issueParity (h : Hw) (n c : Nat) (w : Word512) : Hw :=
  let t := (h.cx n).helm.step
  if ((h.issueWord n w).cx n).helm.step = t || !bit (h.die n).healthy c then
    -- nothing is issued: it is the word that the core is about to execute, as it may be while a pre-emption drains (03 Table 3-13)
    (if (((h.cx n).core c).fifo.head?).any fun e => e.w == w then Hw.runCore n c 1 (h.updCore n c Core.headBad) else h.issueWord n w)
  else if !((h.cx n).core c).fifo.isEmpty then (h.issueWord n w).updCore n c Core.lastBad
  else
    let open_ := cwBar w = 2 && (checkWord (h.legalEnv n) w).isNone
    let h := h.updCore n c fun k => { k with fifo := [parityHole] }
    let h := if cwBar w = 0 then h else h.updHelm n fun y => { y with resolved := some y.step }
    let h := (h.tryWord n w ⟨true, false⟩).updCore n c fun k => ({ k with fifo := k.fifo.tail } : Core).headBad
    let h := Hw.runCore n c 1 h
    if open_ then h.openBarrier n else h

/-- A value of die `n` loses its parity (13:R289); the table has no row of its own for that (log 83, DESIGN CHOICE). -/
def Hw.strike (n : Nat) (h : Hw) (x : Struck) : Hw :=
  let add (k : Nat) (l : List Nat) : List Nat := if l.contains k then l else k :: l
  match x with
  | .core c m => h.updCore n c.val fun k => if k.isBad m then k else { k with bad := m :: k.bad }
  | .gmeElem cl k => h.updGme n cl.val fun g => { g with badElems := add k g.badElems }
  | .gmeSeg cl b p e => h.updGme n cl.val fun g => { g with
      queues := vupd g.queues b.val fun q => q.modify p fun s => { s with bad := add e s.bad } }
  | .gmeHash cl p e => h.updGme n cl.val fun g => { g with badHash := add (16 * p + e) g.badHash }
  | .coef cl t f => h.updPuu n cl.val fun p => { p with badTables := add (10 * t + f) p.badTables }
  | .puuBuf cl k e => h.updPuu n cl.val fun p => { p with badBuf := add (4096 * k + e) p.badBuf }

/-- CONTROL_WORD_PARITY_ERROR (03:R60), with what else has lost its parity by then. -/
def execControlWordParityError (d : Fin 16) (c : Fin 32) (w : ParityFind) (s : State) : Out :=
  .next (s.onHw fun h => (w.struck.foldl (Hw.strike d.val) h).issueParity d.val c.val w.word)

/-- The awaited word arrives: the core goes on, or stops before it at a split boundary (03:R60, R76). -/
def Hw.redelivered (h : Hw) (n c : Nat) (ok : Bool) : Hw :=
  let k := (h.cx n).core c
  if !k.await || (h.die n).owner.isNone then h
  else
    let h := h.updCore n c fun k => { k with
      await := false
      fifo := match k.fifo with
        | [] => []
        | e :: r => { e with bad := false } :: r }
    if ok then ((Hw.runCore n c k.fifo.length h).release n).unblocked n
    else
      let seq := h.host.seq
      ((h.raiseDie n 0x0304 c 0x02).updCore n c fun k => { k with split := some k.step }).splitStop n 0x0304 seq

/-- WORD_REDELIVERED (03:R60). -/
def execWordRedelivered (d : Fin 16) (c : Fin 32) (ok : Bool) (s : State) : Out :=
  .next (s.onHw fun h => h.redelivered d.val c.val ok)

/-! ### The MXU self-test (07:R172) -/

/-- A core whose context raised 0x0601 has been tested after the context ended; it is retired if it fails (01:R25). -/
def Hw.mxuTested (h : Hw) (n c : Nat) (pass : Bool) : Hw :=
  if !((h.cx n).core c).mxuFail || (h.die n).owner.isSome then h
  else
    let h := h.updCore n c fun k => { k with mxuFail := false }
    if pass then h
    else (h.updDie n fun d => { d with healthy := setFld d.healthy c c 0 }).raise ⟨0x0602, n, c, 0x03, 0, 0, none⟩

/-- MXU_SELF_TEST_DONE (07:R172). -/
def execMxuSelfTestDone (d : Fin 16) (c : Fin 32) (pass : Bool) (s : State) : Out :=
  .next (s.onHw fun h => h.mxuTested d.val c.val pass)

/-! ### Vernier table loads (10:R223, R227) -/

/-- A load whose last byte has arrived at this bank of this core, with no later load of it begun (10:R223). -/
def Hw.tableArrived (h : Hw) (n c b : Nat) : Bool :=
  let l := h.tableXfers n c b
  l.any (fun x => decide (x.total ≤ x.next)) && !l.any fun x => decide (0 < x.next) && decide (x.next < x.total)

/-- The shadow is validated; a PCRC mismatch is read once more first (10:R223). -/
def Hw.tableValidate (h : Hw) (n c b : Nat) (reread : List Byte) : Hw :=
  let k := ((h.cx n).core c).bank b
  if k.sst != .loading || !h.tableArrived n c b then h
  else
    let again := !pkgCrcOk k.shadow
    let img := if again then bytesAt reread 0 k.shadow.length else k.shadow
    let h := if again then h.raiseDie n 0x0802 c 0x07 else h
    let r := vValidate img
    let h := h.updCore n c fun x => x.setBank b (vFinish { k with shadow := img } r)
    if r = 0 then h else h.raiseDie n 0x0801 c 0x07 r

/-- A Held load proceeds once the lookups of the old generation have read their tables (10:R227). -/
def Core.releaseTable (c : Core) (b : Nat) : Core :=
  let k := c.bank b
  if k.sst = .held && !c.oldLookups k then
    (c.setBank b { k with sst := .loading, shadow := k.arrived, arrived := [] }).overwrite b fun _ => true
  else c

/-- TABLE_LOAD_HELD_RELEASE (10:R227). -/
def execTableLoadHeldRelease (d : Fin 16) (c : Fin 32) (bank : Fin 2) (s : State) : Out :=
  .next (s.onHw fun h => h.updCore d.val c.val fun k => k.releaseTable bank.val)

/-! ### The bank loader (04:R94-R98) -/

/-- Why a load ends or stops at a page. -/
inductive LoadStop where
  | stop (s : Stop)
  | notLocal
  deriving DecidableEq, Repr

/-- Bytes of the image copy, which must lie in the die's local stack (04:R97); `done` counts what was read. -/
def Hw.loadPages (n : Nat) (w : Who) : List (Nat × Nat) → List Byte → Hw → Except (LoadStop × Nat) (List Byte × Hw)
  | [], acc, h => .ok (acc, h)
  | p :: r, acc, h =>
    match h.walk n (h.cx n).root p.1 1 with
    | .error s => .error (.stop s, acc.length)
    | .ok l =>
      if l.host || l.stk ≠ n then .error (.notLocal, acc.length)
      else match h.vaRead n p.1 p.2 w with
        | .error s => .error (.stop s, acc.length)
        | .ok x => Hw.loadPages n w r (acc ++ x.1) x.2

/-- The words of a segment that differ from zero, with their places. -/
def codeOf : Nat → Nat → List Byte → List (Nat × Word512)
  | 0, _, _ => []
  | k + 1, i, l =>
    let w : Word512 := BitVec.ofNat 512 (leNat (l.take 64))
    let r := codeOf k (i + 1) (l.drop 64)
    if w = 0 then r else (i, w) :: r

/-- The command that made a driver load completes when no die has a load of it left (04:R96): with status 0x00 also where a load ended in 0x0404 or
0x0406, which are reported (log 96, DESIGN CHOICE). -/
def Hw.segLoadDone (h : Hw) (cmd : Option Nat) : Hw :=
  match cmd with
  | none => h
  | some id =>
    let left := (List.range 16).any (fun n => (h.cx n).loads.any fun l => l.cmd == some id) ||
      h.chip.ctxs.any fun c => (c.loads.any fun l => l.2.cmd == some id) ||
        c.save.any fun s => s.2.loads.any fun l => l.cmd == some id
    if left then h else h.complete id ⟨0, 0, 0, 0⟩

/-- Helm waits for bank `b`: it goes on, or stops when nothing is left to wait for (04:R98). -/
def Hw.bankWaiter (h : Hw) (n b : Nat) : Hw :=
  let x := h.cx n
  match x.helm.held with
  | some (_, .bank) => if 1 - x.helm.bank.toNat = b then h.retryHeld n ⟨false, false⟩ else h
  | some _ => h
  | none =>
    if x.helm.st = .waitBank && x.helm.bank.toNat = b then
      (if (x.bank b).valid then h.updHelm n fun y => { y with st := .issuing }
       else if x.loadOf b then h else h.stopProgram n 0x0405)
    else h

/-- The load in progress ends, and the next begins. -/
def Hw.loadEnds (h : Hw) (n : Nat) (l : LoadReq) (f : IBank → IBank) : Hw :=
  let b := l.bank.toNat
  let h := h.updCx n fun x =>
    let y : DieCtx := { x with loads := x.loads.filter fun q => !q.started }
    (y.updBank b fun k => { f k with loading := false, drv := false }).startLoad
  (h.bankWaiter n b).segLoadDone l.cmd

/-- The segment read in full: its CRC decides (04:R94, R97). -/
def Hw.loadRead (h : Hw) (n : Nat) (l : LoadReq) (e : SegEntry) (data : List Byte) : Hw :=
  if crc32c data = e.crc then
    h.loadEnds n l fun k => { k with
      valid := true, seg := l.seg, words := BitVec.ofNat 17 e.words, loaded := BitVec.ofNat 17 e.words
      code := codeOf e.words 0 data }
  else if l.retried then
    (h.raiseDie n 0x0404 0xFF 0x09).loadEnds n l fun k => { k with seg := 0xFFF, loaded := BitVec.ofNat 17 e.words }
  else
    (h.raiseDie n 0x0403 0xFF 0x09).updCx n fun x =>
      let y : DieCtx := { x with loads := x.loads.map fun q => if q.started then { q with retried := true, next := 0 } else q }
      y.updBank l.bank.toNat fun k => { k with loaded := 0 }

/-- A load stops: at a page that is not local it ends with 0x0406, else the loader is at a fault or a bad burst. -/
def Hw.loadStops (h : Hw) (n : Nat) (l : LoadReq) (s : LoadStop) (words : Nat) : Hw :=
  match s with
  | .notLocal => (h.raiseDie n 0x0406 0xFF 0x09).loadEnds n l fun k => { k with seg := 0xFFF, loaded := BitVec.ofNat 17 words }
  | .stop .wait => h
  | .stop st =>
    let upd (g : LoadReq → LoadReq) (x : DieCtx) : DieCtx := { x with loads := x.loads.map fun q => if q.started then g q else q }
    let h := h.updCx n fun x => (upd (fun q => { q with next := words }) x).updBank l.bank.toNat fun k => { k with loaded := BitVec.ofNat 17 words }
    let r := h.stopAgent n .loader (agentInfo (h.die n) .loader) l.stall st
    r.2.updCx n (upd fun q => { q with stall := r.1 })

/-- The segment-table entry of a segment, as the loader reads it. -/
def Hw.loadEntry (h : Hw) (n : Nat) (w : Who) (seg : Nat) : Except (LoadStop × Nat) (SegEntry × Hw) := do
  let img := (h.cx n).imgBase.toNat
  let t ← Hw.loadPages n w (pagesOfRange (img + 112) 4) [] h
  let x ← Hw.loadPages n w (pagesOfRange (img + leNat t.1 + 16 * seg) 16) [] t.2
  pure (segEntry (leNat x.1), x.2)

/-- A successor request whose segment is known at last: it is served, or was none (04:R95). -/
def Hw.successorKnown (h : Hw) (n : Nat) (l : LoadReq) (next : Nat) : Hw :=
  let b := l.bank.toNat
  let k := (h.cx n).bank b
  h.updCx n fun x =>
    let rest := x.loads.filter fun q => !q.started
    if next = 0xFFF || (k.valid && k.seg.toNat == next) then ({ x with loads := rest } : DieCtx).startLoad
    else ({ x with loads := { l with seg := BitVec.ofNat 12 next, after := none, started := false, stall := .run } :: rest } : DieCtx).startLoad

/-- The load at the head of the loader runs to its last word (04:R94). -/
def Hw.loadRun (h : Hw) (n : Nat) : Hw :=
  match (h.cx n).loads.find? fun l => l.started with
  | none => h
  | some l =>
    if !h.mayRun n 74 l.stall then h
    else
      let w : Who := ⟨.program, 1, srcBytes n 0xFF 0x09⟩
      match h.loadEntry n w l.seg.toNat with
      | .error s => h.loadStops n l s.1 0
      | .ok (e, h') =>
          match Hw.loadPages n w (pagesOfRange ((h.cx n).imgBase.toNat + e.offset) (64 * e.words)) [] h' with
          | .error s => h.loadStops n l s.1 (s.2 / 64)
          | .ok y => (y.2.faultPast n .loader (agentInfo (h.die n) .loader) l.stall).loadRead n l e y.1

/-- The loader finds which segment a successor request asks for, where that is open, then loads. -/
def Hw.bankLoad (h : Hw) (n : Nat) : Hw :=
  let h := h.updCx n DieCtx.startLoad
  match (h.cx n).loads.find? fun l => l.started with
  | none => h
  | some l =>
    match l.after with
    | none => h.loadRun n
    | some s =>
      if !h.mayRun n 74 l.stall then h
      else match h.loadEntry n ⟨.program, 1, srcBytes n 0xFF 0x09⟩ s.toNat with
        | .error e => h.loadStops n l e.1 0
        | .ok (e, h') => ((h'.faultPast n .loader (agentInfo (h.die n) .loader) l.stall).successorKnown n l e.next).bankWaiter n l.bank.toNat

/-- BANK_LOAD_COMPLETE (04:R94). -/
def execBankLoadComplete (d : Fin 16) (s : State) : Out :=
  .next (s.onHw fun h => if h.agentsRun d.val then h.bankLoad d.val else h)

end Sys2Proof.Machine
end

