-- ==== Sys2Proof/Machine/Launch.lean ====
section
/-! DEFINITION. LAUNCH and the segment load (04:R91-R93, R96, R100-R103, 18:R385). -/

namespace Sys2Proof.Machine

/-! ### The image (04 Tables 4-1 and 4-2, R101) -/

/-- Header fields, of the header's 1,024 bits. -/
def ihSegcnt (x : Nat) : Nat := natFld x 948 12
def ihSegtab (x : Nat) : Nat := natFld x 896 32
def ihImglen (x : Nat) : Nat := natFld x 864 32
def ihCoresmin (x : Nat) : Nat := natFld x 858 6
def ihSpadkib (x : Nat) : Nat := natFld x 845 13
def ihAccrows (x : Nat) : Nat := natFld x 834 11
def ihDslots (x : Nat) : Nat := natFld x 821 13
def ihRedch (x : Nat) : Nat := natFld x 814 7
def ihVtabkib (x : Nat) : Nat := natFld x 807 7
def ihCoef (x : Nat) : Nat := natFld x 797 10
def ihEntry (x d : Nat) : Nat := natFld x (64 + 12 * d) 12

/-- The header obeys Table 4-1 for a launch on `n` dies. -/
def headOk (b : List Byte) (n : Nat) : Bool :=
  let x := leNat b
  natFld x 992 32 == 0x47444931 && natFld x 976 16 == 1 && natFld x 968 8 == 1 && natFld x 963 5 == n && natFld x 960 3 == 0 &&
    decide (1 ≤ ihSegcnt x) && natFld x 928 20 == 0 && ihSegtab x % 64 == 0 && ihImglen x % 64 == 0 &&
    decide (1 ≤ ihCoresmin x) && decide (ihCoresmin x ≤ 32) && natFld x 256 541 == 0 && natFld x 32 32 == 0 &&
    ((List.range 16).all fun d => if d < n then decide (ihEntry x d < ihSegcnt x) else ihEntry x d == 0) &&
    natFld x 0 32 == crc32c (b.drop 4) && decide (ihSegtab x + 16 * ihSegcnt x ≤ ihImglen x)

/-- A segment-table entry obeys Table 4-2. -/
def segEntOk (segcnt imglen e : Nat) : Bool :=
  let s := segEntry e
  s.offset % 64 == 0 && decide (1 ≤ s.words) && decide (s.offset + 64 * s.words ≤ imglen) &&
    (decide (s.next < segcnt) || s.next == 0xFFF) && natFld e 32 35 == 0

/-- Bytes of a die's image copy. -/
def Hw.imgBytes (h : Hw) (e : DieEnt) (off len : Nat) : Except Stop (List Byte × Hw) :=
  h.vaReadR e.die.val (h.entRoot e) (e.imgBase.toNat + off) len ringWho

/-- Header and segment table of a copy; none when a page or burst stops the reads. -/
def Hw.imgFront (h : Hw) (e : DieEnt) : Option (List Byte × List Byte) :=
  match h.imgBytes e 0 128 with
  | .error _ => none
  | .ok b => match h.imgBytes e (ihSegtab (leNat b.1)) (16 * ihSegcnt (leNat b.1)) with
    | .error _ => none
    | .ok t => some (b.1, t.1)

/-- What reading a copy leaves: stacks awake, counts, and a burst that cannot be read reported; no row carries its re-read, which fails
(13:R284, log 69, DESIGN CHOICE). -/
def Hw.imgRead (h : Hw) (e : DieEnt) : Hw :=
  let lost (h : Hw) (x : Stop) : Hw := match x with
    | .burst s b => h.raiseUE s b 99 0x67 none
    | _ => h
  match h.imgBytes e 0 128 with
  | .error x => lost h x
  | .ok b => match b.2.imgBytes e (ihSegtab (leNat b.1)) (16 * ihSegcnt (leNat b.1)) with
    | .error x => lost b.2 x
    | .ok t => t.2

/-- What a launch reads before it judges its image: every copy, once its stack is awake. -/
def Hw.imgReads (h : Hw) (ents : List DieEnt) : Hw := ents.foldl (fun h e => h.imgRead e) (h.wakeEnts ents)

/-- Segment-table entries. -/
def segsOf (t : List Byte) (n : Nat) : List Nat := (List.range n).map fun i => leAt t (16 * i) 16

/-- The image that a launch names, when it breaks no rule (04:R101): the header and the table, alike in every copy. -/
def Hw.image (h : Hw) (ents : List DieEnt) : Option (Nat × List Nat) :=
  match ents with
  | [] => none
  | e :: r =>
    match h.imgFront e with
    | none => none
    | some f =>
      let x := leNat f.1
      let segs := segsOf f.2 (ihSegcnt x)
      if (ents.all fun e => e.imgBase.toNat % 65536 == 0) && headOk f.1 ents.length && (segs.all (segEntOk (ihSegcnt x) (ihImglen x))) &&
          r.all fun e => h.imgFront e == some f then some (x, segs) else none

/-! ### Resources (04:R102) -/

/-- Module channels that no context has reserved, ascending. -/
def Hw.freeChans (h : Hw) : List Nat := (List.range 64).filter fun k => !h.chip.ctxs.any fun c => c.chans.contains k

/-- Every shortfall of a launch, in the order of Table 4-5. -/
def Hw.shortfalls (h : Hw) (ents : List DieEnt) (x : Nat) (segs : List Nat) : List Nat :=
  dieShort ents 1 (ihCoresmin x) (fun e => popCount (h.die e.die.val).healthy.toNat 32) ++
    dieShort ents 2 (ihSpadkib x) (fun _ => 4096) ++ dieShort ents 3 (ihAccrows x) (fun _ => 1024) ++
    ((List.range segs.length).zip segs).filterMap (fun s =>
      if 65536 < (segEntry s.2).words then some (shortfall 4 0xFF (segEntry s.2).words 65536 s.1) else none) ++
    dieShort ents 5 (ihDslots x) (fun _ => 4096) ++
    (if h.freeChans.length < ihRedch x then [shortfall 6 0xFF (ihRedch x) h.freeChans.length 0] else []) ++
    dieShort ents 7 (ihVtabkib x) (fun _ => 32) ++ dieShort ents 8 (ihCoef x) (fun _ => 256) ++ h.placeShort ents 0

/-! ### Acceptance (04:R103) -/

/-- A die in its launch state for logical die `d` of a context. -/
def Die.launched (d : Die) (num : BitVec 16) (ld : Nat) (e : DieEnt) (hdr : Word512) (coef : Nat) : Die :=
  { d with
    owner := some num
    phase := .running
    cx := { DieCtx.init with
      helm := { Helm.init with st := .waitBank }
      ldie := BitVec.ofNat 4 ld
      rootStk := BitVec.ofNat 4 (fld hdr 447 444)
      rootOff := BitVec.ofNat 19 (fld hdr 443 425)
      spImg := BitVec.ofNat 48 (hdSpimg hdr)
      saveBase := e.saveBase, saveOff := e.saveOff, imgBase := e.imgBase, coef := coef } }

/-- The launch of one die: its state, header, slots, and the loads of its first two segments. -/
def Hw.launchDie (h : Hw) (num : BitVec 16) (x dies : Nat) (p : Nat × DieEnt) : Hw :=
  let n := p.2.die.val
  let off := p.2.saveOff.toNat
  let hdr := (h.header n off).getD 0
  let h := h.updDie n fun d => d.launched num p.1 p.2 hdr (ihCoef x)
  let h := h.setHeader n off fun w => setFld (setFld w 511 508 1) 503 500 p.1
  let h := h.loadSlots n dies
  let s := ihEntry x p.1
  let h := h.requestLoad n (plainLoad 0 s)
  match h.successor n s with
  | some t => h.requestLoad n (plainLoad 1 t)
  | none => h

/-- The context comes into being. -/
def Hw.newCtx (h : Hw) (c : Cmd) (ents : List DieEnt) (x : Nat) : Ctx where
  num := cmCtx c.w
  role := BitVec.ofNat 3 (fld c.w 383 381)
  ents := ents
  st := .running
  cmd := some c.id
  pre := []
  segcnt := ihSegcnt x
  preLater := none
  chans := h.freeChans.take (ihRedch x)
  tol := none
  save := []
  raised := []
  ending := 0
  stopCode := 0
  stopSeq := 0
  resets := []
  holding := false
  arrivals := []
  loads := []
  restored := false

def Hw.accept (h : Hw) (c : Cmd) (ents : List DieEnt) (x : Nat) : Hw :=
  let k := h.newCtx c ents x
  let h := h.onChip fun y => { y with ctxs := y.ctxs ++ [k] }
  ((List.range ents.length).zip ents).foldl (fun h p => h.launchDie k.num x ents.length p) h

/-- A launch: its image, then its resources. -/
def Hw.launch (h : Hw) (c : Cmd) : Hw :=
  let ents := cmDies c.w c.arg
  let h := h.imgReads ents
  match h.image ents with
  | none => (h.raise ⟨0x0401, 99, 0xFF, 0x67, 0, 0, some (cmCtx c.w)⟩).complete c.id ⟨1, 0, 0x0401, 0⟩
  | some (x, segs) =>
    let l := h.shortfalls ents x segs
    if l.isEmpty then h.accept c ents x else h.refuseShort c l

/-- Dies that a context takes are awake; those of a new launch have reported no full window of pacing yet (19:R400, R412). -/
def State.wakeDies (s : State) (num : BitVec 16) (fresh : Bool) : State :=
  (List.range 16).foldl (fun s n =>
    if (s.hw.die n).owner = some num then
      { s with power := { s.power with
        per := vupd s.power.per n fun (p : PwrDie) => { p with
          mxg := false, vxg := false, pacedTold := p.pacedTold && !fresh, pacedWin := p.pacedWin && !fresh }
        retained := setFld s.power.retained n n 0
        idleOff := setFld s.power.idleOff n n 0 } }
    else s) s

def runLaunch : Run := fun c s =>
  let t := s.onHw fun h => h.launch c
  if (t.hw.ctx? (cmCtx c.w)).isSome then t.wakeDies (cmCtx c.w) true else t

/-- LAUNCH (04:R103). -/
def execLaunch (q : Fin 64) (w : Word512) (s : State) : Out := .next (hostCmd 1 0 runLaunch q w s)

/-! ### The segment load (04:R96, 18:R385) -/

/-- The load reaches a die: held for the bank Helm fetches from, else in place of a successor request not yet started. -/
def Hw.driverLoad (h : Hw) (n bank seg id : Nat) : Hw :=
  let x := h.cx n
  let held := x.helm.bank.toNat == bank
  let l : LoadReq := { plainLoad bank seg with drv := true, held := held, cmd := some id }
  let h := if held then h
    else h.updCx n fun x => { x with loads := x.loads.filter fun q => q.started || q.drv || q.bank.toNat != bank }
  h.requestLoad n l

/-- Logical dies that a segment load names. -/
def segDies (w : Word512) (c : Ctx) : List DieEnt :=
  ((List.range c.ents.length).zip c.ents).filterMap fun p => if bit w (368 + p.1) then some p.2 else none

/-- A segment load of a running context, or recorded for a saved one. -/
def Hw.segmentLoad (h : Hw) (c : Cmd) : Hw :=
  match h.ctx? (cmCtx c.w) with
  | none => h
  | some k =>
    let seg := fld c.w 367 356
    let bank := fld c.w 355 355
    (segDies c.w k).foldl (fun h e =>
      let n := e.die.val
      if h.resident n k.num then h.driverLoad n bank seg c.id
      else h.updCtx k.num fun y => { y with
        loads := y.loads ++ [(n, { plainLoad bank seg with drv := true, cmd := some c.id })] }) h

def runSegmentLoad : Run := fun c s => s.onHw fun h => h.segmentLoad c

/-- SEGMENT_LOAD (04:R96). -/
def execSegmentLoad (q : Fin 64) (w : Word512) (s : State) : Out := .next (hostCmd 1 1 runSegmentLoad q w s)

end Sys2Proof.Machine
end

