-- ==== Sys2Proof/Machine/Preempt.lean ====
section
/-! DEFINITION. Completion, pre-emption, saves and resumption of contexts (04:R105-R107, 14:R302-R308, 03:R75, R76). -/

namespace Sys2Proof.Machine

/-! ### The end of a context (04:R105, R106, 16:R335, 20:R428) -/

/-- A die has nothing of the context left on it; a core that must be self-tested is remembered (07:R172). -/
def Die.vacate (d : Die) : Die :=
  { d with
    owner := none
    phase := .idle
    cx := { DieCtx.init with
      cores := Vector.ofFn fun i => { Core.init with mxuFail := (vget d.cx.cores i.val Core.init).mxuFail } } }

/-- Commands of segment loads that a context still has pending. -/
def Hw.segCmds (h : Hw) (c : Ctx) : List Nat :=
  let res := (c.ents.filter fun e => h.resident e.die.val c.num).flatMap fun e => (h.cx e.die.val).loads
  let l := res ++ c.save.flatMap (fun s => s.2.loads) ++ c.loads.map (·.2)
  (l.filterMap fun q => q.cmd).foldl (fun a i => if a.contains i then a else a ++ [i]) []

/-- The context ceases to exist: what still depends on it ends, its dies and channels are free, and the commands that wait
for it complete. `r` ends the command that last started it, `p` the pre-emptions. -/
def Hw.endCtx (h : Hw) (num : BitVec 16) (r p : Result) : Hw :=
  match h.ctx? num with
  | none => h
  | some c =>
    let segs := h.segCmds c
    let h := if r.status = 0 then h else h.redAbortCtx num 0x0F06
    let h := h.takeAbort num (c.stopCode.toNat) 0xB false
    let h := h.onChip fun y => { y with
      ctxs := y.ctxs.filter fun x => x.num != num
      dies := y.dies.map fun d => if d.owner = some num then d.vacate else d }
    let h := h.onLinks fun x => { x with chb := x.chb.map fun b => if b.ctx = num then { b with bound := false, opened := false, owed := [] } else b }
    let h := h.completeAll segs ⟨0xC, 0, 0, 0⟩
    let h := match c.cmd with
      | some id => h.complete id r
      | none => h
    h.completeAll c.pre p

/-- Every die has completed END: cores have executed it and its transfers are visible (03:R67). -/
def Hw.dieDone (h : Hw) (n : Nat) : Bool :=
  let x := h.cx n
  (h.die n).phase == .running && x.helm.st == .idle && x.stop = 0 && h.coresAt n && x.outstanding.isEmpty && x.sigs.isEmpty

/-- The context completes with status 0x0 (04:R105); reductions issued on its channels have ended (17:R354). -/
def Hw.ctxComplete (h : Hw) (num : BitVec 16) : Hw :=
  match h.ctx? num with
  | none => h
  | some c =>
    if c.st != .saved && (c.ents.all fun e => h.resident e.die.val num && h.dieDone e.die.val) && !h.redBusy num then
      let h := c.ents.foldl (fun h e => h.setHeader e.die.val e.saveOff.toNat fun w => setFld w 511 508 4) h
      h.endCtx num ⟨0, 0, 0, 0⟩ ⟨0xB, 0, 0, 0⟩
    else h

/-- CONTEXT_COMPLETE (04:R105). -/
def execContextComplete (ctx : BitVec 16) (s : State) : Out := .next (s.onHw fun h => h.ctxComplete ctx)

/-! ### PREEMPT (14:R303, 18:R385) -/

/-- A pre-empt command: refused unless the context runs; one for a context that stops already ends with the first. -/
def Hw.preemptCmd (h : Hw) (c : Cmd) (atYield_ : Bool) : Hw :=
  let num := cmCtx c.w
  match h.ctx? num with
  | none => h
  | some k =>
    if k.st = .saved then h.complete c.id ⟨0xB, 0, 0, 0⟩
    else
      let first := k.st = .running && k.preLater.isNone
      let h := h.updCtx num fun k => { k with pre := k.pre ++ [c.id] }
      if !first then h
      else if (h.take? num).any fun t => t.st == .copy then h.updCtx num fun k => { k with preLater := some atYield_ }
      else h.beginPreempt num atYield_

def runPreemptImmediate : Run := fun c s => s.onHw fun h => h.preemptCmd c false
def runPreemptAtYield : Run := fun c s => s.onHw fun h => h.preemptCmd c true

/-- PREEMPT_IMMEDIATE (14:R303). -/
def execPreemptImmediate (q : Fin 64) (w : Word512) (s : State) : Out := .next (hostCmd 2 0 runPreemptImmediate q w s)

/-- PREEMPT_AT_YIELD (03:R75). -/
def execPreemptAtYield (q : Fin 64) (w : Word512) (s : State) : Out := .next (hostCmd 2 1 runPreemptAtYield q w s)

/-! ### The drain and the save (14:R304, R305, R307) -/

/-- A re-read that must finish before the save (05:R131, 13 Table 13-9). -/
def Stall.rereads (s : Stall) : Bool := match s with | .burst _ _ => true | .tile .. => true | _ => false

/-- The drain of a die has ended: its cores stand at the boundary, and no re-read is under way. -/
def Hw.drained (h : Hw) (n : Nat) : Bool :=
  let x := h.cx n
  ((h.healthyCores n).all fun i => (x.core i).fifo.isEmpty || (x.core i).split.isSome) &&
    !x.agents.any fun a => (x.stallOf a).rereads

/-- A bank that held another segment when Helm issued the word it goes back to: on resumption that segment is reloaded, and the successor that a
BANK_SWITCH after that word asked for is asked for again when Helm executes the switch anew (03:R76, 04:R107, log 74, DEDUCED). -/
def DieCtx.bankBack (x : DieCtx) (b : Nat) (seg : Option (BitVec 12)) : DieCtx :=
  match seg with
  | none => x
  | some s =>
    if (x.bank b).valid && (x.bank b).seg == s then x
    else ({ x with loads := x.loads.filter fun l => l.drv || l.bank.toNat != b } : DieCtx).updBank b fun k => { k with
      valid := true, loading := false, drv := false, seg := s }

/-- Helm goes back to a split boundary: the least step that any core has reached (03:R76). -/
def Hw.splitBack (h : Hw) (n : Nat) : Hw :=
  let x := h.cx n
  if !(h.healthyCores n).any fun i => (x.core i).split.isSome then h
  else
    let top := x.helm.step
    let behind (i : Nat) : Nat := (top - (x.core i).step).toNat
    let most := (h.healthyCores n).foldl (fun a i => max a (behind i)) 0
    let t := top - BitVec.ofNat 48 most
    match x.helm.replay.find? fun p => p.step == t with
    | none => h
    | some p => h.updCx n fun x =>
      let x := (List.range 2).foldl (fun x b => x.bankBack b (p.segs.getD b none)) x
      { x with
        helm := { x.helm with
          bank := p.bank, index := p.index, lc := p.lc, lcStart := p.lcStart, stack := p.stack, skips := p.skips, step := t
          epoch := p.epoch, statFmt := p.statFmt, replay := x.helm.replay.drop most, redo := some top, resolved := none, held := none
          st := if x.helm.st = .idle then .preempting else x.helm.st }
        loads := x.loads.map fun l => if l.drv && l.bank == p.bank then { l with held := true, started := false, next := 0, stall := .run } else l
        cores := x.cores.map fun c => { c with fifo := [], await := false, split := some c.step } }

/-- Agents of a die that have something to do. -/
def DieCtx.busyAgents (x : DieCtx) : List Agent :=
  (x.xfers.filter fun t => !t.dropped).map (fun t => Agent.xfer t.id) ++ x.smalls.map (fun t => Agent.small t.id) ++
    (if x.loads.any fun l => l.started then [Agent.loader] else []) ++
    ((List.finRange 4).filter fun k => let g := vget x.gmes k.val Gme.init; !(g.bjobs ++ g.hjobs).isEmpty).map Agent.gme ++
    ((List.finRange 4).filter fun k => !(vget x.puus k.val Puu.init).queue.isEmpty).map Agent.puu

/-- An agent's record says already how it stands: at a fault, or at a failure. -/
def Stall.recorded (s : Stall) : Bool := s.atFault || s == .failed

/-- The record that the multicast tree writes for the delivery in progress (14 Table 14-4). -/
def Die.treeInfo (d : Die) : Option AgentInfo :=
  (d.cx.xfers.find? fun t => t.tree && !t.dropped && !t.chained && decide (t.next < t.total)).map fun t =>
    { xferInfo d.cx d.healthy t with eng := 0x29, idx := 73, agent := 4 }

/-- The record that an open GME stream with a job in hand writes: its round slots are the granules, and the least number of rounds that a core has
received stands for NEXT (14 Table 14-4, 15:R327, log 81, DESIGN CHOICE). -/
def Hw.gmeStreamInfo (h : Hw) (n : Nat) (e : Nat × StreamSt) : Option AgentInfo :=
  let s := e.2
  let cl := stCluster s.rcd
  let g := h.gme n cl
  if stMode s.rcd = 3 && s.isOpen && (g.bjobs ++ g.hjobs).any fun j => j.stream.val == e.1 then
    let next := match h.served n s with
      | [] => 0
      | c :: r => minOf (alGet 0 s.landed c) (r.map (alGet 0 s.landed))
    some ⟨0x10 + cl, 8 + e.1, 2, (h.cx n).slotAddr s.slot.toNat, next, agentPos e.1 0 (s.started - 1) (next % 65536)⟩
  else none

/-- The records that the agents of a die write when they stop for a pre-emption: one each, of the item in progress or the next one; an agent whose
record says already that it stands at a fault or failure writes none (14:R304, R307). -/
def Hw.stopInfos (h : Hw) (n : Nat) : List AgentInfo :=
  let d := h.die n
  let l := d.cx.busyAgents.map fun a => (agentInfo d a, d.cx.stallOf a)
  (firstKeys (l.map fun e => e.1.idx)).filterMap (fun k =>
    let es := l.filter fun e => e.1.idx == k
    if es.any fun e => e.2.recorded then none
    else ((es.find? fun e => decide (0 < e.1.next)).orElse fun _ => es.head?).map (·.1)) ++
  d.treeInfo.toList ++ d.cx.streams.filterMap (h.gmeStreamInfo n)

/-- Every agent not at a fault or a failure writes its progress record with STATE 0x3. -/
def Hw.stopAgents (h : Hw) (n : Nat) : Hw := (h.stopInfos n).foldl (fun h i => h.writeProgress n i 3 0xFF 0) h

/-- Faults are folded: their records go to the save area and their slots are freed. -/
def Hw.foldFaults (h : Hw) (n : Nat) : Hw × Nat :=
  let x := h.cx n
  let recs := x.fslots.map fun k => setFld (alGet 0 x.frecs k.val) 448 448 1
  let h := ((List.range recs.length).zip recs).foldl (fun h r => h.saveWrite n (0x44000 + 64 * r.1) (entryBytes r.2)) h
  let h := h.updCx n fun x => { x with fslots := [], frecs := [] }
  if recs.isEmpty then (h, 0)
  else
    match (h.die n).owner.bind h.ctx? with
    | some c =>
      if c.raised.contains 0x0C04 then (h, recs.length)
      else ((h.updCtx c.num fun c => { c with raised := 0x0C04 :: c.raised }).raiseDie n 0x0C04 0xFF 0x18, recs.length)
    | none => (h, recs.length)

/-- Cells `[a, a + n)` of a memory replaced by those of `src` from `o` on. -/
def Memory.splice (m : Memory) (a n : Nat) (src : Memory) (o : Nat) : Memory :=
  (m.filter fun e => decide (e.1 < a)) ++
    ((src.filter fun e => decide (o ≤ e.1) && decide (e.1 < o + n)).map fun e => (e.1 - o + a, e.2)) ++
    m.filter fun e => decide (a + n ≤ e.1)

/-- The save writes the regions of Table 14-7 that hold a die's state: each of their bursts can be read again (13:R285). The manual gives no layout of
their bytes, and the state itself stands in the context (log 75). -/
def Stack.stateSaved (k : Stack) (off : Nat) : Stack :=
  let inside (b : Nat) : Bool :=
    let a := 64 * b
    (decide (off + 0x41000 ≤ a) && decide (a < off + 0x45000)) || (decide (off + 0x1000000 ≤ a) && decide (a < off + 0x3900000))
  { k with bad := k.bad.filter fun b => !inside b, errs := k.errs.filter fun e => !inside e.1 }

/-- A whole region of a stack is written anew: every burst of it is readable again (13:R285). -/
def Stack.fill (k : Stack) (a n : Nat) (src : Memory) (o : Nat) : Stack :=
  { k with
    mem := k.mem.splice a n src o
    bad := k.bad.filter fun b => !(decide (a ≤ 64 * b) && decide (64 * b < a + n))
    errs := k.errs.filter fun e => !(decide (a ≤ 64 * e.1) && decide (64 * e.1 < a + n))
    mst := if k.mst = .retention then .on else k.mst }

/-- The scratchpads of a die as one memory of 128 MiB, core `c` at 4 MiB × `c` (14:R302). -/
def DieCtx.padImage (x : DieCtx) : Memory :=
  (List.range 32).flatMap fun c =>
    ((x.core c).spad.filter fun e => decide (e.1 < 2 ^ 22)).map fun e => (e.1 + 2 ^ 22 * c, e.2)

/-- The pages of a scratchpad image written; false when a page of it is not local or stops the write (14 Table 14-9). -/
def Hw.imagePages (n : Nat) (root : Root) (img : Memory) (va0 : Nat) : List (Nat × Nat) → Hw → Hw × Bool
  | [], h => (h, true)
  | p :: r, h =>
    match h.translate n root p.1 2 ⟨.program, 11, srcBytes n 0xFF 0x18⟩ with
    | .error _ => let t := Hw.imagePages n root img va0 r h; (t.1, false)
    | .ok (l, h) =>
      if l.host || l.stk ≠ n || !tePin l.entry then let t := Hw.imagePages n root img va0 r h; (t.1, false)
      else Hw.imagePages n root img va0 r
        ((h.updStk n fun k => k.fill (l.base + p.1 % l.size) p.2 img (p.1 - va0)).count (ctrDie n 161) p.2 .program 11 (srcBytes n 0xFF 0x18))

/-- The header that a save leaves (14 Table 14-8). -/
def saveHeader (x : DieCtx) (state folded stopCode : Nat) (w : Word512) : Word512 :=
  let w := setFld (setFld w 511 508 state) 507 507 (b2n x.ymode)
  let w := setFld (setFld (setFld w 503 500 x.ldie.toNat) 495 448 x.helm.step.toNat) 415 409 folded
  setFld w 351 336 (if state = 3 then stopCode else 0)

def BadMark.isStore : BadMark → Bool
  | .store _ => true
  | _ => false

/-- The part of a die that its save keeps: the scratchpads are in their image, and firmware refills the built-in store before it releases the die
(10:R229). -/
def DieCtx.saved (x : DieCtx) : DieCtx :=
  { x with cores := x.cores.map fun c => { c.clearBad BadMark.isStore with spad := [] } }

/-- The die writes its save (14:R305). -/
def Hw.saveDie (h : Hw) (num : BitVec 16) (n : Nat) : Hw :=
  -- rounds that the GMEs have begun are wholly added, and queued segments retire (11:R254)
  let h := ((List.range 4).foldl (fun h cl => h.accSettle n cl) (h.splitBack n)).stopAgents n
  let f := h.foldFaults n
  let h := f.1.updStk n fun k => k.stateSaved (h.saveAt n)
  let x := h.cx n
  let w := Hw.imagePages n x.root x.padImage x.spImg.toNat (pagesOfRange x.spImg.toNat (2 ^ 27)) h
  let h := w.1
  let h := if w.2 then h
    else (h.raiseDie n 0x0C05 0xFF 0x18).updCtx num fun c =>
      let c := c.endWith 3
      if c.stopCode = 0 then { c with stopCode := 0x0C05 } else c
  let c := h.ctx? num
  let ending := (c.map (·.ending)).getD 0
  let state := if ending = 0 then 2 else 3
  let code := if x.stop ≠ 0 then x.stop.toNat else (c.map (·.stopCode.toNat)).getD 0
  let x := h.cx n
  let base := (h.header n x.saveOff.toNat).getD
    (BitVec.ofNat 512 (put x.rootStk.toNat 444 4 + put x.rootOff.toNat 425 19 + put x.spImg.toNat 352 48))
  let h := h.updStk n fun k => k.store (hdrOff x.saveOff.toNat) (entryBytes (saveHeader x state f.2 code base))
  let h := h.updCtx num fun c => { c with save := c.save ++ [(n, x.saved)] }
  h.updDie n fun d => { d.vacate with owner := some num, phase := .saved }

/-- Host transfers of a save area stop at their granule (18:R387). -/
def Hw.stopHost (h : Hw) (n off status : Nat) : Hw :=
  let mine (e : HostX) : Bool := e.die.val == n && ((h.cmd? e.cmd).any fun c => fld c.w 359 344 == off)
  let l := h.chip.hostX.filter mine
  let h := h.onChip fun c => { c with hostX := c.hostX.filter fun e => !mine e }
  l.foldl (fun h e => h.complete e.cmd ⟨status, 0, 0, put e.x.next 160 32⟩) h

/-- The drain of a die ends, and it saves. -/
def Hw.drainEnd (h : Hw) (n : Nat) : Hw :=
  match (h.die n).owner with
  | none => h
  | some num =>
    if (h.die n).phase != .draining then h
    else
      -- the launch's 256th skip stops the program even when the pre-emption comes first (03:R86, 14 Table 14-9)
      let h := h.skipLimit n
      if h.drained n then (((h.stopHost n (h.cx n).saveOff.toNat 0xD).saveDie num n).landHeld num) else h

/-- DIE_DRAIN_END (14:R304). -/
def execDieDrainEnd (d : Fin 16) (s : State) : Out := .next (s.onHw fun h => h.drainEnd d.val)

/-- The die that an outstanding RESET FORM 1 names. -/
def Hw.resetDie? (h : Hw) (k : Nat) : Option Nat := (h.cmd? k).map fun c => fld c.w 383 376

/-- Per-die RESET commands of a die complete, after 0x0207 (23:R466, R470). -/
def Hw.finishDieReset (h : Hw) (n : Nat) (ids : List Nat) : Hw :=
  if ids.isEmpty then h else (h.raiseHub 0x0207 0x62 1 n).completeAll ids ⟨0, 0, 0, 0⟩

/-- The last die has saved (14:R305, 04:R105, R106). -/
def Hw.saveComplete (h : Hw) (num : BitVec 16) : Hw :=
  match h.ctx? num with
  | none => h
  | some c =>
    if c.st != .stopping || !(c.ents.all fun e => (c.save.any fun s => s.1 == e.die.val)) then h
    else if c.ending = 0 then
      let h := h.onChip fun y => { y with
        dies := y.dies.map fun d => if d.owner = some num then { d with owner := none, phase := .idle } else d }
      let h := h.updCtx num fun c => { c with st := .saved, cmd := none, pre := [], raised := [] }
      let h := match c.cmd with
        | some id => h.complete id ⟨4, 0, c.stopCode.toNat, 0⟩
        | none => h
      h.completeAll c.pre ⟨0, 0, 0, 0⟩
    else
      -- a die that saved before the program stopped is not resumable either (14 Table 14-9)
      let h := c.ents.foldl (fun h e => h.setHeader e.die.val e.saveOff.toNat fun w =>
        if hdState w = 2 then setFld (setFld w 511 508 3) 351 336 c.stopCode.toNat else w) h
      -- a per-die reset completes after the context's completion entry, once its self-test has ended (23:R466)
      let h := h.endCtx num ⟨c.ending, 0, c.stopCode.toNat, 0⟩ ⟨0, 0, 0, 0⟩
      c.ents.foldl (fun h e =>
        let n := e.die.val
        if (h.die n).resetting then h else h.finishDieReset n (c.resets.filter fun k => h.resetDie? k == some n)) h

/-- CONTEXT_SAVE_COMPLETE (14:R305). -/
def execContextSaveComplete (ctx : BitVec 16) (s : State) : Out := .next (s.onHw fun h => h.saveComplete ctx)

/-! ### RESUME (14:R306, 04:R107) -/

/-- The first uncorrectable burst among what a restore of die `n` reads: the save area's contents and the scratchpad image. -/
def Hw.restoreBad (h : Hw) (e : DieEnt) : Option Nat :=
  let n := e.die.val
  let k := h.stk n
  let off := 65536 * e.saveOff.toNat
  let held (b : Nat) : Bool :=
    let a := 64 * b
    decide (off ≤ a) && decide (a < off + 0x45000) || decide (off + 0x1000000 ≤ a) && decide (a < off + 0x3900000)
  match k.badAmong held with
  | some b => some b
  | none =>
    let va := ((h.header n e.saveOff.toNat).map hdSpimg).getD 0
    (pagesOfRange va (2 ^ 27)).findSome? fun p => match h.walk n (h.entRoot e) p.1 1 with
      | .ok l => k.badAmong fun b => decide (l.base + p.1 % l.size ≤ 64 * b) && decide (64 * b < l.base + p.1 % l.size + p.2)
      | .error _ => none

/-- A stopped agent starts again from NEXT. -/
def Stall.restart (_ : Stall) : Stall := .run

/-- Loads after a restore: the bank Helm fetches from, whose load may have been interrupted, then the other bank if it was valid, then what was pending
(04:R107). -/
def DieCtx.reloads (x : DieCtx) : List LoadReq :=
  let a := x.helm.bank.toNat
  let re (b : Nat) : List LoadReq := if (x.bank b).valid then [plainLoad b (x.bank b).seg.toNat] else []
  let left := x.loads.map fun l => { l with started := false, stall := .run }
  let own (l : LoadReq) : Bool := !(x.bank a).valid && l.bank.toNat == a && !l.held
  re a ++ left.filter own ++ re (1 - a) ++ left.filter fun l => !own l

/-- The saved part of a die, ready to go on. -/
def DieCtx.restored (x : DieCtx) (root : Root) (spimg : Nat) (img : Nat → Memory) : DieCtx :=
  { x with
    rootStk := BitVec.ofNat 4 root.stk
    rootOff := BitVec.ofNat 19 (root.off / 8192)
    spImg := BitVec.ofNat 48 spimg
    helm := { x.helm with held := none, st := if x.helm.st = .idle then .idle else .waitBank }
    loads := x.reloads
    banks := x.banks.map fun k => { k with valid := false, loading := false, drv := false, code := [] }
    xfers := x.xfers.map fun t => { t with stall := t.stall.restart }
    smalls := x.smalls.map fun t => { t with stall := t.stall.restart }
    gmes := x.gmes.map fun g => { g with
      bjobs := g.bjobs.map fun j => { j with stall := j.stall.restart }
      hjobs := g.hjobs.map fun j => { j with stall := j.stall.restart } }
    puus := x.puus.map fun p => { p with queue := p.queue.map fun c => { c with stall := c.stall.restart } }
    fslots := []
    frecs := []
    waitq := []
    pre := .none
    stop := 0
    cores := Vector.ofFn fun i => { vget x.cores i.val Core.init with spad := img i.val } }

/-- The scratchpad of core `c` from its image. -/
def Hw.padOf (h : Hw) (e : DieEnt) (va c : Nat) : Memory :=
  let n := e.die.val
  let v := va + 2 ^ 22 * c
  (pagesOfRange v (2 ^ 22)).flatMap fun p => match h.walk n (h.entRoot e) p.1 1 with
    | .ok l =>
      let a := l.base + p.1 % l.size
      ((h.stk n).mem.filter fun e => decide (a ≤ e.1) && decide (e.1 < a + p.2)).map fun e => (e.1 - a + (p.1 - v), e.2)
    | .error _ => []

/-- One die of an accepted resume. -/
def Hw.resumeDie (h : Hw) (k : Ctx) (e : DieEnt) : Hw :=
  let n := e.die.val
  let off := e.saveOff.toNat
  let hdr := (h.header n off).getD 0
  let x := ((h.savedCx k.num n).getD DieCtx.init).restored (hdRoot hdr) (hdSpimg hdr) fun c => h.padOf e (hdSpimg hdr) c
  let h := h.updDie n fun d => { d with owner := some k.num, phase := .running, cx := x }
  let h := h.loadSlots n k.ents.length
  let h := h.updCx n DieCtx.startLoad
  let h := (k.loads.filter fun l => l.1 == n).foldl (fun h l =>
    match l.2.cmd with
    | some id => h.driverLoad n l.2.bank.toNat l.2.seg.toNat id
    | none => h) h
  h.setHeader n off fun w => setFld w 511 508 1

/-- A burst of the save persists uncorrectable: the resumption completes with status 0x3 and the context cannot be resumed (13 Table 13-4). -/
def Hw.resumeLost (h : Hw) (c : Cmd) (s b : Nat) : Hw :=
  let num := cmCtx c.w
  match h.ctx? num with
  | none => h
  | some k =>
    let h := h.raiseUE s b s 0x18 (some num)
    let h := (k.ents.filter fun e => e.die.val == s).foldl (fun h e =>
      h.setHeader s e.saveOff.toNat fun w => setFld (setFld w 511 508 3) 351 336 0x0B04) h
    let h := h.updCtx num fun k => { k with cmd := some c.id, ending := 3, stopCode := 0x0B04 }
    h.endCtx num ⟨3, 0, 0x0B04, 0⟩ ⟨0xB, 0, 0, 0⟩

/-- A resumption: what it needs, then each die. -/
def Hw.resume (h : Hw) (c : Cmd) : Hw :=
  let num := cmCtx c.w
  match h.ctx? num with
  | none => h
  | some k =>
    let h := h.wakeEnts k.ents
    let l := h.placeShort k.ents 2
    if !l.isEmpty then
      let ended := k.ents.any fun e => match h.header e.die.val e.saveOff.toNat with
        | some w => let s := hdState w; s == 1 || s == 3 || s == 4
        | none => false
      (if ended then h.raiseCtx num 0x0C06 0x67 else h).refuseShort c l
    else match k.ents.findSome? fun e => (h.restoreBad e).map fun b => (e, b) with
      | some (e, b) => h.cmdReread c.id e.die.val b
      | none =>
        let h := k.ents.foldl (fun h e => h.resumeDie k e) h
        let h := h.updCtx num fun k => { k with st := .running, cmd := some c.id, save := [], loads := [], stopCode := 0, stopSeq := 0 }
        let h := h.landHeld num
        -- where nothing loads the bank that Helm waits for, the program stops (04:R98)
        k.ents.foldl (fun h e => h.bankWaiter e.die.val (h.cx e.die.val).helm.bank.toNat) h

def runResume : Run := fun c s => (s.onHw fun h => h.resume c).wakeDies (cmCtx c.w) false

/-- RESUME (14:R306). -/
def execResume (q : Fin 64) (w : Word512) (s : State) : Out := .next (hostCmd 3 0 runResume q w s)

end Sys2Proof.Machine
end

