-- ==== Sys2Proof/Machine/PowerBase.lean ====
section
/-! DEFINITION. What the power manager does: ceiling, setpoints, pacing, grants, tolerances, idle units, thermal shutdown (19). -/

namespace Sys2Proof.Machine

def State.onPower (s : State) (f : Power → Power) : State := { s with power := f s.power }
def Power.die (p : Power) (n : Nat) : PwrDie := vget p.per n PwrDie.init
def Power.updDie (p : Power) (n : Nat) (f : PwrDie → PwrDie) : Power := { p with per := vupd p.per n f }

/-! ### The ceiling E (19:R398, R406, 24:R474) -/

/-- Limit of a row of Table 19-7, in W. -/
def CoolRow.limit : CoolRow → Option Nat
  | .rated => none
  | .reported => none
  | .limit2100 => some 2100
  | .limit800 => some 800
  | .shutdown => none

/-- The coolant limit in force. -/
def Power.coolLimit (p : Power) : Option Nat :=
  match p.cool.limit, p.revLimit with
  | some a, true => some (min a 800)
  | some a, false => some a
  | none, true => some 800
  | none, false => none

/-- The input limit VIN × 90 A, while VIN lay from 40 V to 46 V at the last window. -/
def Power.vinLimit (p : Power) : Option Nat :=
  if 400 ≤ p.vinWin.toNat && p.vinWin.toNat ≤ 460 then some (9 * p.vinWin.toNat) else none

def Power.ceiling (p : Power) : Nat :=
  min (min p.grant.grant.toNat 4200) (min (p.coolLimit.getD 4200) (p.vinLimit.getD 4200))

/-! ### Setpoints (19:R399, Table 19-6) -/

/-- Typical power by setpoint code (19 Table 19-6). -/
def setRows : List (Nat × Nat) := [(0, 1450), (10, 2000), (20, 2700), (30, 3500), (40, 4350), (60, 6500)]

/-- The highest code of Table 19-6 that a ceiling allows. -/
def codeFor (e : Nat) : Nat := (setRows.filter fun r => decide (r.2 ≤ e)).foldl (fun a r => max a r.1) 0

/-- The next row above a code. -/
def rowAbove (c : Nat) : Option (Nat × Nat) := setRows.find? fun r => decide (c < r.1)

/-- Rise of power from a code to the next row. -/
def riseOf (c : Nat) : Nat :=
  let low := (setRows.filter fun r => decide (r.1 ≤ c)).foldl (fun a r => max a r.2) 0
  ((rowAbove c).map fun r => r.2 - low).getD 0

/-- The setpoint that R399 gives stack `n`: up to VMAX, from E, or from 15/16 of it where a phase is lost (19:R407); code 0 in a
thermal shutdown (19:R405). -/
def Power.target (p : Power) (n : Nat) : Nat :=
  let e := p.grant.ceil.toNat
  if p.shutdown then 0 else min p.cfg.vmax.toNat (codeFor (if bit p.phaseLost n then e * 15 / 16 else e))

/-- A setpoint changes; while a droop response holds, the ramp waits at its present voltage (19:R403). -/
def PwrDie.setCode (p : PwrDie) (c : Nat) : PwrDie :=
  if p.droop ≠ 0 || p.ramp then { p with vset := BitVec.ofNat 6 c, ramp := true }
  else { p with vset := BitVec.ofNat 6 c, vnow := BitVec.ofNat 6 c }

/-- The stack has a resident context. -/
def Hw.occupied (h : Hw) (n : Nat) : Bool := (h.die n).owner.isSome && (h.die n).phase != .saved

/-- Setpoints do not stay above what the ceiling allows. -/
def State.capCodes (s : State) : State :=
  s.onPower fun p => (List.range 16).foldl (fun p n =>
    let t := if s.hw.occupied n then p.target n else 0
    if t < (p.die n).vset.toNat then p.updDie n fun d => d.setCode t else p) p

/-- E changes. -/
def State.newCeiling (s : State) : State :=
  (s.onPower fun p => { p with grant := { p.grant with ceil := BitVec.ofNat 16 p.ceiling } }).capCodes

/-! ### Pacing (19:R400, R401, R404, R407) -/

/-- PACED of every die: by the loop or a sample on occupied dies, while a thermal shutdown saves, by heat from 100 °C, and while phases rebalance. -/
def State.repace (s : State) : State :=
  s.onPower fun p => { p with per := Vector.ofFn fun i =>
    let d := p.die i.val
    let on := ((p.pacing || p.excess || (p.shutdown && !p.shutOff)) && s.hw.occupied i.val) || decide (100 ≤ d.tj.toNat) || bit p.rebalancing i.val
    { d with paced := on, pacedWin := d.pacedWin && on } }

/-! ### Grants (19:R395-R397) -/

/-- Reason for refusing a grant, or 0 (19 Table 19-5). -/
def Power.grantReason (p : Power) (src : BitVec 2) (grant gseq : BitVec 16) : Nat :=
  if src ≠ p.cfg.gsrc then 1
  else if grant.toNat < 800 || 4200 < grant.toNat then 2
  else if p.grant.accepted && !(decide (1 ≤ (gseq - p.grant.last).toNat) && decide ((gseq - p.grant.last).toNat ≤ 32767)) then 3
  else 0

/-- A grant is checked; an accepted one is in force from the next window. `id` is the command that carries it, if one does. -/
def State.offerGrant (s : State) (src : BitVec 2) (grant gseq : BitVec 16) (id : Option Nat) : State :=
  let r := s.power.grantReason src grant gseq
  if r ≠ 0 then
    let s := s.onHw fun h => h.raiseHub 0x1001 0x63 r gseq.toNat
    match id with
    | some k => s.complete k (refusal r 0x1001)
    | none => s
  else
    let s := s.onPower fun p => { p with grant := { p.grant with
      next := some (grant, gseq), last := gseq, accepted := true, lapsed := false } }
    let s := s.onHw fun h => h.countHub 48 1 .firmware 0x63
    match id with
    | some k => s.complete k ⟨0, 0, 0, 0⟩
    | none => s

/-- Grants held during a handover, in arrival order. -/
def State.heldGrants (s : State) : State :=
  let l := s.power.grant.held
  l.foldl (fun s g => s.offerGrant g.1 g.2.1 g.2.2.1 g.2.2.2)
    (s.onPower fun p => { p with grant := { p.grant with held := [] } })

/-! ### Tolerances (19:R411) -/

/-- No limit. -/
def tolNone : Word32 := 0xFFFFFFFF

def Power.devTol (p : Power) : Nat := (vget p.tol 0 100).toNat

/-- The tolerance that governs a context. -/
def Power.ctxTol (p : Power) (c : Ctx) : Nat :=
  match c.tol with
  | some t => t.toNat
  | none =>
    let r := vget p.tol c.role.toNat tolNone
    if c.role ≠ 0 && r ≠ tolNone then r.toNat else p.devTol

/-- For compute die `n`. -/
def State.dieTol (s : State) (n : Nat) : Nat :=
  if s.hw.occupied n then
    match (s.hw.die n).owner.bind s.hw.ctx? with
    | some c => s.power.ctxTol c
    | none => s.power.devTol
  else s.power.devTol

/-- For link dies, memory stacks and the hub. -/
def State.leastTol (s : State) : Nat := minOf s.power.devTol (s.hw.chip.ctxs.map s.power.ctxTol)

/-! ### Idle units (19:R394, R412, Table 19-9) -/

/-- Exit latency in µs; memory stack off takes 20 ms (13 Table 13-7). -/
def idleLatency : IdleUnit → Nat
  | .linkQuiet _ => 1
  | .matrixGated _ => 2
  | .vectorGated _ => 2
  | .dieRetention _ => 15
  | .stackRetention _ => 40
  | .stackOff _ => 20000
  | .dieOff _ => 120
  | .linkSleep _ => 500
  | .standby => 400000

def State.unitTol (s : State) : IdleUnit → Nat
  | .matrixGated d => s.dieTol d.val
  | .vectorGated d => s.dieTol d.val
  | .dieRetention d => s.dieTol d.val
  | .dieOff d => s.dieTol d.val
  | _ => s.leastTol

/-- The unit is in that state. -/
def State.asleep (s : State) : IdleUnit → Bool
  | .linkQuiet l => (s.hw.port l.val).quiet
  | .matrixGated d => (s.power.die d.val).mxg
  | .vectorGated d => (s.power.die d.val).vxg
  | .dieRetention d => bit s.power.retained d.val
  | .stackRetention k => (s.hw.stk k.val).mst == .retention
  | .stackOff k => (s.hw.stk k.val).mst == .off
  | .dieOff d => bit s.power.idleOff d.val
  | .linkSleep l => (s.hw.port l.val).st == .sleep
  | .standby => s.power.standby

/-- The unit leaves that state; a stack that is off is tested first, in its own command (13:R287). -/
def State.wakeUnit (s : State) : IdleUnit → State
  | .linkQuiet l => s.onHw fun h => h.updPort l.val fun p => { p with quiet := false }
  | .matrixGated d => s.onPower fun p => p.updDie d.val fun (x : PwrDie) => { x with mxg := false }
  | .vectorGated d => s.onPower fun p => p.updDie d.val fun (x : PwrDie) => { x with vxg := false }
  | .dieRetention d => s.onPower fun p => { p with retained := setFld p.retained d.val d.val 0 }
  | .stackRetention k => s.onHw fun h => h.wakeStk k.val ⟨.firmware, 11, srcBytes 99 0xFF 0x63⟩
  | .stackOff _ => s
  | .dieOff d => s.onPower fun p => { p with idleOff := setFld p.idleOff d.val d.val 0 }
  | .linkSleep l => s.onHw fun h => h.updPort l.val fun p => { p with st := if p.st = .sleep then .up else p.st }
  | .standby => s.leaveStandby

/-- Every unit that may be idle. -/
def idleUnits : List IdleUnit :=
  (List.finRange 48).map .linkQuiet ++ (List.finRange 16).map .matrixGated ++ (List.finRange 16).map .vectorGated ++
    (List.finRange 16).map .dieRetention ++ (List.finRange 16).map .stackRetention ++ (List.finRange 16).map .dieOff ++
    (List.finRange 48).map .linkSleep ++ [.standby]

/-- Units deeper than their tolerance allows are woken. -/
def State.wakeDeep (s : State) : State :=
  idleUnits.foldl (fun s u => if s.asleep u && decide (s.unitTol u < idleLatency u) then s.wakeUnit u else s) s

/-- MCTP reaches the module: over I3C from the end of step 2, over VDM from READY on (23:R462). -/
def State.mctpUp (s : State) : GrantPath → Bool
  | .i3c => decide (3 ≤ s.hw.host.bootStep.toNat)
  | .vdm => s.hw.host.ready

/-! ### A handover that fails (21:R447) -/

/-- HANDOVER is cleared and held grants are checked. -/
def State.handoverOver (s : State) : State := (s.onHw fun h => h.onHost fun x => { x with handover := false }).heldGrants

/-- The old instance resumes: no bank-switch record is written, and the commit is refused. -/
def State.handoverFails (s : State) : State :=
  if !s.hw.host.handover then s
  else
    let id := s.sec.commit
    let s := { s with sec := { s.sec with stage := 5, commit := none } }
    let s := s.onHw fun h => h.raiseHub 0x1206 0x62
    let s := match id with
      | some k => s.complete k (refusal 0x10 0x1206)
      | none => s
    s.handoverOver

/-! ### Thermal shutdown (19:R405) -/

/-- Contexts that a shutdown has still to save. -/
def Hw.unsaved (h : Hw) : List (BitVec 16) := (h.chip.ctxs.filter fun c => c.st != .saved).map (·.num)

/-- A link port goes off with its die. -/
def Port.powerOff (p : Port) : Port :=
  { p with st := if p.st = .disabled then .disabled else .down, replay := [], reps := [], waiting := [], nakSent := false
           suspect := none, quiet := false }

/-- Bound channels are abandoned. -/
def Hw.abandonAll (h : Hw) : Hw :=
  (List.range 128).foldl (fun h k => if (h.chb k).opened then h.abandon k else h) h

/-- Compute dies go off with their stacks in retention, then the link dies (steps 3 and 4). -/
def State.shutOffDies (s : State) : State :=
  let s := s.onHw fun h => h.onChip fun c => { c with
    dies := c.dies.map fun d => { d with off := true }
    stk := c.stk.map fun k => { k with mst := if k.mst = .on then .retention else k.mst } }
  let s := s.onHw fun h => (h.abandonAll.redAbortAll 0x0F06).onLinks fun x => { x with ports := x.ports.map Port.powerOff }
  (s.onPower fun p => { p with shutOff := true, ldon := 0 }).repace

/-- A shutdown goes on: contexts that came to run meanwhile are pre-empted, and once every context is saved the dies go off. -/
def State.shutdownStep (s : State) : State :=
  if !s.power.shutdown || s.power.shutOff then s
  else if s.hw.unsaved.isEmpty then s.shutOffDies
  else s.onHw fun h => ((h.chip.ctxs.filter fun c => c.st == .running).map (·.num)).foldl (fun h n => h.preemptCtx n) h

/-- A shutdown begins, for a die or the coolant. -/
def State.shutdownBegin (s : State) (die : Nat) : State :=
  if s.power.shutdown then s
  else
    let s := s.raise ⟨0x1007, die, 0xFF, 0x63, 0, 0, none⟩
    let s := s.handoverFails.onHw fun h => h.takeAbortAll 0x1007 0xB true
    (s.onPower fun p => { p with shutdown := true }).capCodes.repace.shutdownStep

/-- A shutdown ends when every die and the coolant allow it. -/
def State.shutdownEnd (s : State) : State :=
  if !s.power.shutOff || !s.power.aboveCool.isEmpty || s.power.cool == .shutdown then s
  else
    let s := s.onPower fun p => { p with shutdown := false, shutOff := false, ldon := s.linkDies }
    let s := s.onHw fun h => h.onChip fun c => { c with dies := c.dies.map fun d => { d with off := false } }
    let s := s.onHw fun h => (List.range 48).foldl (fun h l => h.train l) h
    s.onHw fun h => h.raiseHub 0x1009 0x63

/-! ### Reports (19:R410, Table 19-4) -/

/-- REASON, bits 8 to 15 of HUB_PWR_STAT. -/
def Power.reason (p : Power) : Nat :=
  let any (f : PwrDie → Bool) : Bool := p.per.toList.any f
  put (b2n (p.grant.ceil == p.grant.grant)) 0 1 + put (b2n p.coolLimit.isSome) 1 1 +
    put (b2n (any (·.throttling) || !p.hotDies.isEmpty)) 2 1 + put (b2n (any (·.paced))) 3 1 + put (b2n (p.phaseLost != 0)) 4 1 +
    put (b2n p.grant.lapsed) 5 1 + put (b2n p.vinLimit.isSome) 6 1

/-- A report as its MCTP message carries it (log 41, DESIGN CHOICE): six values of two bytes. -/
def Power.report (p : Power) : List Byte :=
  [p.avg.toNat, p.peak.toNat, p.grant.grant.toNat, p.grant.ceil.toNat, p.reclaimw.toNat, p.reason].flatMap (leBytes 2)

/-- ALERT# is driven low (24 Table 24-3). -/
def Power.alert (p : Power) : Bool := p.mod.input == .lost || p.shutdown || p.coolLimit.isSome || p.mod.leak

end Sys2Proof.Machine
end

