-- ==== Sys2Proof/Machine/Security.lean ====
section
/-! DEFINITION. Firmware images, staging and commit, the owner lock, the debug lock and SPDM (21). -/

namespace Sys2Proof.Machine

def State.onSec (s : State) (f : Sec → Sec) : State := { s with sec := f s.sec }

/-! ### Images (21:R442, Table 21-5) -/

/-- Fields of block 0. -/
def fhSvn (b : List Byte) : Nat := leAt b 6 1
def fhKeyidx (b : List Byte) : Nat := leAt b 7 1
def fhNblk (b : List Byte) : Nat := leAt b 8 2
def fhNcomp (b : List Byte) : Nat := leAt b 0xA 1
def fhRevoke (b : List Byte) : Nat := leAt b 0xB 1
def fhVersion (b : List Byte) : Word32 := BitVec.ofNat 32 (leAt b 0xC 4)

/-- A component: type, first payload block, blocks. -/
structure FwComp where
  typ : Nat
  first : Nat
  len : Nat
  deriving DecidableEq, Repr

def fhComps (b : List Byte) : List FwComp :=
  (List.range (fhNcomp b)).map fun i => ⟨leAt b (0x10 + 16 * i) 1, leAt b (0x10 + 16 * i + 4) 2, leAt b (0x10 + 16 * i + 6) 2⟩

/-- Blocks of the digest table. -/
def fhTable (b : List Byte) : Nat := (fhNblk b + 63) / 64

/-- Blocks of the image. -/
def fhBlocks (b : List Byte) : Nat := 1 + fhTable b + fhNblk b

def zeroAt (b : List Byte) (lo n : Nat) : Bool := (bytesAt b lo n).all (· == 0)

/-- Fields in range and reserved bytes zero (reason 0x02). -/
def fhFieldsOk (b : List Byte) : Bool :=
  leAt b 0 4 == 0x47464D31 && leAt b 4 2 == 1 && decide (fhSvn b ≤ 63) && decide (fhKeyidx b ≤ 3) &&
    decide (1 ≤ fhNblk b) && decide (fhNblk b ≤ 2048) && decide (1 ≤ fhNcomp b) && decide (fhNcomp b ≤ 8) &&
    decide (fhRevoke b < 16) && zeroAt b 0x90 112 && zeroAt b 0x900 1678 &&
    zeroAt b (0x100 + 64 * fhTable b) (64 * (32 - fhTable b)) &&
    (List.range 8).all fun i =>
      let o := 0x10 + 16 * i
      if i < fhNcomp b then decide (1 ≤ leAt b o 1) && decide (leAt b o 1 ≤ 3) && zeroAt b (o + 1) 3 && zeroAt b (o + 12) 4
      else zeroAt b o 16

/-- Two components share a payload block. -/
def compMeet (a c : FwComp) : Bool := decide (a.first < c.first + c.len) && decide (c.first < a.first + a.len)

def compOverlap : List FwComp → Bool
  | [] => false
  | a :: r => r.any (compMeet a) || compOverlap r

/-- Components are missing TYPE 0x1, overlap or reach beyond NBLK (reason 0x07). -/
def fhCompsBad (b : List Byte) : Bool :=
  let l := fhComps b
  !(l.any fun c => c.typ == 1) || compOverlap l || l.any fun c => decide (fhNblk b < c.first + c.len)

/-- The signature fails, the key is revoked, or REVOKE names it (reason 0x03). -/
def Sec.keyBad (x : Sec) (b : List Byte) : Bool :=
  bit x.keyRev (fhKeyidx b) || (fhRevoke b).testBit (fhKeyidx b) ||
    !Config.verifySig (Config.fwKey (fhKeyidx b)) (bytesAt b 0 0xF8E) (bytesAt b 0xF8E 114)

def FwBank.block (k : FwBank) (i : Nat) : Option (List Byte) := (k.blocks.find? fun e => e.1 == i).map (·.2)
def Sec.bankAt (x : Sec) (i : Nat) : FwBank := vget x.banks i ⟨[], true⟩
def Sec.active (x : Sec) : FwBank := x.bankAt x.bank.toNat
def Sec.inactive (x : Sec) : FwBank := x.bankAt (1 - x.bank.toNat)

/-- Block 0 of the staged image, while there is a staging. -/
def Sec.staged (x : Sec) : Option (List Byte) := if x.stage == 1 || x.stage == 2 || x.stage == 3 || x.stage == 4 then x.inactive.block 0 else none

/-- The digest that block `i` of an image must have: none when its digest-table block is not staged. -/
def FwBank.digest (k : FwBank) (b : List Byte) (i : Nat) : Option (List Byte) :=
  if i ≤ fhTable b then some (bytesAt b (0x100 + 64 * (i - 1)) 64)
  else
    let p := i - 1 - fhTable b
    (k.block (1 + p / 64)).map fun t => bytesAt t (64 * (p % 64)) 64

/-- The 64-byte digest of a block. -/
def digestOf (b : List Byte) : List Byte := bytesAt (Config.shake256 64 b) 0 64

/-- Every block is staged with its digest. -/
def FwBank.whole (k : FwBank) (b : List Byte) : Bool :=
  (List.range (fhBlocks b)).all fun i => i == 0 || match k.block i with
    | some x => k.digest b i == some (digestOf x)
    | none => false

/-- Payload bytes of a component type of a bank. -/
def FwBank.payload (k : FwBank) (typ : Nat) : List Byte :=
  match k.block 0 with
  | none => []
  | some b => ((fhComps b).filter fun c => c.typ == typ).flatMap fun c =>
      (List.range c.len).flatMap fun i => (k.block (1 + fhTable b + c.first + i)).getD []

/-! ### FW_BLOCK (21:R444) -/

/-- Reason for refusing block `i`, or 0 (21 Table 21-6). -/
def Sec.blockReason (x : Sec) (i : Nat) (d : List Byte) : Nat :=
  let common := if x.lock then 0xB else if x.stage == 3 || x.stage == 4 then 0xC else 0
  if i = 0 then
    if !fhFieldsOk d then 2
    else if x.keyBad d then 3
    else if fhSvn d < x.svnFuse.toNat then 4
    else if fhCompsBad d then 7
    else common
  else match (if x.stage == 1 || x.stage == 2 then x.inactive.block 0 else none) with
    | none => 1
    | some b =>
      if fhBlocks b ≤ i then 1
      else match x.inactive.digest b i with
        | none => 5
        | some g => if g ≠ digestOf d then 6 else common

def Sec.updInactive (x : Sec) (f : FwBank → FwBank) : Sec := { x with banks := vupd x.banks (1 - x.bank.toNat) f }

/-- An accepted block is staged. -/
def Sec.stageBlock (x : Sec) (i : Nat) (d : List Byte) : Sec :=
  if i = 0 then
    if (x.stage == 1 || x.stage == 2) && x.inactive.block 0 == some d then x
    else { x.updInactive (fun _ => ⟨[(0, d)], false⟩) with stage := 1, recvd := 1 }
  else if (x.inactive.block i).isSome then x
  else
    let x := x.updInactive fun k => { k with blocks := k.blocks ++ [(i, d)] }
    let n := x.inactive.blocks.length
    let all := match x.inactive.block 0 with
      | some b => decide (fhBlocks b ≤ n)
      | none => false
    { x with recvd := BitVec.ofNat 12 n, stage := if all then 2 else 1 }

def runFwBlock : Run := fun c s =>
  let i := fld c.w 383 372
  let d := bytesAt c.arg 0 4096
  let r := s.sec.blockReason i d
  if r ≠ 0 then (s.onHw fun h => h.raiseHub 0x1203 0x66 r i).complete c.id (refusal r 0x1203)
  else (s.onSec fun x => x.stageBlock i d).complete c.id ⟨0, 0, 0, 0⟩

/-- FW_BLOCK (21:R444). -/
def execFwBlock (q : Fin 64) (w : Word512) (s : State) : Out := .next (hostCmd 0xE 0 runFwBlock q w s)

/-! ### FW_COMMIT and FW_ABORT (21:R445) -/

/-- Reason for refusing a commit, or 0. -/
def State.commitReason (s : State) : Nat :=
  let x := s.sec
  let m := s.power.mod
  if (x.staged.map fun b => decide (fhSvn b < x.svnFuse.toNat)) == some true then 4
  else if x.stage.toNat < 2 || x.stage == 5 then 8
  else if s.hw.links.takeover || s.hw.host.cmds.any (fun c => cmOpcode c.w == 0xB) then 9
  else if m.holdup ≠ 1 || m.vin.toNat < 460 || 580 < m.vin.toNat then 0xA
  else if x.lock then 0xB
  else if x.stage == 3 || x.stage == 4 then 0xC
  else 0

def State.refuseCommit (s : State) (id r : Nat) : State :=
  (s.onHw fun h => h.raiseHub 0x1204 0x66 r).complete id (refusal r 0x1204)

/-- One fuse change: its record carries what the fuses hold now. -/
def State.raiseFuse (s : State) : State := s.onHw fun h => h.raiseHub 0x120B 0x65 s.sec.svnFuse.toNat s.sec.keyRev.toNat

/-- SVNFUSE is raised to the image's SVN. -/
def State.raiseSvn (s : State) (svn : Nat) : State :=
  if s.sec.svnFuse.toNat < svn then (s.onSec fun x => { x with svnFuse := BitVec.ofNat 6 svn }).raiseFuse else s

/-- The fuse of a revoked key is blown. -/
def State.revoke (s : State) (k : Nat) : State :=
  if bit s.sec.keyRev k then s else (s.onSec fun x => { x with keyRev := x.keyRev ||| (1 <<< k) }).raiseFuse

/-- The bank-switch record is written, fuses follow, and the commit is reported (steps 3 to 6); RESULT of its completion. -/
def State.commitBank (s : State) : State × Nat :=
  let b := (s.sec.inactive.block 0).getD []
  let s := s.onSec fun x =>
    let y := x.updInactive fun k => { k with valid := true }
    { y with bank := BitVec.ofNat 1 (1 - x.bank.toNat), version := fhVersion b, commit := none }
  let s := s.raiseSvn (fhSvn b)
  let s := ((List.range 4).filter fun k => (fhRevoke b).testBit k).foldl State.revoke s
  let uc := s.sec.ucPend || (fhComps b).any fun c => c.typ == 2 || c.typ == 3
  let s := s.onSec fun x => { x with ucPend := uc, stage := 0, recvd := 0 }
  (s.onHw fun h => h.raiseHub 0x1205 0x66 0 (fhVersion b).toNat,
    put (fhVersion b).toNat 224 32 + put (b2n uc) 223 1 + put s.sec.svnFuse.toNat 217 6)

/-- The commit ends. -/
def State.commitEnd (s : State) (id : Option Nat) : State :=
  let r := s.commitBank
  match id with
  | some k => r.1.complete k ⟨0, 0, 0, r.2⟩
  | none => r.1

/-- A commit outside recovery: read-back, then the handover where the management firmware changes. -/
def State.commit (s : State) (id : Nat) : State :=
  let b := (s.sec.inactive.block 0).getD []
  if !s.sec.inactive.whole b then s.refuseCommit id 6
  else if s.sec.inactive.payload 1 == s.sec.active.payload 1 && (s.sec.active.block 0).isSome then s.commitEnd (some id)
  else
    (s.onSec fun x => { x with stage := 4, commit := some id }).onHw fun h => h.onHost fun x => { x with handover := true }

def runFwAbort : Run := fun c s =>
  let st := s.sec.stage
  if st == 3 || st == 4 then s.complete c.id ⟨0xB, 0, 0, 0⟩
  else if st == 0 then s.complete c.id ⟨0, 0, 0, 0⟩
  else
    let s := s.onSec fun x => { x.updInactive (fun _ => ⟨[], false⟩) with stage := 0, recvd := 0 }
    (s.onHw fun h => h.raiseHub 0x120C 0x66).complete c.id ⟨0, 0, 0, 0⟩

/-- FW_ABORT (21:R445). -/
def execFwAbort (q : Fin 64) (w : Word512) (s : State) : Out := .next (hostCmd 0x10 0 runFwAbort q w s)

/-- The new instance takes over, and the commit ends. -/
def State.handoverDone (s : State) : State :=
  if !s.hw.host.handover then s
  else ((s.onHw fun h => h.countHub 50 1 .firmware 0x62).commitEnd s.sec.commit).handoverOver

/-! ### The owner lock (21:R449) -/

/-- OWNER_LOCK_SET (21:R449). -/
def execOwnerLockSet (v : Word64) (s : State) : Out :=
  .next (if s.sec.lock then s else s.onSec fun x => { x with lock := true, key := BitVec.ofNat 32 (fld v 47 16) })

/-- OWNER_LOCK_CLEAR (21:R449). -/
def execOwnerLockClear (v : Word64) (s : State) : Out :=
  .next (if !s.sec.lock || s.sec.fails = 15 then s
    else if BitVec.ofNat 32 (fld v 47 16) = s.sec.key then s.onSec fun x => { x with lock := false }
    else (s.onSec fun x => { x with fails := x.fails + 1 }).onHw fun h => h.raiseHub 0x120A 0x65)

/-! ### Debug (21:R440) -/

/-- DEBUG_NONCE_READ (21:R440). -/
def execDebugNonceRead (s : State) : Out := .next (s.onSec fun x => { x with lastNonce := some x.draws, draws := x.draws + 1 })

/-- SPDM sessions end and the IDE keys are discarded (21:R439). -/
def Sec.endSessions (x : Sec) : Sec := { x with spdm := x.spdm.map fun c => { c with session := false }, ideKeyed := false }

/-- Reason for refusing a debug token, or 0. -/
def State.tokenReason (s : State) (t : List Byte) : Nat :=
  let nonce := match s.sec.lastNonce with
    | some k => some (Config.nonce k).toNat
    | none => none
  if leAt t 0 4 ≠ 0x47444B31 || leAt t 8 8 ≠ Config.hubSerial.toNat || nonce ≠ some (leAt t 16 8) ||
      !Config.verifySig Config.debugKey (bytesAt t 0 142) (bytesAt t 142 114) then 0xE
  else if !s.hw.chip.ctxs.isEmpty || s.sec.lock then 0xF
  else 0

def runAttestDebugUnlock : Run := fun c s =>
  let r := s.tokenReason c.arg
  let s := s.onSec fun x => { x with lastNonce := none, draws := x.draws + 1 }
  if r ≠ 0 then (s.onHw fun h => h.raiseHub 0x1207 0x65 r).complete c.id (refusal r 0x1207)
  else
    let s := s.onSec fun x => { x.endSessions with debug := true, dcaps := BitVec.ofNat 4 (leAt c.arg 24 1) }
    (s.onHw fun h => h.raiseHub 0x1208 0x65).complete c.id ⟨0, 0, 0, 0⟩

/-- ATTEST_DEBUG_UNLOCK (21:R440). -/
def execAttestDebugUnlock (q : Fin 64) (w : Word512) (s : State) : Out := .next (hostCmd 0x11 1 runAttestDebugUnlock q w s)

/-- DEBUG_REQUEST (21:R440). -/
def execDebugRequest (req : List Byte) (s : State) : Out :=
  .next (if !s.mctpUp .i3c then s else (s.wakeUnit .standby).onSec fun x => { x with answers := x.answers ++
    [(.i3c, if x.debug then Config.debugAnswer req x.dcaps.toNat else Config.debugError req)] })

/-! ### SPDM (21:R436, R437) -/

def connOf : Transport → Nat
  | .i3c => 0
  | .vdm => 1
  | .ring => 2

/-- The applied value of every configuration field, laid out as Table 23-4 with every field named. -/
def State.configBlock (s : State) : Word512 :=
  let c := s.power.cfg
  BitVec.ofNat 512 (put 0x3FF 496 16 + put s.hw.links.physid.toNat 476 20 + put s.hw.links.lpos.toNat 460 16 +
    put (b2n s.hw.links.spare) 459 1 + put c.gsrc.toNat 457 2 + put c.fsgrant.toNat 441 16 + put c.gtmo.toNat 425 16 +
    put c.vmax.toNat 419 6 + put (b2n c.reclaim) 418 1 + put (s.hw.stk 0).scrub.toNat 402 16 + put (s.hw.port 0).lanethr.toNat 398 4)

/-- What a measurement block digests (21 Table 21-3). -/
def State.measured (s : State) : Nat → List Byte
  | 1 => Config.bootRom
  | 2 => s.sec.active.payload 1
  | 3 => s.sec.uc.1
  | 4 => s.sec.uc.2
  | 5 => Config.builtinStore
  | 6 => entryBytes s.configBlock
  | 7 => [s.sec.svnFuse.toNat, s.sec.keyRev.toNat, b2n s.sec.debug, s.sec.dcaps.toNat, b2n s.sec.lock, 0, 0, 0].map (BitVec.ofNat 8)
  | _ => []

/-- The measurement blocks that a response reports. -/
def State.measurements (s : State) : List Byte := (List.range 7).flatMap fun i => digestOf (s.measured (i + 1))

def rqMeasurements : Nat := 0xE0

/-- The response carries a signature by the hub die's key: CHALLENGE and KEY_EXCHANGE always, GET_MEASUREMENTS when Param1 asks for it
(21:R436, R437; where SPDM 1.3 places the signature and its request bit is PRESUMED, log 86). -/
def spdmSigns (code : Nat) (req : List Byte) : Bool :=
  code == 0x83 || code == 0xE4 || (code == rqMeasurements && bit (req.getD 2 0) 0)

/-- A response: its body, and the hub's signature where it carries one (21:R433, R437). -/
def spdmAnswer (code : Nat) (req input : List Byte) (conn draw : Nat) : List Byte :=
  Config.spdmResponse input conn draw ++ if spdmSigns code req then dieSign 99 (Config.spdmSigned input conn draw) else []

/-- ERROR UnsupportedRequest (SPDM 1.3). -/
def spdmError (req : List Byte) : List Byte := [0x13, 0x7F, 0x07, req.getD 1 0]

/-- The request with the code of its row. -/
def spdmRow (code : Nat) (req : List Byte) : List Byte := bytesAt req 0 1 ++ [BitVec.ofNat 8 code] ++ req.drop 2

/-- What a request does to its connection (21:R436, R439). -/
def Spdm.after (c : Spdm) (code : Nat) : Spdm :=
  match code with
  | 0x84 => ⟨c.served + 1, false, false⟩
  | 0xE3 => { c with served := c.served + 1, negotiated := true }
  | 0xE5 => { c with served := c.served + 1, session := true }
  | 0xEC => { c with served := c.served + 1, session := false }
  | _ => { c with served := c.served + 1 }

/-- Requests that the responder supports. -/
def spdmCodes : List Nat := [0x81, 0x82, 0x83, 0x84, 0xE0, 0xE1, 0xE3, 0xE4, 0xE5, 0xE8, 0xE9, 0xEC, 0xFE]

/-- The responder serves one request: its response, and what it changes. -/
def State.spdmServe (s : State) (t : Transport) (req : List Byte) : State × List Byte :=
  let code := (req.getD 1 0).toNat
  let k := connOf t
  if !spdmCodes.contains code then (s, spdmError req)
  else
    let conn := vget s.sec.spdm k ⟨0, false, false⟩
    let input := if code = rqMeasurements then req ++ s.measurements else req
    let rsp := spdmAnswer code req input (65536 * k + conn.served) s.sec.draws
    ((s.onHw fun h => h.countHub 49 1 .firmware 0x65).onSec fun x => { x with
      spdm := vupd x.spdm k fun c => c.after code
      draws := x.draws + 1
      ideKeyed := x.ideKeyed || (code == 0xFE && conn.session) }, rsp)

/-- The transport reaches the responder (23:R462). -/
def State.spdmUp (s : State) : Transport → Bool
  | .i3c => s.mctpUp .i3c
  | _ => s.hw.host.ready

/-- A request on a transport is answered there; an MCTP message wakes a module in standby. -/
def State.spdmAnswer (s : State) (t : Transport) (req : List Byte) : State :=
  if !s.spdmUp t then s
  else
    let r := (s.wakeUnit .standby).spdmServe t req
    r.1.onSec fun x => { x with answers := x.answers ++ [(t, r.2)] }

/-- A row of SPDM: the request with the row's code. -/
def spdmRequest (code : Nat) (t : Transport) (req : List Byte) (s : State) : Out := .next (s.spdmAnswer t (spdmRow code req))

/-- GET_VERSION (21:R436). -/
def execGetVersion (t : Transport) (req : List Byte) (s : State) : Out := spdmRequest 0x84 t req s
/-- GET_CAPABILITIES (21:R436). -/
def execGetCapabilities (t : Transport) (req : List Byte) (s : State) : Out := spdmRequest 0xE1 t req s
/-- NEGOTIATE_ALGORITHMS (21:R436). -/
def execNegotiateAlgorithms (t : Transport) (req : List Byte) (s : State) : Out := spdmRequest 0xE3 t req s
/-- GET_DIGESTS (21:R436). -/
def execGetDigests (t : Transport) (req : List Byte) (s : State) : Out := spdmRequest 0x81 t req s
/-- GET_CERTIFICATE (21:R436). -/
def execGetCertificate (t : Transport) (req : List Byte) (s : State) : Out := spdmRequest 0x82 t req s
/-- CHALLENGE (21:R436). -/
def execChallenge (t : Transport) (req : List Byte) (s : State) : Out := spdmRequest 0x83 t req s
/-- GET_MEASUREMENTS (21:R437). -/
def execGetMeasurements (t : Transport) (req : List Byte) (s : State) : Out := spdmRequest 0xE0 t req s
/-- KEY_EXCHANGE (21:R436). -/
def execKeyExchange (t : Transport) (req : List Byte) (s : State) : Out := spdmRequest 0xE4 t req s
/-- FINISH (21:R436). -/
def execFinish (t : Transport) (req : List Byte) (s : State) : Out := spdmRequest 0xE5 t req s
/-- HEARTBEAT (21:R436). -/
def execHeartbeat (t : Transport) (req : List Byte) (s : State) : Out := spdmRequest 0xE8 t req s
/-- KEY_UPDATE (21:R436). -/
def execKeyUpdate (t : Transport) (req : List Byte) (s : State) : Out := spdmRequest 0xE9 t req s
/-- END_SESSION (21:R436). -/
def execEndSession (t : Transport) (req : List Byte) (s : State) : Out := spdmRequest 0xEC t req s
/-- IDE_KM_REQUEST (21:R439). -/
def execIdeKmRequest (t : Transport) (req : List Byte) (s : State) : Out := spdmRequest 0xFE t req s

/-- SPDM_UNSUPPORTED_REQUEST (21:R436). -/
def execSpdmUnsupportedRequest (t : Transport) (req : List Byte) (s : State) : Out :=
  .next (if s.spdmUp t then (s.wakeUnit .standby).onSec fun x => { x with answers := x.answers ++ [(t, spdmError req)] } else s)

def runAttestSpdm : Run := fun c s =>
  let r := s.spdmServe .ring (bytesAt c.arg 0 (fld c.w 319 304))
  if fld c.w 303 288 < r.2.length then r.1.complete c.id (refusal 0xD 0)
  else
    let s := r.1.onHw fun h => h.onHost fun x => { x with mem := x.mem.writeN (fld c.w 383 320) r.2 }
    s.complete c.id ⟨0, 0, 0, put r.2.length 240 16⟩

/-- ATTEST_SPDM (21:R438). -/
def execAttestSpdm (q : Fin 64) (w : Word512) (s : State) : Out := .next (hostCmd 0x11 0 runAttestSpdm q w s)

end Sys2Proof.Machine
end

