-- ==== Sys2Proof/Machine/Apply.lean ====
section
/-! DEFINITION. Configuration: the fields of the block, CONFIG_APPLY and the stored configuration (23:R467, R468). -/

namespace Sys2Proof.Machine

/-- What a report entry says of one field (23 Table 23-5). -/
structure Applied where
  field : Nat
  reason : Nat
  requested : Nat
  applied : Nat
  deriving DecidableEq, Repr

def cbMask (b : Word512) : Nat := fld b 511 496
/-- Field code `k` is named. -/
def cbNames (b : Word512) (k : Nat) : Bool := bit b (496 + k)

/-- Requested value of field code `k`. -/
def cbField (b : Word512) (k : Nat) : Nat :=
  match k with
  | 0 => fld b 495 476
  | 1 => fld b 475 460
  | 2 => fld b 459 459
  | 3 => fld b 458 457
  | 4 => fld b 456 441
  | 5 => fld b 440 425
  | 6 => fld b 424 419
  | 7 => fld b 418 418
  | 8 => fld b 417 402
  | _ => fld b 401 398

/-- A change of LPOS or SPARE starts a spare takeover period (21:R446). -/
def Links.takeoverBegin (x : Links) : Links :=
  { x with takeover := true, ports := x.ports.map fun p => { p with leftSince := false } }

/-- A write of HUB_SZL_ID while it may be written. -/
def Links.setId (x : Links) (f : Links → Links) : Links :=
  let y := f x
  if y.lpos ≠ x.lpos || y.spare ≠ x.spare then y.takeoverBegin else y

/-- The fields of HUB_SZL_ID are held while a commit or a handover is in progress (21:R446). -/
def Sec.idHeld (x : Sec) : Bool := x.stage == 3 || x.stage == 4

/-- A value clamped into a range, and the reason that its report gives (00:R14). -/
def clampTo (lo hi v : Nat) : Nat × Nat := if v < lo then (lo, 1) else if hi < v then (hi, 2) else (v, 0)

def State.onLinks (s : State) (f : Links → Links) : State := s.onHw fun h => h.onLinks f
def State.onCfg (s : State) (f : PwrCfg → PwrCfg) : State := s.onPower fun p => { p with cfg := f p.cfg }

/-- GSRC is written once (19 Table 19-3). -/
def PwrCfg.setGsrc (c : PwrCfg) (v : Nat) : PwrCfg :=
  if c.gsrcDone then c else { c with gsrc := BitVec.ofNat 2 (min v 2), gsrcDone := true }

/-- One named field is applied: the state, the reason and the value in force. -/
def State.applyField (s : State) (k v : Nat) : State × Nat × Nat :=
  let x := s.hw.links
  let held := s.sec.idHeld
  match k with
  | 0 => if held then (s, 4, x.physid.toNat) else
      (s.onLinks fun x => { x with physid := BitVec.ofNat 20 v, idValid := true }, 0, v)
  | 1 => if held then (s, 4, x.lpos.toNat) else
      (s.onLinks fun x => { x with lpos := BitVec.ofNat 16 v, idValid := true }, 0, v)
  | 2 => if held then (s, 4, b2n x.spare) else
      (s.onLinks fun x => { x with spare := v == 1, idValid := true }, 0, v)
  | 3 =>
    let c := s.power.cfg
    let d := c.setGsrc v
    (s.onCfg fun _ => d, if c.gsrcDone then 3 else if v = 3 then 5 else 0, d.gsrc.toNat)
  | 4 => let r := clampTo 800 4200 v; (s.onCfg fun c => { c with fsgrant := BitVec.ofNat 16 r.1 }, r.2, r.1)
  | 5 => let r := clampTo 0 60000 v; (s.onCfg fun c => { c with gtmo := BitVec.ofNat 16 r.1 }, r.2, r.1)
  | 6 => let r := clampTo 0 60 v; (s.onCfg fun c => { c with vmax := BitVec.ofNat 6 r.1 }, r.2, r.1)
  | 7 => (s.onCfg fun c => { c with reclaim := v == 1 }, 0, v)
  | 8 =>
    let r := clampTo 0 3600 v
    (s.onHw fun h => h.onChip fun c => { c with stk := c.stk.map fun k => { k with scrub := BitVec.ofNat 16 r.1 } }, r.2, r.1)
  | _ => (s.onLinks fun x => { x with ports := x.ports.map fun p => { p with lanethr := BitVec.ofNat 4 v } }, 0, v)

/-- FSGRANT in force follows its register, and E and the setpoints follow the configuration. -/
def State.settle (s : State) : State :=
  (s.onPower fun p =>
    if !p.grant.accepted || p.grant.lapsed then { p with grant := { p.grant with grant := p.cfg.fsgrant } } else p).newCeiling

/-- Every named field of a block, in code order. Applying any of codes 0 to 2 counts as a change of HUB_SZL_ID (R468). -/
def State.applyBlock (s : State) (b : Word512) : State × List Applied :=
  let ks := (List.range 10).filter (cbNames b)
  let r := ks.foldl (fun (a : State × List Applied) k =>
    let v := cbField b k
    let t := a.1.applyField k v
    (t.1, a.2 ++ [⟨k, t.2.1, v, t.2.2⟩])) (s, [])
  let id := ks.any fun k => decide (k < 3) && !s.sec.idHeld
  let t := if id then r.1.onLinks Links.takeoverBegin else r.1
  (t.settle, r.2)

/-- The further entry for non-zero reserved bits. -/
def cbReserved (b : Word512) : List Applied := if fld b 511 506 ≠ 0 || fld b 397 0 ≠ 0 then [⟨0xFF, 6, 0, 0⟩] else []

def Applied.bytes (a : Applied) : List Byte :=
  leBytes 16 (put a.field 120 8 + put a.reason 112 8 + put a.requested 64 32 + put a.applied 32 32)

/-- Bit range of field code `k` in a block. -/
def cbRange (k : Nat) : Nat × Nat :=
  match k with
  | 0 => (495, 476)
  | 1 => (475, 460)
  | 2 => (459, 459)
  | 3 => (458, 457)
  | 4 => (456, 441)
  | 5 => (440, 425)
  | 6 => (424, 419)
  | 7 => (418, 418)
  | 8 => (417, 402)
  | _ => (401, 398)

/-- The stored configuration takes the named fields at their applied values. -/
def storeFields (old : StoredCfg) (l : List Applied) : StoredCfg :=
  l.foldl (fun b a => setFld (setFld b (496 + a.field) (496 + a.field) 1) (cbRange a.field).1 (cbRange a.field).2 a.applied) old

def runConfigApply : Run := fun c s =>
  let b : Word512 := BitVec.ofNat 512 (leNat (bytesAt c.arg 0 64))
  let r := s.applyBlock b
  let l := r.2 ++ cbReserved b
  let n := min l.length (fld c.w 311 296)
  let s := if bit c.w 383 then r.1.onSec fun x => { x with stored := storeFields x.stored r.2 } else r.1
  let s := s.onHw fun h => h.onHost fun x => { x with mem := x.mem.writeN (fld c.w 375 312) ((l.take n).flatMap Applied.bytes) }
  let bad := (l.filter fun a => a.reason != 0).length
  let s := if bad = 0 then s else s.onHw fun h => h.raiseHub 0x0201 0x62 bad
  s.complete c.id ⟨0, 0, 0, put l.length 224 32 + put n 192 32⟩

/-- CONFIG_APPLY (23:R467). -/
def execConfigApply (q : Fin 64) (w : Word512) (s : State) : Out := .next (hostCmd 0x13 0 runConfigApply q w s)

/-! ### CTR_CFG (22:R455) -/

/-- Entry `i` of a filter block. -/
def filtEnt (arg : List Byte) (i : Nat) : BitVec 256 := BitVec.ofNat 256 (leAt arg (32 * i) 32)

def ftGen (f : BitVec 256) : Nat := fld f 239 232
def ftGrp (f : BitVec 256) : Nat := fld f 86 80

/-- Reason for refusing a filter block, or 0 (22 Table 22-5). -/
def filtReason (nent : Nat) (fs : List (BitVec 256)) : Nat :=
  if nent = 0 || 28 < nent || fs.any fun f => fld f 79 0 ≠ 0 || ftGen f ≠ 0 then 1
  else if (fs.any fun f => decide (27 < ftGrp f)) || hasDup (fs.map ftGrp) then 2
  else if fs.any fun f => bit f 87 && decide (fld f 135 88 < fld f 183 136) then 3
  else 0

/-- A filter comes into force with the next GEN of its group. -/
def Ctr.setFilt (c : Ctr) (f : BitVec 256) : Ctr :=
  { c with filt := vupd c.filt (ftGrp f) fun old => setFld f 239 232 (ftGen old + 1) }

def runCtrCfg : Run := fun c s =>
  let n := fld c.w 383 379
  let fs := (List.range n).map (filtEnt c.arg)
  let r := filtReason n fs
  if r ≠ 0 then (s.onHw fun h => h.raiseHub 0x1301 0x62).complete c.id (refusal r 0x1301)
  else (s.onHw fun h => { h with ctr := fs.foldl Ctr.setFilt h.ctr }).complete c.id ⟨0, 0, 0, 0⟩

/-- CTR_CFG (22:R455). -/
def execCtrCfg (q : Fin 64) (w : Word512) (s : State) : Out := .next (hostCmd 0x12 0 runCtrCfg q w s)

end Sys2Proof.Machine
end

