-- ==== Sys2Proof/Machine/Map.lean ====
section
/-! DEFINITION. MAP and UNMAP, and the retries that a map serves (14:R298, R300, R301, 18:R388). -/

namespace Sys2Proof.Machine

/-! ### The command (18 Table 18-13) -/

def mpRootStk (w : Word512) : Nat := fld w 383 380
def mpRoot (w : Word512) : Root := ⟨fld w 383 380, 8192 * fld w 379 361⟩
def mpMask (w : Word512) : Nat := fld w 360 329
def mpLarge (w : Word512) : Bool := bit w 328
def mpVa (w : Word512) : Nat := fld w 319 272
def mpPages (w : Word512) : Nat := fld w 271 252
def mpTgt (w : Word512) : Nat := fld w 251 250
def mpStack (w : Word512) : Nat := fld w 249 246
def mpAddr (w : Word512) : Nat := fld w 243 196
def mpLevel (w : Word512) : Nat := fld w 195 194

/-- What the command does to the entries of its range. -/
inductive MapOp where
  | leaves
  | pointer
  | unmap
  deriving DecidableEq, Repr

/-- Compute dies that DIEMASK names. -/
def mpDies (w : Word512) : List Nat := (List.range 16).filter fun n => natFld (mpMask w) n 1 = 1

/-- Dies whose walks the command follows; with none named, the walk on which local means the root's stack. -/
def mpWalkers (w : Word512) : List Nat := if (mpDies w).isEmpty then [mpRootStk w] else mpDies w

/-- Bytes that one entry of the command covers, and the level of that entry. -/
def mpSize (op : MapOp) (w : Word512) : Nat :=
  if op = .pointer then (if mpLevel w = 1 then 2 ^ 38 else 2 ^ 25) else if mpLarge w then 2 ^ 25 else 2 ^ 16
def mpLev (op : MapOp) (w : Word512) : Nat := if op = .pointer then mpLevel w else if mpLarge w then 2 else 3

/-- Page `k`'s new entry. -/
def mpEntry (op : MapOp) (w : Word512) (k : Nat) : Nat :=
  match op with
  | .unmap => 0
  | .leaves => 2 ^ 63 + put (mpTgt w) 61 2 + put (fld w 245 245) 60 1 + put (fld w 244 244) 59 1 + 2 ^ 58 + put (mpStack w) 52 4 +
      put (mpAddr w + (if mpLarge w then 512 else 1) * k) 0 48
  | .pointer => 2 ^ 63 + put (mpTgt w) 61 2 + put (mpStack w) 52 4 + put (mpAddr w) 0 48

/-- The range is aligned, not empty and below 2^48 (reason 0x01). -/
def mpRangeBad (op : MapOp) (w : Word512) : Bool :=
  mpVa w % mpSize op w ≠ 0 || mpPages w = 0 || 2 ^ 48 < mpVa w + mpPages w * mpSize op w

/-- The fields of the entries obey Table 14-2 (reason 0x02). -/
def mpFieldBad (op : MapOp) (w : Word512) : Bool :=
  if op = .unmap then false
  else
    let last := mpAddr w + (if mpLarge w then 512 else 1) * (mpPages w - 1)
    (op = .leaves && 2 ^ 48 ≤ last) || teMalformed (mpLev op w) (mpEntry op w 0) ||
      (op = .leaves && mpTgt w ≠ 2 && 2 ^ 16 ≤ last)

/-! ### Validation on every walk (14 Table 14-3) -/

/-- Why a walk of the command ends early: a reason of Table 14-3, or a burst that cannot be read. -/
inductive MapBad where
  | reason (r : Nat)
  | burst (stack burst : Nat)
  deriving DecidableEq, Repr

/-- An entry that the command is to write: its place, page number and present value. -/
structure MapAt where
  stk : Nat
  off : Nat
  page : Nat
  old : Nat
  deriving DecidableEq, Repr

def Hw.mapEntry (h : Hw) (s off : Nat) : Except MapBad Nat :=
  match (h.stk s).badRead off 8 with
  | some b => .error (.burst s b)
  | none => .ok ((h.stk s).mem.readLE off 8)

/-- The table that a pointer on the walk names. -/
def Hw.mapDown (h : Hw) (n level e : Nat) : Except MapBad (Nat × Nat) :=
  if teV e && !teMalformed level e && teLeaf e then .error (.reason 3)
  else if !teV e || teMalformed level e || (teStackOf n e).any h.stkUnavailable then .error (.reason 4)
  else .ok ((teStackOf n e).getD 0, teAddr e * 4096)

/-- The place of the level-`goal` entry of an address on the walk of die `n`. -/
def Hw.mapPlace (h : Hw) (n va goal : Nat) : Nat → Nat → Nat → Nat → Except MapBad (Nat × Nat)
  | 0, _, _, _ => .error (.reason 4)
  | fuel + 1, level, s, off => do
    let a := entryOff level off va
    if level = goal then .ok (s, a)
    else
      let e ← h.mapEntry s a
      let t ← h.mapDown n level e
      h.mapPlace n va goal fuel (level + 1) t.1 t.2

/-- One page on one walk, with its own entry checked. -/
def Hw.mapOne (h : Hw) (op : MapOp) (w : Word512) (n k : Nat) : Except MapBad MapAt := do
  let r := mpRoot w
  let lev := mpLev op w
  let p ← h.mapPlace n (mpVa w + k * mpSize op w) lev 3 1 r.stk r.off
  let e ← h.mapEntry p.1 p.2
  if teV e && teMalformed lev e then .error (.reason 4)
  else if op ≠ .pointer && lev = 2 && teV e && !teLeaf e then .error (.reason 3)
  else .ok ⟨p.1, p.2, k, e⟩

/-- A context whose save-area header names the root exists (reason 0x05). -/
def Hw.rootInUse (h : Hw) (r : Root) : Bool :=
  h.chip.ctxs.any fun c => c.ents.any fun e => match h.header e.die.val e.saveOff.toNat with
    | some w => hdRoot w == r
    | none => false

def mapReason (l : List (Except MapBad MapAt)) (r : Nat) : Bool :=
  l.any fun x => match x with | .error (.reason k) => k == r | _ => false

/-- A pinned leaf would go. -/
def mapPinned (op : MapOp) (w : Word512) (l : List (Except MapBad MapAt)) : Bool :=
  !(op == .leaves && bit w 244) && l.any fun x => match x with
    | .ok p => teV p.old && teLeaf p.old && tePin p.old
    | .error _ => false

/-- Every entry on every walk of the command. -/
def Hw.mapAll (h : Hw) (op : MapOp) (w : Word512) : List (Except MapBad MapAt) :=
  (List.range (mpPages w)).flatMap fun k => (mpWalkers w).map fun n => h.mapOne op w n k

/-- The reason that refuses the command, or 0. -/
def Hw.mapRefusal (h : Hw) (op : MapOp) (w : Word512) (l : List (Except MapBad MapAt)) : Nat :=
  if mpRangeBad op w then 1
  else if mpFieldBad op w then 2
  else if mapReason l 3 then 3
  else if mapReason l 4 then 4
  else if mapPinned op w l && h.rootInUse (mpRoot w) then 5
  else if 2 ^ 16 ≤ mpMask w then 6
  else 0

/-! ### Writing and invalidating (14:R298) -/

/-- The new entry; the D bit of a leaf that it replaces stays (14:R296). -/
def mapValue (op : MapOp) (w : Word512) (p : MapAt) : Nat :=
  let e := mpEntry op w p.page
  if op = .leaves && teV p.old && teLeaf p.old && teD p.old then e ||| 2 ^ 57 else e

/-- The entries, each written once as one burst write. -/
def Hw.mapWrite (h : Hw) (op : MapOp) (w : Word512) (l : List (Except MapBad MapAt)) : Hw :=
  l.foldl (fun h x => match x with
    | .ok p => h.stkPut p.stk p.off (leBytes 8 (mapValue op w p)) ringWho
    | .error _ => h) h

/-- The reads of a command's walks, each a stack access like any other (14:R293, R298). -/
def Hw.mapTouch (h : Hw) (op : MapOp) (w : Word512) : Hw :=
  (List.range (mpPages w)).foldl (fun h k => (mpWalkers w).foldl (fun h n =>
    h.walkTouch n (mpRoot w) (mpVa w + k * mpSize op w) .driver) h) h

/-- Cached leaves of the root within a range leave a DTU. -/
def Die.invalidate (d : Die) (r : Root) (lo hi : Nat) : Die :=
  { d with dtu := d.dtu.filter fun c =>
      let size := if c.large then 2 ^ 25 else 2 ^ 16
      !(c.rootStk.toNat == r.stk && 8192 * c.rootOff.toNat == r.off && decide (c.page * size < hi) && decide (lo < (c.page + 1) * size)) }

/-! ### Retries (14:R300, R301) -/

/-- The fault at which an agent stands. -/
def Stall.faulted (s : Stall) : Option (Nat × Nat × Nat × Nat × Option (Fin 64)) :=
  match s with
  | .fault va k l a slot => some (va, k, l, a, slot)
  | .retry va k l a slot => some (va, k, l, a, slot)
  | _ => none

/-- A stall with the fault slot that its agent has taken. -/
def Stall.slotted (s : Stall) (k : Fin 64) : Stall :=
  match s with
  | .fault va kd l a none => .fault va kd l a (some k)
  | .retry va kd l a none => .retry va kd l a (some k)
  | _ => s

/-- A stall whose address a map command covers: the granule is tried again (14:R300, R301). -/
def Stall.retried (s : Stall) : Stall :=
  match s with
  | .fault va k l a slot => .retry va k l a slot
  | _ => s

/-- Agents of a running die whose faulting address the map covers retry, each with its granule (14:R301, R307). -/
def Hw.retryMapped (h : Hw) (n : Nat) (r : Root) (lo hi : Nat) : Hw :=
  if (h.die n).phase != .running || (h.cx n).root != r then h
  else (h.cx n).agents.foldl (fun h a =>
    match ((h.cx n).stallOf a).faulted with
    | some f => if lo ≤ f.1 && f.1 < hi then h.updCx n fun x => x.mapStall a Stall.retried else h
    | none => h) h

/-! ### The commands -/

/-- A map or unmap: validated whole, then written, invalidated and complete. -/
def Hw.mapCmd (h : Hw) (op : MapOp) (c : Cmd) : Hw :=
  let w := c.w
  let h := if mpRangeBad op w then h else h.mapTouch op w
  let l := if mpRangeBad op w then [] else h.mapAll op w
  let r := h.mapRefusal op w l
  if r ≠ 0 then (h.raiseHub 0x0C03 0x67).complete c.id (refusal r 0x0C03)
  else
    match l.findSome? fun x => match x with | .error (.burst s b) => some (s, b) | _ => none with
    | some (s, b) => h.cmdReread c.id s b
    | none =>
      let hi := mpVa w + mpPages w * mpSize op w
      let h := h.mapWrite op w l
      let h := (mpDies w).foldl (fun h n => h.updDie n fun d => d.invalidate (mpRoot w) (mpVa w) hi) h
      let h := if op = .unmap then h else (mpDies w).foldl (fun h n => h.retryMapped n (mpRoot w) (mpVa w) hi) h
      h.complete c.id ⟨0, 0, 0, 0⟩

def runMapLeaves : Run := fun c s => s.onHw fun h => h.mapCmd .leaves c
def runMapPointer : Run := fun c s => s.onHw fun h => h.mapCmd .pointer c
def runUnmap : Run := fun c s => s.onHw fun h => h.mapCmd .unmap c

/-- MAP_LEAVES (14:R298). -/
def execMapLeaves (q : Fin 64) (w : Word512) (s : State) : Out := .next (hostCmd 5 0 runMapLeaves q w s)

/-- MAP_TABLE_POINTER (18:R388). -/
def execMapTablePointer (q : Fin 64) (w : Word512) (s : State) : Out := .next (hostCmd 5 1 runMapPointer q w s)

/-- UNMAP (14:R298). -/
def execUnmap (q : Fin 64) (w : Word512) (s : State) : Out := .next (hostCmd 6 0 runUnmap q w s)

/-- The oldest agent that waits takes a freed slot and writes its record with WAITED = 1 (14:R300). -/
def Hw.slotAcquire (h : Hw) (n : Nat) : Hw :=
  match (h.cx n).waitq, (h.cx n).freeSlot with
  | a :: _, some k =>
    match ((h.cx n).stallOf a).faulted with
    | none => h.updCx n fun x => { x with waitq := x.waitq.erase a }
    | some (va, kd, lv, acc, _) =>
      let i := agentInfo (h.die n) a
      let h := h.writeProgress n i 2 k.val va
      let folded := (h.die n).phase == .draining
      let e := faultRecord kd acc n i.eng k.val lv va (h.cx n).saveBase.toNat i.idx true folded h.host.seq h.host.stamp.hubTime
      let h := h.updCx n fun x =>
        ({ x with fslots := x.fslots ++ [k], waitq := x.waitq.erase a, frecs := alPut x.frecs k.val e } : DieCtx).mapStall a
          fun s => s.slotted k
      h.pushFault n e
  | _, _ => h

/-- FAULT_SLOT_ACQUIRE (14:R300). -/
def execFaultSlotAcquire (d : Fin 16) (s : State) : Out :=
  .next (s.onHw fun h => if (h.die d.val).owner.isSome && (h.die d.val).phase != .saved then h.slotAcquire d.val else h)

end Sys2Proof.Machine
end

