-- ==== Sys2Proof/Machine/DescCmd.lean ====
section
/-! DEFINITION. DESC_CREATE and DESC_DESTROY (06:R134, R136, R145, 18:R389). -/

namespace Sys2Proof.Machine

def dcDie (w : Word512) : Nat := fld w 383 376
def dcSlot (w : Word512) : Nat := fld w 375 364
def dcOff (w : Word512) : Nat := fld w 363 348

/-- The context that uses the save area at `off` of die `n` is resident there. -/
def Hw.residentAt (h : Hw) (n off : Nat) : Option Ctx :=
  match (h.die n).owner.bind h.ctx? with
  | some c => if (h.die n).phase != .saved && c.ents.any fun e => e.die.val == n && e.saveOff.toNat == off then some c else none
  | none => none

/-- Streams that a table binds, when no die holds it. -/
def Stack.tableBinds (k : Stack) (base : Nat) (snum : Nat) : Bool :=
  (k.tableUsed base).any fun i => let x := k.tableEntry base i; dsKind x == 5 && stSnum x == snum

/-- An entry of the table that a command needs cannot be read. -/
def Hw.descBad (h : Hw) (c : Cmd) : Option Nat :=
  let b := (65536 * dcOff c.w + 64 * dcSlot c.w) / 64
  if (h.stk (dcDie c.w)).burstBad b then some b else none

/-- A command whose entry cannot be read waits for the re-read (13:R284). -/
def Hw.descUE (h : Hw) (c : Cmd) (b : Nat) : Hw := h.cmdReread c.id (dcDie c.w) b

def Hw.descRefuse (h : Hw) (c : Cmd) (r : Nat) : Hw := (h.raiseHub 0x0501 0x67).complete c.id (refusal r 0x0501)

/-- The entry is validated, written into the table and, for a resident context, into the slot. -/
def Hw.descCreate (h : Hw) (c : Cmd) : Hw :=
  let n := dcDie c.w
  let i := dcSlot c.w
  let base := 65536 * dcOff c.w
  let h := h.wakeStk n ringWho
  let k := h.stk n
  let x : Word512 := BitVec.ofNat 512 (leNat (bytesAt c.arg 0 64))
  match h.descBad c with
  | some b => h.descUE c b
  | none =>
    let r := h.residentAt n (dcOff c.w)
    let bound := fun m => if r.isSome then (h.cx n).boundStream m else k.tableBinds base m
    let reason := if dsKind (k.tableEntry base i) ≠ 0 then 1
      else descReason (k.tableEntry base) bound (r.map fun c => c.ents.length) x
    if reason ≠ 0 then h.descRefuse c reason
    else
      let h := h.updStk n fun k => k.store (base + 64 * i) (entryBytes x)
      let h := if r.isNone then h
        else
          let h := h.updCx n fun y =>
            let y : DieCtx := { y with slots := alPut y.slots i x }
            if dsKind x = 5 then y.bindStream i x else y
          if dsKind x = 5 then h.openStream n (stSnum x) else h
      h.complete c.id ⟨0, 0, 0, 0⟩

/-- Zeros are written into the table and the slot; the slot's hold bit clears (12:R267). -/
def Hw.descDestroy (h : Hw) (c : Cmd) : Hw :=
  let n := dcDie c.w
  let i := dcSlot c.w
  let base := 65536 * dcOff c.w
  let h := h.wakeStk n ringWho
  let k := h.stk n
  match h.descBad c with
  | some b => h.descUE c b
  | none =>
    let x := k.tableEntry base i
    let l := (k.tableUsed base).map fun j => (j, k.tableEntry base j)
    let reason := destroyReason l i x
    if reason ≠ 0 then h.descRefuse c reason
    else
      let h := h.updStk n fun k => k.store (base + 64 * i) (entryBytes 0)
      let h := match h.residentAt n (dcOff c.w) with
        | some _ => h.updCx n fun y =>
          let old := y.slot i
          let y : DieCtx := { y with slots := y.slots.filter fun e => e.1 != i, holds := y.holds.filter fun j => j != i }
          if dsKind old = 5 then y.unbindStream (stSnum old) else y
        | none =>
          match h.chip.ctxs.find? fun (q : Ctx) => q.ents.any fun (e : DieEnt) => e.die.val == n && e.saveOff.toNat == dcOff c.w with
          | some q => h.updSaved q.num n fun y => { y with holds := y.holds.filter fun j => j != i }
          | none => h
      h.complete c.id ⟨0, 0, 0, 0⟩

def runDescCreate : Run := fun c s => s.onHw fun h => h.descCreate c
def runDescDestroy : Run := fun c s => s.onHw fun h => h.descDestroy c

/-- DESC_CREATE (06:R134). -/
def execDescCreate (q : Fin 64) (w : Word512) (s : State) : Out := .next (hostCmd 7 0 runDescCreate q w s)

/-- DESC_DESTROY (06:R134). -/
def execDescDestroy (q : Fin 64) (w : Word512) (s : State) : Out := .next (hostCmd 8 0 runDescDestroy q w s)

end Sys2Proof.Machine
end

