-- ==== Sys2Proof/Machine/RedSetup.lean ====
section
/-! DEFINITION. RED_SETUP: validation of a reduction group record (17:R355, R356). -/

namespace Sys2Proof.Machine

def sameSize (a b : Word512) : Bool := dsSize a 0 == dsSize b 0 && dsSize a 1 == dsSize b 1

/-- Every tile of a descriptor is pinned to stack memory. -/
def Hw.tilesPinned (h : Hw) (n : Nat) (root : Root) (m : Word512) (access : Nat) : Bool :=
  (List.range (tilesOf (dsSize m 0))).all fun i => (List.range (tilesOf (dsSize m 1))).all fun j =>
    h.pinned n root (tilePlace m [64 * i, 64 * j]).1 (tileStored (dsFormat m)) access

/-- Participants of the first stage, 1 when there is none (17:R360). -/
def redL1 (x : Word512) : Nat := (((List.range 4).map fun d => popCount (grPmask x d) 16).find? fun l => decide (1 < l)).getD 1

/-- Bytes that the staging area must hold. -/
def redStageLen (x m : Word512) : Nat := (srcGroups m + redL1 x - 1) / redL1 x * (8 * grW x + 1)

/-- The slots of a group's dies that break reason 0x04. -/
def Hw.redSlotsBad (h : Hw) (x : Word512) (c : Ctx) : Bool :=
  let ns := grDies x c
  let src (n : Nat) : Word512 := (h.partOf c.num n).slot (grSrc x)
  let dst (n : Nat) : Word512 := (h.partOf c.num n).slot (grDst x)
  ns.any fun n => !redSrcOk (src n) || !redDstOk x (dst n) || !sameSize (src n) (dst n) || !sameSize (src n) (src (ns.headD 0))

/-- Something that the group uses is not pinned, or is misaligned (reason 0x06). -/
def Hw.redPinsBad (h : Hw) (x : Word512) (c : Ctx) : Bool :=
  let ns := grDies x c
  let root (n : Nat) : Root := (h.partOf c.num n).root
  let low := ns.headD 0
  grTagaddr x % 8 ≠ 0 || grStage x % 64 ≠ 0 ||
    (ns.any fun n =>
      let p := h.partOf c.num n
      !h.tilesPinned n (root n) (p.slot (grSrc x)) 1 || !h.tilesPinned n (root n) (p.slot (grDst x)) 2 ||
        !h.pinned n (root n) (grTagaddr x) 8 2) ||
    !h.pinned low (root low) (grStage x) (redStageLen x ((h.partOf c.num low).slot (grSrc x))) 2

/-- Reason for refusing the record for slot `g`, or 0 (17 Table 17-3). -/
def Hw.redReason (h : Hw) (g : Nat) (x : Word512) : Nat :=
  let y := h.group g
  if fld x 241 0 ≠ 0 || 1 < grMode x then 1
  else if !grValid x then (if y.issues.isEmpty then 0 else 7)
  else match h.ctx? (grCtx x) with
    | none => 2
    | some c =>
      if c.chans.length ≤ grChan x then 2
      else if !((List.range 4).all fun d => natFld (grPmask x d) (coord h.links.lpos d) 1 == 1) || grLdies x = 0 ||
          2 ^ c.ents.length ≤ grLdies x then 3
      else if h.redSlotsBad x c then 4
      else if grIsem x = grCsem x then 5
      else if h.redPinsBad x c then 6
      else if (grValid y.rcd && grCtx y.rcd != grCtx x) || !y.issues.isEmpty then 7
      else 0

/-- The slot takes the record, or is emptied. -/
def Hw.redSetup (h : Hw) (c : Cmd) : Hw :=
  let g := fld c.w 383 376
  let x : Word512 := BitVec.ofNat 512 (leNat (bytesAt c.arg 0 64))
  let r := h.redReason g x
  if r ≠ 0 then (h.raiseHub 0x0F01 0x62).complete c.id (refusal r 0x0F01)
  else (h.updGroup g fun _ => if grValid x then { Group.init with rcd := x } else Group.init).complete c.id ⟨0, 0, 0, 0⟩

def runRedSetup : Run := fun c s => s.onHw fun h => h.redSetup c

/-- RED_SETUP (17:R356). -/
def execRedSetup (q : Fin 64) (w : Word512) (s : State) : Out := .next (hostCmd 9 0 runRedSetup q w s)

end Sys2Proof.Machine
end

