-- ==== Sys2Proof/Machine/Puu.lean ====
section
/-! DEFINITION. The parameter update units: updates, coefficient tables, held shards (12). -/

namespace Sys2Proof.Machine

/-! ### The command record (12 Table 12-1) -/

def puOp (w : Word512) : Nat := fld w 511 508
def puPslot (w : Word512) : Nat := fld w 507 496
def puGslot (w : Word512) : Nat := fld w 495 484
def puTable (w : Word512) : Nat := fld w 483 476
def puTagchk (w : Word512) : Bool := bit w 475
def puNtab (w : Word512) : Nat := fld w 474 466
def puTag (w : Word512) : Nat := fld w 463 432
def puEta (w : Word512) : Nat := fld w 431 400
def puGscale (w : Word512) : Nat := fld w 399 368
def puTagaddr (w : Word512) : Nat := fld w 367 320

/-- FP32 encodings that are neither infinite nor NaN. -/
def finite32 (x : Nat) : Bool := x % 2 ^ 31 < 0x7F800000

/-! ### Coefficient tables (12 Table 12-3) -/

/-- Coefficient field `k` of a table, from ALPHA1 down to CLIPV. -/
def ctField (t : Word512) (k : Nat) : Nat := natFld t.toNat (480 - 32 * k) 32
def ctEps (t : Word512) : Nat := ctField t 4
def ctClipv (t : Word512) : Nat := ctField t 9
def ctClip (t : Word512) : Bool := bit t 2
def ctPow1 (t : Word512) : Bool := bit t 1
def ctBiasc (t : Word512) : Bool := bit t 0

/-- A value in [0, 1). -/
def unit32 (x : Nat) : Bool := isZero32 x || (x < one32)

/-- The first reason for rejecting a coefficient table, or 0 (12 Table 12-4). -/
def tableReason (t : Word512) : Nat :=
  if !((List.range 10).all fun k => finite32 (ctField t k)) then 1
  else if (ctEps t).testBit 31 && !isZero32 (ctEps t) then 2
  else if (ctClip t && ((ctClipv t).testBit 31 || isZero32 (ctClipv t))) || (!ctClip t && !isZero32 (ctClipv t)) then 3
  else if ctBiasc t && !(unit32 (ctField t 0) && unit32 (ctField t 2)) then 4
  else if fld t 191 3 ≠ 0 then 5
  else 0

/-! ### Commands -/

def puuAgent (cl : Nat) : Agent := .puu ⟨cl % 4, Nat.mod_lt _ (by decide)⟩
def puuWho (n cl : Nat) : Who := ⟨.program, 6, srcBytes n 0xFF (0x14 + cl)⟩

def Hw.updPcmd (h : Hw) (n cl id : Nat) (f : PCmd → PCmd) : Hw :=
  h.updPuu n cl fun p => { p with queue := p.queue.map fun c => if c.id = id then f c else c }

/-- The PUU stops at its granule (12:R260). -/
def Hw.puuStops (h : Hw) (n cl : Nat) (c : PCmd) (s : Stop) : Hw :=
  if s = .wait then h
  else
    let r := h.stopAgent n (puuAgent cl) (puuInfo (h.cx n) cl c) c.stall s
    r.2.updPcmd n cl c.id fun k => { k with stall := r.1 }

/-- The PUU has got past a granule of a command. -/
def Hw.puuPast (h : Hw) (n cl : Nat) (c : PCmd) (f : PCmd → PCmd) : Hw :=
  (h.faultPast n (puuAgent cl) (puuInfo (h.cx n) cl c) c.stall).updPcmd n cl c.id fun k => { f k with stall := .run }

/-- The command at the head has been finished with: its item has completed (12:R257, 15:R320). -/
def Hw.puuEnds (h : Hw) (n cl : Nat) (c : PCmd) : Hw :=
  let h := h.updPuu n cl fun p => { p with queue := p.queue.filter fun k => k.id != c.id }
  let h := h.itemDone n c.stream.val 0 true
  h.release n

/-- The PUU, which stands as the command's stall says, may go on. -/
def Hw.puuRuns (h : Hw) (n cl : Nat) (c : PCmd) : Bool := h.agentsRun n && h.mayRun n (79 + cl) c.stall

/-- The record of the command at the head, read when the command starts. -/
def Hw.puuHead (h : Hw) (n cl : Nat) : Option (PCmd × Word512) × Hw :=
  match (h.puu n cl).queue with
  | [] => (none, h)
  | c :: _ =>
    if !h.puuRuns n cl c then (none, h)
    else match c.rcd with
      | some w => (some (c, w), h)
      | none =>
        match h.vaRead n c.addr 64 (puuWho n cl) with
        | .error s => (none, h.puuStops n cl c s)
        | .ok r =>
          let w : Word512 := BitVec.ofNat 512 (leNat r.1)
          let c' := { c with rcd := some w, stall := .run }
          (some (c', w), r.2.puuPast n cl c fun _ => c')

/-- Reserved or unused fields are not zero. -/
def puFieldsBad (w : Word512) : Bool :=
  let op := puOp w
  op = 0 || 3 < op || fld w 465 464 ≠ 0 || fld w 319 0 ≠ 0 || (op = 2 && fld w 507 484 ≠ 0) || (op = 3 && fld w 495 476 ≠ 0) ||
    (op = 2 && puTagchk w) || (op ≠ 2 && puNtab w ≠ 0) || (op ≠ 1 && fld w 463 368 ≠ 0) ||
    (op = 1 && !puTagchk w && puTagaddr w ≠ 0) || (op = 3 && puTagaddr w ≠ 0)

/-- The reason for refusing a command, or 0 (12 Table 12-2). -/
def Hw.puuReason (h : Hw) (n cl : Nat) (w : Word512) : Nat :=
  let x := h.cx n
  let p := x.slot (puPslot w)
  let g := x.slot (puGslot w)
  let t := ((h.puu n cl).tables.find? fun e => e.1 == puTable w).map (·.2)
  let gf := dsFormat g
  if puFieldsBad w then 1
  else if puOp w = 1 then
    if dsKind p ≠ 1 || dsLayout p ≠ 1 || dsFormat p ≠ 1 || dsRank p ≠ 3 || dsSize p 0 ≠ 3 || !dsWrite p || dsAcc p || dsCompw p ||
        dsTrans p || dsWinen p then 2
    else if dsKind g ≠ 1 || dsLayout g ≠ 1 || dsRank g ≠ 2 || !(gf == 1 || fmtIsBxi gf) || dsTrans g ||
        dsSize g 0 ≠ dsSize p 1 || dsSize g 1 ≠ dsSize p 2 then 3
    else if dsAbase p < dsAbase g + dsAlen g && dsAbase g < dsAbase p + dsAlen p then 4
    else if x.coef ≤ puTable w || t.isNone then 5
    else if (fmtIsBxi gf && !puTagchk w) || puTagaddr w % 8 ≠ 0 then 6
    else if puTag w = 0 && t.any ctBiasc then 7
    else if !finite32 (puEta w) || !finite32 (puGscale w) then 8
    else 0
  else if puOp w = 2 then
    (if puNtab w = 0 || x.coef < puTable w + puNtab w || puTagaddr w % 64 ≠ 0 then 9 else 0)
  else 0

/-- A refused command changes nothing (12:R258). -/
def Hw.puuRefuse (h : Hw) (n cl : Nat) (c : PCmd) (reason : Nat) : Hw :=
  ((h.updPuu n cl fun p => { p with lastref := BitVec.ofNat 8 reason }).raiseDie n 0x0A01 0xFF (0x14 + cl) reason).puuEnds n cl c

/-! ### The recurrence (12:R263) -/

/-- pow(a, t) over the bits of a tag from bit `b - 1` down. -/
def puuPow (a t : Nat) : Nat → Nat → Nat
  | 0, r => r
  | b + 1, r =>
    let r := fmul r r
    puuPow a t b (if t.testBit b then fmul r a else r)

/-- What a command computes once: k, b1, b2. -/
structure PuuK where
  k : Nat
  b1 : Nat
  b2 : Nat
  deriving DecidableEq, Repr

def puuOnce (t w : Word512) : PuuK :=
  let bias (a : Nat) : Nat := fdiv one32 (fsub one32 (puuPow a (puTag w) 32 one32))
  ⟨ffma (fneg (ctField t 8)) (puEta w) one32, if ctBiasc t then bias (ctField t 0) else one32,
    if ctBiasc t then bias (ctField t 2) else one32⟩

/-- One parameter: p, m, v after the step, from its gradient element as FP32 (12:R263, R264). -/
def puuStep (t w : Word512) (k : PuuK) (p m v g : Nat) : Nat × Nat × Nat :=
  let a1 := ctField t 0
  let be1 := ctField t 1
  let a2 := ctField t 2
  let be2 := ctField t 3
  let adapt := ctField t 5
  let sgd := ctField t 6
  let mom := ctField t 7
  let g := fmul g (puGscale w)
  let g := if ctClip t then fmin (fmax g (fneg (ctClipv t))) (ctClipv t) else g
  let m := if !isZero32 adapt || !isZero32 mom then ffma a1 m (fmul be1 g) else m
  let q := if ctPow1 t then fabs g else fmul g g
  let v := if !isZero32 adapt then ffma a2 v (fmul be2 q) else v
  let u := if !isZero32 adapt then fmul adapt (fdiv (fmul m k.b1) (fadd (fsqrt (fmul v k.b2)) (ctEps t))) else 0
  let u := if !isZero32 sgd then ffma sgd g u else u
  let u := if !isZero32 mom then ffma mom m u else u
  (ffma (fneg (puEta w)) u (fmul p k.k), m, v)

/-! ### Granules (12:R259, R260) -/

/-- Tile positions of a shard. -/
def puuGrid (p : Word512) : Nat × Nat := (tilesOf (dsSize p 1), tilesOf (dsSize p 2))

/-- Pages of an access are translated before anything is read. -/
def touchPages (e : GEnv) (va len access : Nat) : GM Unit :=
  (pagesOfRange va len).forM fun p => GM.lift fun h => do
    let _ ← h.walk e.n e.root p.1 access
    pure ((), h)

/-- One granule: its tiles, the step for each parameter in the box, three sealed tiles; a buffered value whose key is in `bad` is the canonical NaN
(12:R270). True: a value written is not finite. -/
def puuGranule (e : GEnv) (pD gD t w : Word512) (k : PuuK) (bad : List Nat) (i : Nat) : GM Bool := do
  let r0 := 64 * (i / (puuGrid pD).2)
  let c0 := 64 * (i % (puuGrid pD).2)
  let slot (c : Nat) : Nat := (tilePlace pD [c, r0, c0]).1
  let gslot := (tilePlace gD [r0, c0]).1
  let gf := dsFormat gD
  touchPages e gslot (tileStored gf) 1
  (List.range 3).forM fun c => do
    touchPages e (slot c) (tileStored 1) 1
    touchPages e (slot c) (tileStored 1) 2
  let g ← rdTile e gf gslot
  let p ← rdTile e 1 (slot 0)
  let m ← rdTile e 1 (slot 1)
  let v ← rdTile e 1 (slot 2)
  let els : List (Option (Nat × Nat × Nat)) := (List.range 4096).map fun x =>
    let r := x / 64
    let c := x % 64
    if r0 + r < dsSize pD 1 && c0 + c < dsSize pD 2 then
      let ge := tileEl gf g r c
      let buf (comp raw : Nat) : Nat := if bad.contains (4096 * comp + x) then nan32 else raw
      some (puuStep t w k (buf 0 (tileEl 1 p r c).raw) (buf 1 (tileEl 1 m r c).raw) (buf 2 (tileEl 1 v r c).raw)
        (buf 3 (if gf = 1 then ge.raw else toF32 (elVal gf ge))))
    else none
  let sealed (f : Nat × Nat × Nat → Nat) : List Byte := tileSeal 1 (puTag w % 256) false (packElems 1 (els.map fun x => (x.map f).getD 0))
  wrBytes e (slot 0) (sealed fun x => x.1)
  wrBytes e (slot 1) (sealed fun x => x.2.1)
  wrBytes e (slot 2) (sealed fun x => x.2.2)
  pure (els.any fun x => x.any fun y => !(finite32 y.1 && finite32 y.2.1 && finite32 y.2.2))

def Hw.puuEnv (h : Hw) (n cl : Nat) (c : PCmd) : GEnv := ⟨n, (h.cx n).root, puuWho n cl, c.stall.rereadsOf⟩

/-- Granules in order, up to a stop. -/
def Hw.updateFrom (n cl id : Nat) (t w : Word512) (k : PuuK) : Nat → Hw → Hw
  | 0, h => h
  | fuel + 1, h =>
    match (h.puu n cl).queue.find? fun c => c.id == id with
    | none => h
    | some c =>
      if (puuGrid c.pD).1 * (puuGrid c.pD).2 ≤ c.next then h
      else
        let bad := (h.puu n cl).badBuf
        match (puuGranule (h.puuEnv n cl c) c.pD c.gD t w k bad c.next).run { h := h } with
        | .error s => h.puuStops n cl c s
        | .ok r =>
          let h := r.2.h.puuPast n cl c fun c => { c with next := c.next + 1 }
          let h := h.updPuu n cl fun p => { p with done := BitVec.ofNat 28 (satInc (2 ^ 28 - 1) p.done.toNat), badBuf := [] }
          let h := h.count (ctrDie n 128) 1 .program 6 (srcBytes n 0xFF (0x14 + cl))
          let h := if bad.isEmpty then h else h.raiseOnce n 0x0A06 0xFF (0x14 + cl)
          Hw.updateFrom n cl id t w k fuel (if r.1 then h.raiseOnce n 0x0A05 0xFF (0x14 + cl) else h)

/-- A command that is not applied is counted (22 Table 22-1 group 14). -/
def Hw.puuNotApplied (h : Hw) (n cl : Nat) (c : PCmd) : Hw :=
  (h.count (ctrDie n 129) 1 .program 6 (srcBytes n 0xFF (0x14 + cl))).puuEnds n cl c

/-- An update starts: it is validated with its slots as they stand, which it keeps, and is then the last update that CD_PUU_STAT shows (12:R258, R269,
06:R136). -/
def Hw.updateBegin (h : Hw) (n cl : Nat) (c : PCmd) (w : Word512) : Option PCmd × Hw :=
  if c.begun then (some c, h)
  else
    let r := h.puuReason n cl w
    if r ≠ 0 then (none, h.puuRefuse n cl c r)
    else
      let x := h.cx n
      let c := { c with begun := true, pD := x.slot (puPslot w), gD := x.slot (puGslot w) }
      let h := h.updPuu n cl fun p => { p with done := 0, table := BitVec.ofNat 8 (puTable w), pslot := BitVec.ofNat 12 (puPslot w) }
      let h := h.updPcmd n cl c.id fun _ => c
      if x.holds.contains (puPslot w) then (none, (h.raiseOnce n 0x0A03 0xFF (0x14 + cl)).puuNotApplied n cl c)
      else (some c, h)

/-- The tag word is read once, before the first granule; a word that does not match holds the slot (12:R266). -/
def Hw.updateTag (h : Hw) (n cl : Nat) (c : PCmd) (w : Word512) : Option PCmd × Hw :=
  if c.tagged then (some c, h)
  else if !puTagchk w then
    let c' := { c with tagged := true }
    (some c', h.updPcmd n cl c.id fun _ => c')
  else match h.vaRead n (puTagaddr w) 8 (puuWho n cl) with
    | .error s => (none, h.puuStops n cl c s)
    | .ok r =>
      let tag := leNat r.1
      let c' := { c with tagged := true, stall := .run }
      let h := r.2.puuPast n cl c fun _ => c'
      if tag.testBit 63 && tag % 2 ^ 32 = puTag w then (some c', h)
      else
        let h := h.updCx n fun x => { x with holds := puPslot w :: x.holds, lastHeld := BitVec.ofNat 12 (puPslot w) }
        (none, (h.raiseDie n 0x0A02 0xFF (0x14 + cl) (puPslot w) (puTag w * 2 ^ 32 + tag % 2 ^ 32)).puuNotApplied n cl c)

/-- The table of a command; a coefficient of bad parity reads as the canonical NaN (12:R270). -/
def Puu.tableOf (p : Puu) (k : Nat) : Word512 :=
  p.badTables.foldl (fun t i => if i / 10 = k then setFld t (511 - 32 * (i % 10)) (480 - 32 * (i % 10)) nan32 else t) (alGet 0 p.tables k)

/-- A coefficient of a table has bad parity. -/
def Puu.tableBad (p : Puu) (k : Nat) : Bool := p.badTables.any fun i => i / 10 == k

/-- The granules of an update, in order, up to a stop; with the last it ends. -/
def Hw.updateRun (h : Hw) (n cl : Nat) (c : PCmd) (w : Word512) : Hw :=
  let p := h.puu n cl
  let t := p.tableOf (puTable w)
  let h := if p.tableBad (puTable w) then h.raiseOnce n 0x0A06 0xFF (0x14 + cl) else h
  let total := (puuGrid c.pD).1 * (puuGrid c.pD).2
  let h := Hw.updateFrom n cl c.id t w (puuOnce t w) (total - c.next) h
  if ((h.puu n cl).queue.find? fun k => k.id == c.id).any fun k => total ≤ k.next then h.puuEnds n cl c else h

/-- The update at the head runs; a command with a reserved OP is refused here. -/
def Hw.puuUpdate (h : Hw) (n cl : Nat) : Hw :=
  match h.puuHead n cl with
  | (none, h) => h
  | (some (c, w), h) =>
    if puOp w = 2 || puOp w = 3 then h
    else match h.updateBegin n cl c w with
      | (none, h) => h
      | (some c, h) => match h.updateTag n cl c w with
        | (none, h) => h
        | (some c, h) => h.updateRun n cl c w

/-- PUU_UPDATE (12:R263). -/
def execPuuUpdate (d : Fin 16) (cl : Fin 4) (s : State) : Out := .next (s.onHw fun h => h.puuUpdate d.val cl.val)

/-- A command that applies no granule is the last one (12 Table 12-6). -/
def Hw.puuDone0 (h : Hw) (n cl : Nat) : Hw := h.updPuu n cl fun p => { p with done := 0 }

/-- Table records in order, up to a stop (12:R262). -/
def Hw.coefFrom (n cl id : Nat) (w : Word512) : Nat → Hw → Hw
  | 0, h => h
  | fuel + 1, h =>
    match (h.puu n cl).queue.find? fun c => c.id == id with
    | none => h
    | some c =>
      if puNtab w ≤ c.next then h
      else match h.vaRead n (puTagaddr w + 64 * c.next) 64 (puuWho n cl) with
        | .error s => h.puuStops n cl c s
        | .ok r =>
          let t : Word512 := BitVec.ofNat 512 (leNat r.1)
          let k := puTable w + c.next
          let h := r.2.puuPast n cl c fun c => { c with next := c.next + 1 }
          Hw.coefFrom n cl id w fuel (
            if tableReason t ≠ 0 then h.raiseDie n 0x0A04 0xFF (0x14 + cl) k (tableReason t)
            else h.updPuu n cl fun p => { p with tables := alPut p.tables k t, badTables := p.badTables.filter fun i => i / 10 != k })

/-- The coefficient load at the head runs. -/
def Hw.puuCoef (h : Hw) (n cl : Nat) : Hw :=
  match h.puuHead n cl with
  | (none, h) => h
  | (some (c, w), h) =>
    if puOp w ≠ 2 then h
    else
      let r := if c.next = 0 then h.puuReason n cl w else 0
      if r ≠ 0 then h.puuRefuse n cl c r
      else
        let h := Hw.coefFrom n cl c.id w (puNtab w - c.next) (if c.next = 0 then h.puuDone0 n cl else h)
        if ((h.puu n cl).queue.find? fun k => k.id == c.id).any fun k => puNtab w ≤ k.next then h.puuEnds n cl c else h

/-- PUU_COEF_LOAD (12:R262). -/
def execPuuCoefLoad (d : Fin 16) (cl : Fin 4) (s : State) : Out := .next (s.onHw fun h => h.puuCoef d.val cl.val)

/-- The release at the head runs (12:R267). -/
def Hw.puuRelease (h : Hw) (n cl : Nat) : Hw :=
  match h.puuHead n cl with
  | (none, h) => h
  | (some (c, w), h) =>
    if puOp w ≠ 3 then h
    else
      let r := h.puuReason n cl w
      if r ≠ 0 then h.puuRefuse n cl c r
      else
        ((h.puuDone0 n cl).updCx n fun x => { x with holds := if puTagchk w then [] else x.holds.filter (· != puPslot w) }).puuEnds n cl c

/-- PUU_RELEASE_HOLD (12:R267). -/
def execPuuReleaseHold (d : Fin 16) (cl : Fin 4) (s : State) : Out := .next (s.onHw fun h => h.puuRelease d.val cl.val)

end Sys2Proof.Machine
end

