-- ==== Sys2Proof/Machine/HostDma.lean ====
section
/-! DEFINITION. Host transfers: DMA FORM 0 and FORM 1 on the host DMA engines (18:R387, R390, R493). -/

namespace Sys2Proof.Machine

/-- Host DMA work, for the counters. -/
def hostWho : Who := ⟨.driver, 11, srcBytes 99 0xFF 0x61⟩

/-- RESULT of a transfer that fails: the address and the granules completed. -/
def dmaResult (addr done : Nat) : Nat := put addr 192 64 + put done 160 32

/-- One granule is done, for the hub's counters (22 Table 22-1 group 26). -/
def Hw.countHost (h : Hw) (bytes : Nat) : Hw := (h.countHub 32 bytes .driver 0x61).countHub 33 1 .driver 0x61

/-! ### FORM 0 (18 Table 18-12) -/

def dfDir (w : Word512) : Nat := fld w 383 382
def dfBytes (w : Word512) : Nat := 64 * fld w 367 336
def dfHost (w : Word512) : Nat := fld w 335 272
def dfSstk (w : Word512) : Nat := fld w 381 378
def dfDstk (w : Word512) : Nat := fld w 377 374
def dfSoff (w : Word512) : Nat := 64 * fld w 271 240
def dfDoff (w : Word512) : Nat := 64 * fld w 239 208

/-- Granules of 4 KiB. -/
def dfGranules (w : Word512) : Nat := (dfBytes w + 4095) / 4096

/-- A stack that the copy names cannot be used. -/
def Hw.flatOff (h : Hw) (w : Word512) : Bool :=
  (dfDir w ≠ 0 && h.stkUnavailable (dfSstk w)) || (dfDir w ≠ 1 && h.stkUnavailable (dfDstk w))

/-- One granule of a flat copy. -/
def Hw.flatGranule (h : Hw) (w : Word512) (g : Nat) : Except Stop Hw :=
  let o := 4096 * g
  let n := min 4096 (dfBytes w - o)
  match dfDir w with
  | 0 => if h.host.bme then h.stkWrite (dfDstk w) (dfDoff w + o) (h.host.mem.readN (dfHost w + o) n) hostWho else .error .wait
  | 1 => do
    let r ← h.stkRead (dfSstk w) (dfSoff w + o) n hostWho
    if h.host.bme then .ok (r.2.onHost fun x => { x with mem := x.mem.writeN (dfHost w + o) r.1 }) else .error .wait
  | _ => do
    let r ← h.stkRead (dfSstk w) (dfSoff w + o) n hostWho
    r.2.stkWrite (dfDstk w) (dfDoff w + o) r.1 hostWho

/-- Granules from `g` on, while they can be done. -/
def Hw.flatRun (id : Nat) (w : Word512) : Nat → Nat → Hw → Hw
  | 0, _, h => h.complete id ⟨0, 0, 0, 0⟩
  | left + 1, g, h =>
    match h.flatGranule w g with
    | .ok h => Hw.flatRun id w left (g + 1) (h.countHost (min 4096 (dfBytes w - 4096 * g)))
    | .error _ => h.updCmd id fun c => { c with work := .flat g }

/-- A flat copy goes on from its granule. -/
def Hw.flatFrom (h : Hw) (c : Cmd) (g : Nat) : Hw :=
  if h.flatOff c.w then h.complete c.id ⟨0xB, 0, 0, 0⟩ else Hw.flatRun c.id c.w (dfGranules c.w - g) g h

def runDmaFlat : Run := fun c s => s.onHw fun h => (h.updCmd c.id fun c => { c with work := .flat 0 }).flatFrom c 0

/-- DMA_FLAT (18:R387). -/
def execDmaFlat (q : Fin 64) (w : Word512) (s : State) : Out := .next (hostCmd 4 0 runDmaFlat q w s)

/-! ### FORM 1 -/

/-- The transfer as the table has it at its start (18:R387, 06:R136). -/
def hostXfer (look : Nat → Word512) (id slot : Nat) : Xfer :=
  let t := look slot
  let srcD := if tfSkind t = 0 then look (tfSrc t) else 0
  let dstD := if tfDkind t = 0 then look (tfDst t) else 0
  { id := id, stream := 0, item := 0, core := 0, rank := 0, rcd := t, srcD := srcD, dstD := dstD
    lst := if tfList t = 0xFFF then 0 else look (tfList t)
    win := if tfDkind t = 0 && dsWinen dstD then look (dsWinslot dstD) else 0
    origin := (List.range (dsRank (tfMem t srcD dstD))).map (tfOrigin t)
    sp := 64 * tfSpaddr t
    snap := [], snapGuards := [], next := 0, total := 0, stall := .run, dropped := false, chained := false, ack := none }

def Hw.updHostX (h : Hw) (id : Nat) (f : Xfer → Xfer) : Hw :=
  h.onChip fun c => { c with hostX := c.hostX.map fun e => if e.cmd = id then { e with x := f e.x } else e }

def Hw.dropHostX (h : Hw) (id : Nat) : Hw := h.onChip fun c => { c with hostX := c.hostX.filter fun e => e.cmd != id }

/-- The context that uses a save area, resident or saved. -/
def Hw.userOf (h : Hw) (n off : Nat) : Option Ctx :=
  h.chip.ctxs.find? fun c => c.ents.any fun e => e.die.val == n && e.saveOff.toNat == off

/-- The transfer has ended: DSEM of its die is signalled, live or saved, and the command completes. -/
def Hw.hostDone (h : Hw) (e : HostX) (off : Nat) : Hw :=
  let h := h.dropHostX e.cmd
  let h := if tfDsemen e.x.rcd then
      match h.userOf e.die.val off with
      | some c => h.semAdd c.num e.die.val (tfDsem e.x.rcd) 1 255
      | none => h
    else h
  h.complete e.cmd ⟨0, 0, 0, 0⟩

/-- Granules of a host transfer, while they can be done; a fault ends the command with no fault record. -/
def Hw.hostGo (id off : Nat) (root : Root) : Nat → Hw → Hw
  | 0, h => h
  | left + 1, h =>
    match h.chip.hostX.find? fun e => e.cmd == id with
    | none => h
    | some e =>
      let x := e.x
      let n := e.die.val
      if x.total ≤ x.next then (if h.validated n x then h.hostDone e off else h)
      else if !x.stall.ready || h.shadowBusy n x then h
      else
        match (x.granule ⟨n, root, hostWho, x.stall.rereadsOf⟩).run { h := h } with
        | .ok r =>
          let h := (r.2.h.countDrops n 0x61 r.2.dropped r.2.withheld hostWho).countHost x.granuleBytes
          Hw.hostGo id off root left (h.updHostX id fun t => { t with next := t.next + 1, stall := .run })
        | .error (.fault va _ _ _) => (h.dropHostX id).complete id ⟨8, 0, 0, dmaResult va x.next⟩
        | .error (.burst s b) => h.updHostX id fun t => { t with stall := .burst s b }
        | .error (.tile k a f) => h.updHostX id fun t => { t with stall := .tile k a f t.stall.rereadsOf }
        | .error .wait => h

/-- A host transfer goes on, if nothing holds it. -/
def Hw.hostFrom (h : Hw) (e : HostX) : Hw :=
  let off := ((h.cmd? e.cmd).map fun c => fld c.w 359 344).getD 0
  let root := ((h.header e.die.val off).map hdRoot).getD ⟨0, 0⟩
  Hw.hostGo e.cmd off root (e.x.total - e.x.next + 1) h

/-- Descriptor slots that a transfer record names, its own first. -/
def recordSlots (x : Xfer) (slot : Nat) : List Nat :=
  [slot] ++ (if tfSkind x.rcd = 0 then [tfSrc x.rcd] else []) ++ (if tfDkind x.rcd = 0 then [tfDst x.rcd] else []) ++
    (if tfList x.rcd = 0xFFF then [] else [tfList x.rcd]) ++
    (if tfDkind x.rcd = 0 && dsWinen x.dstD then [dsWinslot x.dstD] else [])

/-- The first burst that cannot be read of the header and of the entries that the record names. -/
def Hw.recordBad (h : Hw) (n off : Nat) (x : Xfer) (slot : Nat) : Option Nat :=
  (hdrOff off / 64 :: (recordSlots x slot).map fun i => (65536 * off + 64 * i) / 64).find? fun b => (h.stk n).burstBad b

/-- A host command runs a transfer record of a save area's table. -/
def Hw.dmaRecord (h : Hw) (c : Cmd) : Hw :=
  let n := fld c.w 383 376
  let off := fld c.w 359 344
  let h := h.wakeStk n hostWho
  let k := h.stk n
  let base := 65536 * off
  let x := hostXfer (k.tableEntry base) c.id (fld c.w 375 364)
  let dk := tfDkind x.rcd
  if h.stkUnavailable n then h.complete c.id ⟨0xB, 0, 0, 0⟩
  else match h.recordBad n off x (fld c.w 375 364) with
    | some b => h.cmdReread c.id n b
    | none =>
      if dsKind x.rcd ≠ 4 || tfSkind x.rcd ≠ 0 || !(dk == 0 || dk == 2 || dk == 4) || !x.usable then
        (h.raise ⟨0x0504, 99, 0xFF, 0x61, 0, 0, none⟩).complete c.id (refusal 4 0x0504)
      else if dk ≠ 0 && (h.residentAt n off).isNone then h.complete c.id ⟨0xB, 0, 0, 0⟩
      else
        -- the host's deliveries go through the tree as well, or in chain form (15:R325)
        let h := if dk = 0 then h else h.delivered n hostWho.priv hostWho.cls hostWho.src
        let e : HostX := ⟨c.id, ⟨n % 16, Nat.mod_lt _ (by decide)⟩, { x with total := x.granules, chained := dk ≠ 0 && (h.die n).mcFault }⟩
        let h := h.updCmd c.id fun d => { d with work := .rcd n c.id }
        (h.onChip fun y => { y with hostX := y.hostX ++ [e] }).hostFrom e

def runDmaRecord : Run := fun c s => s.onHw fun h => h.dmaRecord c

/-- DMA_TRANSFER_RECORD (18:R387). -/
def execDmaTransferRecord (q : Fin 64) (w : Word512) (s : State) : Out := .next (hostCmd 4 1 runDmaRecord q w s)

/-- Host transfers that waited go on: after a re-read, when Bus Master Enable returns, or when a table has been validated. -/
def Hw.hostPump (h : Hw) : Hw :=
  let h := h.chip.hostX.foldl (fun h e => h.hostFrom e) h
  h.host.cmds.foldl (fun h c => match c.work, c.wait with
    | .flat g, .running => h.flatFrom c g
    | _, _ => h) h

/-- TABLE_LOAD_VALIDATE (10:R223). -/
def execTableLoadValidate (d : Fin 16) (c : Fin 32) (bank : Fin 2) (reread : List Byte) (s : State) : Out :=
  .next (s.onHw fun h => (h.tableValidate d.val c.val bank.val reread).hostPump)

/-- The host command whose current granule meets a burst that cannot be read. -/
def Hw.hostAtBurst (h : Hw) (s b : Nat) : Option (Nat × Nat) :=
  match h.chip.hostX.find? fun e => e.x.stall == .burst s b with
  | some e => some (e.cmd, e.x.next)
  | none => h.host.cmds.findSome? fun c => match c.work with
    | .burst s' b' => if s' = s && b' = b then some (c.id, 0) else none
    | .flat g => match h.flatGranule c.w g with
      | .error (.burst s' b') => if s' = s && b' = b then some (c.id, g) else none
      | _ => none
    | _ => none

end Sys2Proof.Machine
end

