-- ==== Sys2Proof/Machine/MemRows.lean ====
section
/-! DEFINITION. Stack memory events: via test, scrub, re-reads of bursts and tiles, retention and off (13, 05:R127, R130). -/

namespace Sys2Proof.Machine

/-! ### Channels (13:R280-R283) -/

/-- The via test of one channel: spares steered in ascending position, the rest marked (13:R280). -/
def Hw.viaChan (h : Hw) (s c : Nat) (dead : List Nat) : Hw :=
  let sig := (List.range 68).filter dead.contains
  let spares := (List.range 2).filter fun k => !dead.contains (68 + k)
  let n := min sig.length spares.length
  let eras := sig.drop n
  let h := h.updChan s c fun _ =>
    ⟨chanSt eras.length, BitVec.ofNat 2 n, (eras.take 4).map (BitVec.ofNat 7), 0, 0, [], false⟩
  let h := if n = 0 then h else h.raiseChan s c 0x0B08
  if 4 < eras.length then h.failChan s c else if 2 < eras.length then h.raiseChan s c 0x0B03 else h

/-- The via test of a stack; a die whose channels are all below Failed is available again (13:R283). -/
def Hw.viaTest (h : Hw) (s : Nat) (vias : List ViaResult) : Hw :=
  let h := h.updStk s fun k => { k with chans := Vector.replicate 256 Chan.init }
  let h := h.updDie s fun d => { d with chFail := false }
  ((vias.filter fun v => v.stack.val == s).foldl (fun h v => h.viaChan s v.chan.val (v.dead.map (·.val))) h).updStk s
    fun k => k.relatent none

/-- STACK_OFF_EXIT (13:R287, Table 13-7): via test, then every burst is written as a zero codeword. -/
def execStackOffExit (s : Fin 16) (vias : List ViaResult) (st : State) : Out :=
  .next (st.onHw fun h =>
    if (h.stk s.val).mst != .off || (h.die s.val).unpowered || (h.die s.val).idFail then h
    else (h.updStk s.val fun k => { k with mst := .on, mem := [], bad := [], errs := [] }).viaTest s.val vias)

/-- STACK_WAKE_COMPLETE (13:R288). -/
def execStackWakeComplete (s : Fin 16) (st : State) : Out :=
  .next (st.onHw fun h => h.wakeStk s.val ⟨.firmware, 11, srcBytes 99 0xFF 0x63⟩)

/-! ### Patrol scrub (13:R281, R282, R286) -/

/-- Scrub reads, for the counters (22:R454). -/
def scrubWho (s c : Nat) : Who := ⟨.firmware, 11, srcBytes (memDie s c) (c % 64) 0x40⟩

/-- Scrub reads burst `b` of stack `s`, in which the symbols of `errs` are wrong by the given values besides its latent errors; what the decoder
corrects is written back. -/
def Hw.scrub (h : Hw) (s b : Nat) (errs : List (Nat × Nat)) : Hw :=
  let k := h.stk s
  let c := chanOf (64 * b)
  if k.mst != .on || k.scrub = 0 then h
  else
    let w := scrubWho s c
    let h := h.count (ctrDie s 164) 64 w.priv w.cls w.src
    let err := k.errsWith b errs
    match (if k.bad.contains b || k.chanFailed (64 * b) then none else rsDecode (k.erasOf b) err) with
    | none =>
      ((h.updStk s fun k => { k with bad := if k.bad.contains b || err.isEmpty then k.bad else k.bad ++ [b] }).updChan s c
        fun k => k.decodedAs []).raiseChan s c 0x0B07
    | some fix =>
      -- a pattern beyond capacity may decode to another codeword, which is what stands there from now on (13:R279)
      (h.updStk s fun k => { k with mem := k.mem.flip b (rsNet err fix), errs := k.errs.filter fun e => e.1 != b }).corrected s b fix w

/-- Symbol errors as numbers. -/
def symErrs (l : List (Fin 68 × Byte)) : List (Nat × Nat) := l.map fun e => (e.1.val, e.2.toNat)

/-- Symbol errors that have arisen in bursts of a stack, since no row of their own reports them (log 68, DESIGN CHOICE). -/
def Hw.arisen (h : Hw) (s : Nat) (l : List (Nat × List (Nat × Nat))) : Hw :=
  h.updStk s fun k => if k.mst = .off then k else l.foldl (fun k e => k.arise e.1 e.2) k

/-- PATROL_SCRUB_READ (13:R286). -/
def execPatrolScrubRead (s : Fin 16) (burst : Fin 67108864) (errs : ScrubFind) (st : State) : Out :=
  .next (st.onHw fun h => (h.arisen s.val (errs.arisen.map fun a => (a.1.val, symErrs a.2))).scrub s.val burst.val (symErrs errs.errs))

/-! ### Re-reads (13:R284, Table 13-4, 05:R127) -/

/-- An agent of a context fails for good at a burst or tile: the first code goes into the completion (18 Table 18-8). -/
def Hw.agentLost (h : Hw) (n : Nat) (a : Agent) (code : Nat) (seq : Word64) : Hw :=
  let h := match (h.die n).owner with
    | some num => h.updCtx num fun c => if c.stopCode = 0 then { c with stopCode := BitVec.ofNat 16 code, stopSeq := seq } else c
    | none => h
  h.failAgent n a

/-- The first index whose active issue waits for a re-read. -/
def Hw.redWaiting (h : Hw) (p : Stall → Bool) : Option Nat :=
  (List.range 256).find? fun g => (h.group g).issues.any fun i => p i.stall

/-- The loader gives its load up: the bank stays invalid (13 Table 13-4). -/
def Hw.loadLost (h : Hw) (n : Nat) : Hw :=
  match (h.cx n).loads.find? fun l => l.started with
  | none => h
  | some l => h.loadEnds n l id

/-- Commands that wait for the re-read of a burst, as they came. -/
def Hw.cmdsAt (h : Hw) (s b : Nat) : List Cmd := h.host.cmds.filter fun c => c.work == .burst s b

/-- A command that waited for a re-read goes on from its beginning: it has changed nothing. -/
def Hw.cmdAgain (h : Hw) (c : Cmd) : Hw :=
  let h := h.updCmd c.id fun d => { d with work := .none }
  match cmOpcode c.w, cmForm c.w with
  | 3, _ => h.resume c
  | 4, _ => h.dmaRecord c
  | 5, 0 => h.mapCmd .leaves c
  | 5, _ => h.mapCmd .pointer c
  | 6, _ => h.mapCmd .unmap c
  | 7, _ => h.descCreate c
  | 8, _ => h.descDestroy c
  | _, _ => h

/-- A command whose burst persists uncorrectable ends (13 Table 13-4): status 0x3 for a resumption, a data error for the others. -/
def Hw.cmdLost (h : Hw) (s b : Nat) (c : Cmd) : Hw :=
  if cmOpcode c.w = 3 then h.resumeLost c s b
  else (h.raiseUE s b 99 (if cmOpcode c.w = 4 then 0x61 else 0x67) none).complete c.id
    ⟨7, 0, 0x0B04, if cmOpcode c.w = 4 then dmaResult (64 * b) 0 else 0⟩

/-- The burst decodes on its re-read: it is data again unless its channel has failed. -/
def Hw.burstOk (h : Hw) (s b : Nat) : Hw := h.updStk s fun k => { k with bad := k.bad.filter (· != b), errs := k.errs.filter fun e => e.1 != b }

/-- A source of a reduction cannot be read: the issue aborts (17 Table 17-7). -/
def Hw.redLost (h : Hw) (p : Stall → Bool) : Hw :=
  match h.redWaiting p with
  | none => h
  | some g => match (h.group g).issues.find? fun i => p i.stall with
    | none => h
    | some i => h.redAbort g i.k 0x0F08

/-- The reduction goes on with its source. -/
def Hw.redAgain (h : Hw) (p : Stall → Bool) (st : Stall) : Hw :=
  match h.redWaiting p with
  | none => h
  | some g => match (h.group g).issues.find? fun i => p i.stall with
    | none => h
    | some i => (h.updIssue g i.k fun i => { i with stall := st }).redNext (h.redChan g)

/-- The reader waits for the re-read of this burst. -/
def Hw.atBurst (h : Hw) (n s b : Nat) (a : Agent) : Bool :=
  match a with
  | .hostDma => (h.hostAtBurst s b).isSome
  | .reduction g => (h.group g.val).issues.any fun i => i.stall == .burst s b
  | .waypoint => (h.chip.takes.any fun t => t.st == .copy) && (h.stk s).burstBad b
  | _ => (h.die n).owner.isSome && (h.cx n).stallOf a == .burst s b

/-- Source of a re-read's condition. -/
def Hw.rereadDie (h : Hw) (n : Nat) (a : Agent) : Nat :=
  match a with | .hostDma => 99 | .waypoint => 99 | .reduction g => linkDie (h.redPort g.val) | _ => n

/-- Engine of a re-read's condition. -/
def Hw.rereadEng (h : Hw) (n : Nat) (a : Agent) : Nat :=
  match a with
  | .xfer _ => (agentInfo (h.die n) a).eng
  | .reduction g => 0x50 + h.redPort g.val % 16
  | _ => agentEngine a

/-- Host transfers that waited at `a` go on from `b`. -/
def Hw.hostXStall (h : Hw) (a b : Stall) : Hw :=
  let f := fun (e : HostX) => if e.x.stall == a then { e with x := { e.x with stall := b } } else e
  h.onChip fun c => { c with hostX := c.hostX.map f }

/-- The re-read of a burst returns. -/
def Hw.burstReread (h : Hw) (n s b : Nat) (a : Agent) (ok : Bool) : Hw :=
  if !h.atBurst n s b a then h
  else
    let eng := h.rereadEng n a
    let own := (h.die n).owner
    let cs := match a with | .hostDma => h.cmdsAt s b | _ => []
    if ok && !(h.stk s).chanFailed (64 * b) then
      let h := (h.raise ⟨0x0B05, h.rereadDie n a, 0xFF, eng, 0, 0, own⟩).burstOk s b
      match a with
      | .hostDma => (cs.foldl (fun h c => h.cmdAgain c) (h.hostXStall (.burst s b) .run)).hostPump
      | .reduction _ => h.redAgain (· == .burst s b) .run
      | .waypoint => h
      | _ => h.updCx n fun x => x.mapStall a fun _ => .run
    else
      if !cs.isEmpty then cs.foldl (fun h c => h.cmdLost s b c) h else
      let seq := h.host.seq
      let at_ := h.hostAtBurst s b
      let h := (h.raiseUE s b (h.rereadDie n a) eng own).count (ctrDie s 163) 1 .program 11 (srcBytes (h.rereadDie n a) 0xFF eng)
      match a with
      | .hostDma => match at_ with
        | some (id, g) => (h.dropHostX id).complete id ⟨7, 0, 0x0B04, dmaResult (64 * b) g⟩
        | none => h
      | .reduction _ => h.redLost (· == .burst s b)
      | .waypoint => (h.chip.takes.filter fun t => t.st == .copy).foldl (fun h t => h.takeAbort t.ctx 0x0B04 7 true) h
      | .loader => h.loadLost n
      | _ => h.agentLost n a 0x0B04 seq

/-- BURST_REREAD (13:R284). -/
def execBurstReread (d s : Fin 16) (burst : Fin 67108864) (agent : Agent) (ok : Bool) (st : State) : Out :=
  -- a resumption that goes on wakes the dies that it takes (19:R412)
  let nums := match agent with
    | .hostDma => ((st.hw.cmdsAt s.val burst.val).filter fun (c : Cmd) => cmOpcode c.w == 3).map fun (c : Cmd) => cmCtx c.w
    | _ => []
  .next (nums.foldl (fun t num => t.wakeDies num false) (st.onHw fun h => h.burstReread d.val s.val burst.val agent ok))

/-- The core's next word reads an unverified tile at this address that fails its check. -/
def Hw.coreAtTile (h : Hw) (n c addr : Nat) : Bool :=
  let k := (h.cx n).core c
  bit (h.die n).healthy c && match k.fifo with
    | [] => false
    | e :: _ =>
      let k := k.commit.commitPred
      !e.skipped && coreActive e.w c && (k.guardHits e.w).any fun g => g.base == addr && !k.guardOk g

/-- A core's tile verifies on its re-read and the word executes on what was read again, or the core stops before it at a split boundary (05:R127). -/
def Hw.coreTile (h : Hw) (n c addr : Nat) (data : List Byte) : Hw :=
  if !h.coreAtTile n c addr then h
  else if ((h.cx n).core c).guards.any fun g => g.base == addr && g.st == .unverified && data.length == g.size && tileVerify g.fmt data then
    let h := (h.raiseDie n 0x0B20 c 0x0A).updCore n c fun k => { k with
      spad := k.spad.writeN addr data
      guards := k.guards.map fun g => if g.base = addr && g.st == .unverified then { g with st := .verified } else g }
    ((Hw.runCore n c ((h.cx n).core c).fifo.length h).release n).unblocked n
  else
    let seq := h.host.seq
    ((h.raiseDie n 0x0B21 c 0x0A 0 addr).updCore n c fun k => { k with split := some k.step }).splitStop n 0x0B21 seq

/-- The bytes that a re-read returns verify for the reader (05:R124, R127, R130). -/
def rereadOk (at_ : TileAt) (fmt : Nat) (data : List Byte) : Bool :=
  match at_ with
  | .cbc => data.length == cbcSize fmt && cbcVerify fmt data
  | _ => tileVerify fmt data

/-- The tile at which a stall waits for a re-read from address `addr`. -/
def Stall.tileAt (s : Stall) (addr : Nat) : Option (TileAt × Nat × List Reread) :=
  match s with
  | .tile k a f l => if a = addr then some (k, f, l) else none
  | _ => none

/-- The stall of the agent of a die, host transfer or reduction that waits for the re-read of a tile. -/
def Hw.tileStall (h : Hw) (n : Nat) (a : Agent) (addr : Nat) : Option Stall :=
  match a with
  | .hostDma => (h.chip.hostX.find? fun e => (e.x.stall.tileAt addr).isSome).map (·.x.stall)
  | .reduction g => ((h.group g.val).issues.find? fun i => (i.stall.tileAt addr).isSome).map (·.stall)
  | _ => if (h.die n).owner.isSome && (((h.cx n).stallOf a).tileAt addr).isSome then some ((h.cx n).stallOf a) else none

/-- The re-read of a tile that an agent of a die, a reduction or the host DMA reads. -/
def Hw.agentTile (h : Hw) (n : Nat) (a : Agent) (addr : Nat) (data : List Byte) : Hw :=
  match h.tileStall n a addr with
  | none => h
  | some st => match st.tileAt addr with
    | none => h
    | some (k, fmt, got) =>
      let own := (h.die n).owner
      let eng := h.rereadEng n a
      if rereadOk k fmt data then
        let h := h.raise ⟨if k = .cbc then 0x0B22 else 0x0B20, h.rereadDie n a, 0xFF, eng, 0, 0, own⟩
        let go : Stall := .passed (got ++ [⟨k, addr, data⟩])
        match a with
        | .hostDma => (h.hostXStall st go).hostPump
        | .reduction _ => h.redAgain (· == st) go
        | _ => h.updCx n fun x => x.mapStall a fun _ => go
      else
        let seq := h.host.seq
        let code := if k = .cbc then 0x0B23 else 0x0B21
        let host := h.chip.hostX.find? fun e => e.x.stall == st
        let h := h.raise ⟨code, h.rereadDie n a, 0xFF, eng, 0, if k = .cbc then 0 else addr, own⟩
        match a with
        | .hostDma => match host with
          | some e => (h.dropHostX e.cmd).complete e.cmd ⟨7, 0, code, dmaResult addr e.x.next⟩
          | none => h
        | .reduction _ => h.redLost (· == st)
        | _ => h.agentLost n a code seq

/-- The re-read of a tile returns. -/
def Hw.tileReread (h : Hw) (n : Nat) (a : Agent) (addr : Nat) (data : List Byte) : Hw :=
  match a with
  | .core c => if (h.die n).owner.isSome then h.coreTile n c.val addr data else h
  | _ => h.agentTile n a addr data

/-- TILE_REREAD (05:R127). -/
def execTileReread (d : Fin 16) (agent : Agent) (addr : Nat) (data : List Byte) (s : State) : Out :=
  .next (s.onHw fun h => h.tileReread d.val agent addr data)

end Sys2Proof.Machine
end

