-- ==== Sys2Proof/Machine/PowerRows.lean ====
section
/-! DEFINITION. The commands of the power manager: tolerances, grants, windows, droop, heat, coolant, phases, idle states (19). -/

namespace Sys2Proof.Machine

/-! ### LAT_TOL (19:R411) -/

def ltTolus (w : Word512) : Word32 := BitVec.ofNat 32 (fld w 383 352)

def runLatTolDevice : Run := fun c s =>
  (s.onPower fun p => { p with tol := vupd p.tol 0 fun _ => ltTolus c.w }).complete c.id ⟨0, 0, 0, 0⟩

def runLatTolRole : Run := fun c s =>
  (s.onPower fun p => { p with tol := vupd p.tol (fld c.w 351 349) fun _ => ltTolus c.w }).complete c.id ⟨0, 0, 0, 0⟩

def runLatTolContext : Run := fun c s =>
  let t := ltTolus c.w
  (s.onHw fun h => h.updCtx (cmCtx c.w) fun k => { k with tol := if t = tolNone then none else some t }).complete c.id ⟨0, 0, 0, 0⟩

/-- LAT_TOL_DEVICE (19:R411). -/
def execLatTolDevice (q : Fin 64) (w : Word512) (s : State) : Out := .next (hostCmd 0xC 0 runLatTolDevice q w s)
/-- LAT_TOL_ROLE (19:R411). -/
def execLatTolRole (q : Fin 64) (w : Word512) (s : State) : Out := .next (hostCmd 0xC 1 runLatTolRole q w s)
/-- LAT_TOL_CONTEXT (19:R411). -/
def execLatTolContext (q : Fin 64) (w : Word512) (s : State) : Out := .next (hostCmd 0xC 2 runLatTolContext q w s)

/-! ### Grants (19:R395-R397) -/

def runPwrGrant : Run := fun c s =>
  s.offerGrant 2 (BitVec.ofNat 16 (fld c.w 383 368)) (BitVec.ofNat 16 (fld c.w 367 352)) (some c.id)

/-- PWR_GRANT (19:R396). -/
def execPwrGrant (q : Fin 64) (w : Word512) (s : State) : Out := .next (hostCmd 0xD 0 runPwrGrant q w s)

/-- GSRC code of an MCTP path (19 Table 19-3). -/
def pathCode : GrantPath → BitVec 2
  | .i3c => 0
  | .vdm => 1

/-- An MCTP message wakes a module in standby (19:R412). -/
def State.mctpWake (s : State) : State := s.wakeUnit .standby

/-- MCTP_GRANT_SET (19:R395). -/
def execMctpGrantSet (src : GrantPath) (grant gseq : BitVec 16) (s : State) : Out :=
  .next (if !s.mctpUp src then s
    else
      let s := s.mctpWake
      if s.hw.host.handover then s.holdGrant (pathCode src) grant gseq none else s.offerGrant (pathCode src) grant gseq none)

/-- MCTP_GRANT_REPORT_READ (19:R410). -/
def execMctpGrantReportRead (src : GrantPath) (s : State) : Out :=
  .next (if s.mctpUp src then s.mctpWake.onPower fun p => { p with reports := p.reports ++ [(src, p.report)] } else s)

/-- GRANT_LAPSE (19:R397): a grant in force has run out with none accepted after it. -/
def execGrantLapse (s : State) : Out :=
  let g := s.power.grant
  .next (if s.power.cfg.gtmo = 0 || !g.accepted || g.lapsed || g.next.isSome then s
    else
      let s := s.onPower fun p => { p with grant := { p.grant with grant := p.cfg.fsgrant, lapsed := true } }
      s.newCeiling.onHw fun h => h.raiseHub 0x1002 0x63)

/-- POWER_REPORT (19:R410). -/
def execPowerReport (s : State) : Out :=
  .next (match s.power.cfg.gsrc.toNat with
    | 0 => s.onPower fun p => { p with reports := p.reports ++ [(.i3c, p.report)] }
    | 1 => s.onPower fun p => { p with reports := p.reports ++ [(.vdm, p.report)] }
    | _ => s.onHw fun h => h.raiseHub 0x100A 0x63)

/-! ### Samples and windows (19:R398-R401, R409) -/

/-- The bands of VIN that are reported on entry (24:R474): 40–46 V and 58–60 V. -/
def vinBand (v : Nat) : Nat := if 400 ≤ v && v ≤ 460 then 1 else if 580 ≤ v && v ≤ 600 then 2 else 0

/-- VIN is read; entering a band is reported with VIN. -/
def State.setVin (s : State) (vin : BitVec 10) : State :=
  let was := vinBand s.power.mod.vin.toNat
  let now := vinBand vin.toNat
  let s := s.onPower fun p => { p with mod := { p.mod with vin := vin } }
  if now ≠ 0 && now ≠ was then s.onHw fun h => h.raiseHub 0x1401 0x63 0 vin.toNat else s

/-- POWER_SAMPLE (19:R398, R400): a sample above 1.15 × E limits the stacks until one is not. -/
def execPowerSample (watts : Nat) (vin : BitVec 10) (s : State) : Out :=
  let s := s.setVin vin
  .next (s.onPower fun p => { p with excess := decide (115 * p.grant.ceil.toNat < 100 * watts) }).repace

/-- The grant accepted last comes into force. -/
def Grant.window (g : Grant) : Grant :=
  match g.next with
  | some (w, q) => { g with grant := w, gseq := q, next := none }
  | none => g

/-- The setpoint of an occupied stack after a window of average `avg`. -/
def windowCode (p : Power) (n avg : Nat) : Nat :=
  let d := p.die n
  let e := p.grant.ceil.toNat
  let cur := d.vset.toNat
  let t := p.target n
  let low := min cur t
  if e < avg then (if cur = 0 then 0 else min low (Config.lowerTo avg e cur % cur))
  else if d.throttling || d.hot || d.recl then low
  else match rowAbove cur with
    | some r => if cur < t && avg + riseOf cur ≤ e then min t r.1 else low
    | none => low

/-- POWER_WINDOW (19:R396, R398, R400, R411). -/
def State.powerWindow (s : State) (avg peak : Nat) : State :=
  -- pacing that has lasted the whole window is reported once in a launch
  let told := (List.range 16).filter fun n =>
    let d := s.power.die n
    s.hw.occupied n && d.paced && d.pacedWin && !d.pacedTold
  let s := told.foldl (fun s n => (s.onHw fun h => h.raiseDie n 0x1004 0xFF 0x63).onPower fun p =>
    p.updDie n fun (d : PwrDie) => { d with pacedTold := true }) s
  let occ := (List.range 16).filter s.hw.occupied
  let codes0 := occ.all fun n => (s.power.die n).vset == 0
  let s := s.onPower fun p =>
    let p := { p with avg := BitVec.ofNat 16 (min 65535 avg), peak := BitVec.ofNat 16 (min 65535 peak), vinWin := p.mod.vin
                      grant := p.grant.window }
    { p with
      pacing := decide (p.ceiling < avg) && codes0
      reclaimw := if p.per.toList.any (·.recl) then BitVec.ofNat 16 (p.base - avg) else 0 }
  let s := s.newCeiling
  let s := s.onPower fun p => (List.range 16).foldl (fun q n =>
    q.updDie n fun d => d.setCode (if s.hw.occupied n then windowCode p n avg else 0)) p
  let s := s.repace.onPower fun p => { p with per := p.per.map fun d => { d with pacedWin := d.paced } }
  s.shutdownStep.wakeDeep

/-- POWER_WINDOW (19:R400). -/
def execPowerWindow (avg peak : Nat) (s : State) : Out := .next (s.powerWindow avg peak)

/-- Slack reclaim of one die after a window with this wait fraction in percent (19:R409). -/
def State.reclaim (s : State) (n waitPct : Nat) : State :=
  let p := s.power
  let d := p.die n
  if !p.cfg.reclaim || !s.hw.occupied n then s.onPower fun p => p.updDie n fun (d : PwrDie) => { d with recl := false }
  else
    let t := p.target n
    let cur := d.vset.toNat
    let code := if 10 ≤ waitPct then cur - 2 else if waitPct < 3 && !d.throttling && !d.hot then max cur (min t (cur + 2)) else cur
    let on := (decide (10 ≤ waitPct) || d.recl) && decide (code < t)
    let first := on && !p.per.toList.any (·.recl)
    let s := s.onPower fun p =>
      let p := p.updDie n fun d => { d.setCode code with recl := on }
      if first then { p with base := p.avg.toNat } else p
    if on then s.onHw fun h => h.count (ctrDie n 210) 1 .firmware 11 (srcBytes 99 0xFF 0x63) else s

/-- RECLAIM_WINDOW (19:R409). -/
def execReclaimWindow (d : Fin 16) (waitPct : Nat) (s : State) : Out := .next (s.reclaim d.val waitPct)

/-! ### Droop (19:R402, R403) -/

/-- DROOP_DETECT (19:R402). -/
def execDroopDetect (d : Fin 16) (det : Fin 64) (s : State) : Out :=
  .next (if bit (s.power.die d.val).droop det.val then s
    else
      let s := s.onPower fun p => p.updDie d.val fun (x : PwrDie) => { x with
        droop := setFld x.droop det.val det.val 1, droops := BitVec.ofNat 32 (satInc (2 ^ 32 - 1) x.droops.toNat) }
      s.onHw fun h => h.count (ctrDie d.val 208) 1 .firmware 11 (srcBytes d.val 0xFF 0x2B))

/-- DROOP_CLEAR (19:R402). -/
def execDroopClear (d : Fin 16) (det : Fin 64) (s : State) : Out :=
  .next (s.onPower fun p => p.updDie d.val fun (x : PwrDie) => { x with droop := setFld x.droop det.val det.val 0 })

/-- RAMP_RESUME (19:R403): no detector of the die holds, and the ramp reaches its setpoint. -/
def execRampResume (d : Fin 16) (s : State) : Out :=
  .next (s.onPower fun p => p.updDie d.val fun (x : PwrDie) => if x.droop = 0 then { x with ramp := false, vnow := x.vset } else x)

/-! ### Heat (19:R404, R405) -/

/-- Idle lanes of a link die are put quiet. -/
def Hw.quietIdle (h : Hw) (j : Nat) : Hw :=
  (List.range 16).foldl (fun h i => h.updPort (16 * j + i) fun p =>
    { p with quiet := p.quiet || (p.st == .up && p.replay.isEmpty && p.waiting.isEmpty) }) h

/-- A die begins to throttle at 95 °C and ends at 93 °C; its setpoint may rise at 90 °C. -/
def State.heat (s : State) (n : Nat) (tj : Int) : State :=
  let start (s : State) : State := s.raise ⟨0x1005, n, 0xFF, 0x63, 0, 0, if n < 16 then (s.hw.die n).owner else none⟩
  let s := s.onPower fun p => { p with aboveCool := (p.aboveCool.filter (· ≠ n)) ++ (if 85 < tj then [n] else []) }
  if n < 16 then
    let d := s.power.die n
    let s := if 95 ≤ tj && !d.throttling then start s else s
    s.onPower fun p => p.updDie n fun (d : PwrDie) => { d with
      tj := BitVec.ofNat 8 (min 255 tj.toNat)
      throttling := decide (95 ≤ tj) || (d.throttling && decide (93 < tj))
      hot := decide (95 ≤ tj) || (d.hot && decide (90 < tj)) }
  else
    let on := s.power.hotDies.contains n
    let s := if 95 ≤ tj && !on then start s else s
    let s := s.onPower fun p => { p with hotDies := if 95 ≤ tj then (if on then p.hotDies else p.hotDies ++ [n])
      else if tj ≤ 93 then p.hotDies.filter (· ≠ n) else p.hotDies }
    if 95 ≤ tj && 96 ≤ n && n < 99 then s.onHw fun h => h.quietIdle (n - 96) else s

/-- A reading of a die's junction. -/
def State.thermal (s : State) (n : Nat) (tj : Int) : State :=
  let s := (s.heat n tj).repace
  if 105 ≤ tj then s.shutdownBegin n else s.shutdownStep.shutdownEnd

/-- THERMAL_THROTTLE_STEP (19:R404). -/
def execThermalThrottleStep (d : Fin 16) (s : State) : Out :=
  .next (s.onPower fun p => p.updDie d.val fun x => if x.throttling then x.setCode (x.vset.toNat - 2) else x)

/-! ### Coolant (19:R406, 24:R475, R482) -/

/-- The row of Table 19-7 for an inlet temperature in °C and a flow in 0.1 L/min. -/
def coolRow (inlet : Int) (flow : Nat) : CoolRow :=
  if flow < 10 then .shutdown
  else if 50 < inlet || flow < 40 then .limit800
  else if 45 < inlet || flow < 60 then .limit2100
  else if inlet < 15 || 100 < flow then .reported
  else .rated

/-- A temperature as its 8-bit field holds it. -/
def tempByte (t : Int) : BitVec 8 := BitVec.ofNat 8 (min 255 t.toNat)

/-- 0x1006 on entry to a row other than the first, with the limit in force. -/
def State.raiseCool (s : State) : State := s.onHw fun h => h.raiseHub 0x1006 0x63 (s.power.coolLimit.getD 0)

/-- A reading of the coolant: with reversed flow the inlet is at J3 (24:R482). -/
def State.coolant (s : State) (inlet outlet : Int) (flow : Nat) : State :=
  let row := coolRow inlet flow
  let enter := row ≠ s.power.cool && row ≠ .rated
  let s := s.onPower fun p =>
    let ends := if p.mod.revflow then (tempByte outlet, tempByte inlet) else (tempByte inlet, tempByte outlet)
    { p with cool := row, mod := { p.mod with tj2 := ends.1, tj3 := ends.2, flow := BitVec.ofNat 8 (min 255 flow) } }
  let s := if enter then s.raiseCool else s
  let s := s.newCeiling
  if row = .shutdown then s.shutdownBegin 99 else s.shutdownEnd

/-- REVERSE_FLOW_DETECT (24:R482). -/
def execReverseFlowDetect (s : State) : Out :=
  .next (if s.power.mod.revflow then s
    else
      let s := s.onPower fun p => { p with revLimit := true, mod := { p.mod with revflow := true } }
      ((s.onHw fun h => h.raiseHub 0x1404 0x63).raiseCool).newCeiling)

/-- FORWARD_FLOW_RESTORED (24:R482). -/
def execForwardFlowRestored (s : State) : Out :=
  .next (s.onPower fun p => { p with revLimit := false, mod := { p.mod with revflow := false } }).newCeiling

/-! ### Regulator phases (19:R407) -/

/-- POWER_PHASE_FAIL (19:R407): the die is paced to no issue while the other phases rebalance. -/
def execPowerPhaseFail (k : Fin 16) (s : State) : Out :=
  .next (s.onPower fun p => { p with rebalancing := setFld p.rebalancing k.val k.val 1 }).repace

/-- PHASE_REBALANCE_DONE (19:R407). -/
def execPhaseRebalanceDone (k : Fin 16) (s : State) : Out :=
  .next (if !bit s.power.rebalancing k.val then s
    else
      let s := s.onPower fun p => { p with
        rebalancing := setFld p.rebalancing k.val k.val 0, phaseLost := setFld p.phaseLost k.val k.val 1 }
      (s.raise ⟨0x1008, 80 + k.val, 0xFF, 0x48, 0, 0, none⟩).repace.capCodes)

/-! ### Idle states (19:R394, R412) -/

/-- No state of the MXUs is live. -/
def Core.matrixEmpty (c : Core) : Bool :=
  c.stat.isEmpty && c.statScale.isEmpty && c.abuf.isEmpty && c.ttile.isEmpty && c.acc.isEmpty && c.accPend.isEmpty

/-- No state of VXE, scan network, RSU and Vernier is live. -/
def Core.vectorEmpty (c : Core) : Bool :=
  c.carry == 0 && c.carryPend.isEmpty && c.rsu.toList.all (fun r => r == RsuSlot.init) &&
    c.vtab.toList.all (fun b => b.live.isEmpty && b.shadow.isEmpty && b.arrived.isEmpty) && c.vlen == 0 && c.pos == 0 && c.pred == 0 &&
    c.genSeed.toList.all (· == 0) && c.genCtr.toList.all (· == 0) && c.gsetPend.isEmpty && c.flight.isEmpty

/-- Helm of a die waits as R409 counts waits. -/
def Helm.waits (x : Helm) : Bool := x.held.isSome || x.st == .waitBank || x.st == .waitFlag || x.st == .fifoFull

/-- A link with no flit to send. -/
def Port.noFlit (p : Port) : Bool := p.replay.isEmpty && p.waiting.isEmpty

/-- No reduction is in flight on the module. -/
def Hw.noReductions (h : Hw) : Bool := h.chip.redq.isEmpty

/-- A table, or a leaf under it, lies on stack `k`. -/
def Hw.mapsTo (h : Hw) (n k : Nat) : Nat → Nat → Nat → Nat → Bool
  | 0, _, _, _ => false
  | fuel + 1, level, t, off =>
    let len := 8 * (if level = 1 then 1024 else if level = 2 then 8192 else 512)
    (h.stk t).mem.any fun e => decide (off ≤ e.1) && decide (e.1 < off + len) &&
      (let x := (h.stk t).mem.readLE (off + (e.1 - off) / 8 * 8) 8
       teV x && !teMalformed level x && ((teStackOf n x == some k) ||
         (!teLeaf x && Hw.mapsTo h n k fuel (level + 1) ((teStackOf n x).getD 0) (teAddr x * 4096))))

/-- Something maps to stack `k`: a page of a context, a save area or a reserved region (13:R287). -/
def Hw.stackUsed (h : Hw) (k : Nat) : Bool :=
  (h.chip.ctxs.any fun c => (c.ents.any fun e => e.die.val == k) || c.ents.any fun e =>
    let r := h.entRoot e
    r.stk == k || h.mapsTo e.die.val k 3 1 r.stk r.off) ||
    h.chip.regions.toList.any fun r => r.owner.isSome && r.extents.any fun e => fld e 63 60 == k

/-- The entry condition of Table 19-9 holds. -/
def State.mayEnter (s : State) : IdleUnit → Bool
  | .linkQuiet l => (s.hw.port l.val).st == .up && (s.hw.port l.val).noFlit
  | .matrixGated d => (s.hw.cx d.val).cores.toList.all Core.matrixEmpty
  | .vectorGated d => (s.hw.cx d.val).cores.toList.all Core.vectorEmpty
  | .dieRetention d => s.hw.occupied d.val && (s.hw.cx d.val).helm.waits && (s.hw.cx d.val).busyAgents.isEmpty
  | .stackRetention k => (s.hw.stk k.val).mst == .on
  | .stackOff k => (s.hw.stk k.val).mst != .off && !s.hw.stackUsed k.val
  | .dieOff d => !s.hw.occupied d.val
  | .linkSleep l =>
    let p := s.hw.port l.val
    p.st == .up && p.noFlit && s.hw.noReductions &&
      !(p.dirNow.toNat < 2 && (List.range 64).any fun c => (s.hw.chb (chIndex p.dirNow.toNat c)).bound)
  | .standby =>
    s.hw.chip.ctxs.isEmpty && s.hw.host.cmds.isEmpty &&
      ((List.range 66).all fun k => let r := s.hw.ring (64 + k); r.st == .disabled || (r.held.isEmpty && r.head == r.tail)) &&
      s.hw.links.ports.toList.all fun p => !(p.st == .up || p.st == .recovering || p.st == .training || p.st == .identity)

/-- The unit enters its state. -/
def State.enterIdle (s : State) : IdleUnit → State
  | .linkQuiet l => s.onHw fun h => h.updPort l.val fun p => { p with quiet := true }
  | .matrixGated d => s.onPower fun p => p.updDie d.val fun (x : PwrDie) => { x with mxg := true }
  | .vectorGated d => s.onPower fun p => p.updDie d.val fun (x : PwrDie) => { x with vxg := true }
  | .dieRetention d => s.onPower fun p => { p with retained := setFld p.retained d.val d.val 1 }
  | .stackRetention k => s.onHw fun h => h.updStk k.val fun x => { x with mst := .retention }
  | .stackOff k => s.onHw fun h => h.updStk k.val fun x => { x with mst := .off, mem := [], bad := [] }
  | .dieOff d =>
    (s.onPower fun p => { p with idleOff := setFld p.idleOff d.val d.val 1 }).onHw fun h => h.updStk d.val fun x =>
      { x with mst := if x.mst = .on then .retention else x.mst }
  | .linkSleep l => s.onHw fun h => h.updPort l.val fun p => { p with st := .sleep }
  | .standby => s.onPower fun p => { p with
      standby := true, ldon := 0, idleOff := BitVec.allOnes 16, per := p.per.map fun d => { d with mxg := true, vxg := true } }

/-- IDLE_STATE_ENTER (19:R412). -/
def execIdleStateEnter (u : IdleUnit) (s : State) : Out :=
  .next (if s.mayEnter u && decide (idleLatency u ≤ s.unitTol u) then s.enterIdle u else s)

/-- IDLE_STATE_WAKE (19:R412). -/
def execIdleStateWake (u : IdleUnit) (s : State) : Out := .next (s.wakeUnit u)

end Sys2Proof.Machine
end

