-- ==== Sys2Proof/Machine/Start.lean ====
section
/-! DEFINITION. Start-up: the state that a cold start or a module reset begins from, and steps 2 to 8 (23:R460-R464). -/

namespace Sys2Proof.Machine

/-! ### What is kept (23 Table 23-3) -/

/-- Host memory, the level of PERST# and the draws of free values are outside the module's resets. -/
def HostIf.kept (x : HostIf) : HostIf := { HostIf.init with mem := x.mem, perst := x.perst, ticks := x.ticks }

/-- Owner lock, fuses, banks, stored configuration, and the draws of entropy, of which a reset makes one (21:R440). -/
def Sec.kept (x : Sec) : Sec :=
  { Sec.init with
    bank := x.bank, svnFuse := x.svnFuse, keyRev := x.keyRev, version := x.version, lock := x.lock, key := x.key
    draws := x.draws + 1, banks := x.banks, stored := x.stored
    stage := x.stage, ucPend := x.ucPend, uc := x.uc }

/-- Core retirements; buddies keep what this module wrote to them. -/
def Chip.kept (c : Chip) : Chip :=
  { Chip.init with dies := c.dies.map fun d => { Die.init with healthy := d.healthy }, remote := c.remote }

/-- The connectors' sensors and the records of firmware storage outlast the input. -/
def ModHw.kept (m : ModHw) : ModHw :=
  { Power.init.mod with
    vin := m.vin, tj2 := m.tj2, tj3 := m.tj3, flow := m.flow, cpres := m.cpres, trips := m.trips, inRow := m.inRow
    input := m.input, lossRec := m.lossRec, tripRec := m.tripRec }

/-- The state that a cold start begins from, and that a module without input has. -/
def State.coldBase (s : State) : State where
  pending := s.pending
  hw := ⟨s.hw.chip.kept, Links.init, s.hw.host.kept, Ctr.init⟩
  power := { Power.init with mod := s.power.mod.kept }
  sec := s.sec.kept

/-- Stack memory as a module reset keeps it. -/
def Stack.kept (k : Stack) : Stack := { Stack.init with mem := k.mem, bad := k.bad, errs := k.errs }

/-- A module reset leaves the save areas of contexts that drain or save with STATE 0x3 (14 Table 14-9). -/
def Hw.stopHeaders (h : Hw) : Hw :=
  (h.chip.ctxs.filter fun c => c.st == .stopping).foldl (fun h c =>
    c.ents.foldl (fun h e => h.setHeader e.die.val e.saveOff.toNat fun w => setFld (setFld w 511 508 3) 351 336 0) h) h

/-- The state that a module reset begins from. HOLDUP, REVFLOW and LEAK take their Reset values (24 Table 24-5, 00:R13); the reversed-flow limit
goes by the flow that is read (24 Table 24-9), and a lost regulator phase stays lost (19:R407). -/
def State.moduleBase (s : State) : State :=
  let t := s.coldBase
  State.repace { t with
    hw := { t.hw with chip := { t.hw.chip with stk := s.hw.stopHeaders.chip.stk.map Stack.kept } }
    power := { t.power with
      mod := { s.power.mod with holdup := 0, revflow := false, leak := false }, vinWin := s.power.mod.vin, revLimit := s.power.mod.revflow
      phaseLost := s.power.phaseLost, rebalancing := s.power.rebalancing }
    sec := { t.sec with fails := s.sec.fails } }

/-! ### Step 2 (21:R441) -/

/-- The version of a bank: 0 for what the bank was made with (log 11, DESIGN CHOICE). -/
def FwBank.ver (k : FwBank) : Word32 := ((k.block 0).map fhVersion).getD 0

/-- The boot ROM finds bank `i` fit to boot. -/
def Sec.bootable (x : Sec) (u : StartUp) (i : Nat) : Bool :=
  let k := x.bankAt i
  (if i = 0 then u.bankOk.1 else u.bankOk.2) && k.valid &&
    match k.block 0 with
    | some b => decide (x.svnFuse.toNat ≤ fhSvn b)
    | none => true

/-- The boot: staging is discarded, and a bank is chosen; microcode of that bank comes into force. -/
def Sec.boot (x : Sec) (u : StartUp) : Sec :=
  let x := if x.stage = 0 then x else { x.updInactive (fun _ => ⟨[], false⟩) with stage := 0, recvd := 0 }
  let a := x.bank.toNat
  let x : Sec := if x.bootable u a then x
    else if x.bootable u (1 - a) then { x with bank := BitVec.ofNat 1 (1 - a) }
    else { x with recovery := true }
  { x with version := x.active.ver, ucPend := false, uc := (x.active.payload 2, x.active.payload 3) }

/-- Binnacle starts. -/
def State.step2 (u : StartUp) (s : State) : State :=
  let fit := s.sec.bootable u s.sec.bank.toNat
  let s := s.onSec fun x => x.boot u
  let s := s.onHw fun h => h.onHost fun x => { x with noDies := s.sec.recovery }
  let s := if fit then s else s.onHw fun h => h.raiseHub 0x1209 0x62
  let s := match s.power.mod.lossRec with
    | some r => s.onHw fun h => h.raiseHub 0x1409 0x63 r.1.toNat r.2.toNat
    | none => s
  let s := if s.power.mod.tripRec then s.onHw fun h => h.raiseHub 0x1403 0x63 s.power.mod.trips.toNat else s
  let s := s.onPower fun p => { p with mod := { p.mod with lossRec := none, tripRec := false } }
  let s := (s.applyBlock s.sec.stored).1
  if u.vstoreBad then
    (s.onHw fun h => h.onHost fun x => { x with vstore := true }).onHw fun h => h.raiseHub 0x0202 0x62
  else s

/-! ### Steps 3 to 7 -/

/-- Step 3: a power die that fails leaves its stack unpowered. -/
def Hw.step3 (u : StartUp) (h : Hw) : Hw :=
  let h := h.onHost fun x => { x with pwrFail := u.pwrFail }
  ((List.range 16).filter (bit u.pwrFail)).foldl (fun h n =>
    ((h.updDie n fun d => { d with unpowered := true }).updStk n fun k => { k with mst := .off, mem := [], bad := [] }).raise
      ⟨0x0205, 80 + n, 0xFF, 0x48, 0, 0, none⟩) h

/-- Step 4: via tests of the powered stacks; after a cold start every burst is zero, as the base has it. -/
def Hw.step4 (u : StartUp) (h : Hw) : Hw :=
  let h := (List.range 16).foldl (fun h n => if (h.die n).unpowered then h else h.viaTest n u.vias) h
  h.onHost fun x => { x with chFail := (List.range 16).foldl (fun a n => if (h.die n).chFail then a ||| (1 <<< n) else a) 0 }

/-- A core fails a self-test: it is retired for good (01:R25). -/
def Hw.retire (h : Hw) (n c : Nat) : Hw :=
  if !bit (h.die n).healthy c then h
  else (h.updDie n fun d => { d with healthy := setFld d.healthy c c 0 }).raise
    ⟨0x0203, n, c, engineAmong 0x0203 n coreEngines, 0, 0, none⟩

/-- STFAIL of HUB_BOOT_STAT follows the dies. -/
def Hw.noteStfail (h : Hw) : Hw :=
  h.onHost fun x => { x with stFail := (List.range 16).foldl (fun a n => if (h.die n).stFail then a ||| (1 <<< n) else a) 0 }

/-- Step 5: die self-test of every powered die. -/
def Hw.step5 (u : StartUp) (h : Hw) : Hw :=
  let on (n : Nat) : Bool := !(h.die n).unpowered
  let h := (u.coreFail.filter fun f => on f.1.val).foldl (fun h f => h.retire f.1.val f.2.val) h
  let h := (u.unitFail.filter fun f => on f.1.val).foldl (fun h f =>
    (h.updDie f.1.val fun d => { d with stFail := true }).raise ⟨0x0204, f.1.val, 0xFF, f.2.toNat, 0, 0, none⟩) h
  let h := ((List.range 16).filter fun n => on n && bit u.mcastFail n).foldl (fun h n => h.mcastFault n) h
  h.noteStfail

/-- What a die that fails the identity check loses (21 Table 21-2). -/
def State.idEffect (s : State) (i : Nat) : State :=
  let off (s : State) (n : Nat) (powerless : Bool) : State := s.onHw fun h =>
    (h.updDie n fun d => { d with idFail := true, unpowered := d.unpowered || powerless }).updStk n fun k =>
      { k with mst := .off, mem := [], bad := [] }
  if i < 16 then off s i false
  else if i < 80 then off s ((i - 16) / 4) true
  else if i < 96 then off s (i - 80) true
  else if i < 99 then
    let s := s.onPower fun p => { p with ldon := setFld p.ldon (i - 96) (i - 96) 0 }
    s.onHw fun h => (List.range 16).foldl (fun h k => h.updPort (16 * (i - 96) + k) fun p =>
      { p with st := .disabled, locked := true }) h
  else s

/-- A die fails the identity check: recorded, reported with that die as the source, and its effects. -/
def State.idFailed (s : State) (i : Nat) : State :=
  if bit s.sec.idFail i then s
  else
    let s := s.onSec fun x => { x with idFail := setFld x.idFail i i 1, idFails := x.idFails + 1 }
    let s := s.raise ⟨0x1201, i, 0xFF, engineAmong 0x1201 i (dieEngines i), 0, 0, none⟩
    s.idEffect i

/-- Step 6: the identity check; bit 99 of the failures stands for the hub. Each other die answers a fresh challenge; which answers verify against
the manifest is the row's operand, since a die may have been swapped. -/
def State.step6 (u : StartUp) (s : State) : State :=
  let s := s.onSec fun x => { x with
    idDone := true, draws := x.draws + 1, idSigs := (List.range 99).map fun i => (i, dieAnswer x.draws i) }
  let s := if u.hubKeyBad || u.manifestBad then
      let s := s.onSec fun x => { x with hubBad := true, idFail := setFld x.idFail 99 99 1, idFails := x.idFails + 1 }
      (s.onHw fun h => h.onHost fun x => { x with noDies := true }).onHw fun h => h.raiseHub 0x1202 0x65
    else s
  ((List.range 99).filter (bit u.idFail)).foldl State.idFailed s

/-- The hold-up bank is tested (24:R479). -/
def State.holdTest (s : State) (ok : Bool) : State :=
  if ok then s.onPower fun p => { p with mod := { p.mod with holdup := if p.mod.holdup = 3 then 1 else p.mod.holdup } }
  else
    (s.onPower fun p => { p with mod := { p.mod with holdup := 3 } }).onHw fun h => h.raiseHub 0x1406 0x63

/-- Step 7: every port that is not Disabled trains. -/
def Hw.trainAll (h : Hw) : Hw := (List.range 48).foldl (fun h l => h.train l) h

/-! ### Step 8 -/

/-- READY is set; its record carries the start-up time in ms (R461). -/
def State.setReady (s : State) (ms : Nat) : State :=
  (s.onHw fun h => h.onHost fun x => { x with
    ready := true, bootStep := 9, elapsed := BitVec.ofNat 10 (min 1023 (ms / 10)) }).onHw fun h => h.raiseHub 0x0206 0x62 0 ms

/-- Steps 2 to 8. READY waits for the deassertion of PERST#. -/
def State.startUp (s : State) (cold : Bool) (last : BitVec 4) (u : StartUp) : State :=
  let s := (s.onHw fun h => h.onHost fun x => { x with rstLast := last }).step2 u
  let s := s.onHw fun h => ((h.step3 u).step4 u).step5 u
  let s := s.step6 u
  let s := if cold then (s.holdTest u.holdupOk).onPower fun p => { p with phaseLost := u.phaseBad } else s
  let s := s.onHw Hw.trainAll
  if s.hw.host.perst then s.onHw fun h => h.onHost fun x => { x with bootStep := 8 }
  else s.setReady u.elapsed

/-- A cold start: the input is qualified, the hold-up bank charges, and the eight steps run. -/
def State.coldStart (s : State) (u : StartUp) : State :=
  let vin := s.power.mod.vin
  let s := s.coldBase
  let s := s.onPower fun p => { p with
    vinWin := vin
    mod := { p.mod with input := .qualified, pwrgd := true, holdup := 0, inRow := 0 } }
  let s := if vinBand vin.toNat ≠ 0 then s.onHw fun h => h.raiseHub 0x1401 0x63 0 vin.toNat else s
  s.startUp true 1 u

/-- A module reset: it has no effect while start-up steps 2 to 7 run, and none without a qualified input (R463). -/
def State.moduleReset (s : State) (last : BitVec 4) (u : StartUp) : State :=
  let n := s.hw.host.bootStep.toNat
  if s.power.mod.input != .qualified || n < 8 then s else s.moduleBase.startUp false last u

/-- COLD_START (23:R460). -/
def execColdStart (u : StartUp) (s : State) : Out := .next (if s.power.mod.input == .qualified then s else s.coldStart u)

/-- INPUT_QUALIFIED (24:R474). -/
def execInputQualified (vin : BitVec 10) (u : StartUp) (s : State) : Out :=
  .next (if s.power.mod.input == .qualified || vin.toNat < 400 || 600 < vin.toNat then s
    else (s.onPower fun p => { p with mod := { p.mod with vin := vin } }).coldStart u)

/-- PERST_ASSERT (23:R463): the module resets once, at the assertion. -/
def execPerstAssert (u : StartUp) (s : State) : Out :=
  .next (if s.hw.host.perst then s
    else (s.onHw fun h => h.onHost fun x => { x with perst := true }).moduleReset 2 u)

/-- MRST_PULSE (23:R463). -/
def execMrstPulse (u : StartUp) (s : State) : Out := .next (s.moduleReset 3 u)

/-- PERST_DEASSERT (23:R461): a module that waits in step 8 becomes ready; how long it took is open. -/
def execPerstDeassert (s : State) : Out :=
  .next (
    let t := s.onHw fun h => h.onHost fun x => { x with perst := false }
    if s.hw.host.bootStep = 8 then t.setReady (Config.readyMs s.hw.host.ticks) else t)

/-- CONFIG_REQUEST_RETRY (23:R461): before READY the answer is Request Retry Status, which changes nothing here. -/
def execConfigRequestRetry (s : State) : Out := .next s

/-- DIE_IDENTITY_TIMEOUT (21:R435): an unanswered challenge of the identity check fails the die; it comes before any context
is launched (log 51, DESIGN CHOICE). -/
def execDieIdentityTimeout (die : Fin 100) (s : State) : Out :=
  .next (if s.sec.idDone && s.hw.chip.ctxs.isEmpty && die.val < 99 then s.idFailed die.val else s)

/-! ### FW_COMMIT (21:R441, R445) -/

/-- A commit in recovery switches banks and restarts as a module reset. -/
def State.commitRestart (s : State) (id : Nat) : State :=
  let b := (s.sec.inactive.block 0).getD []
  if !s.sec.inactive.whole b then s.refuseCommit id 6
  else
    let k := s.sec.draws
    (s.commitEnd (some id)).moduleReset Config.restartCause (Config.restart k)

def runFwCommit : Run := fun c s =>
  let r := s.commitReason
  if r ≠ 0 then s.refuseCommit c.id r else if s.sec.recovery then s.commitRestart c.id else s.commit c.id

/-- FW_COMMIT (21:R445). -/
def execFwCommit (q : Fin 64) (w : Word512) (s : State) : Out := .next (hostCmd 0xF 0 runFwCommit q w s)

end Sys2Proof.Machine
end

