-- ==== Sys2Proof/Machine/ModRows.lean ====
section
/-! DEFINITION. Module hardware: input loss, the eFuse, the hold-up bank, the moisture sensor and link cables (24). -/

namespace Sys2Proof.Machine

def State.onMod (s : State) (f : ModHw → ModHw) : State := s.onPower fun p => { p with mod := f p.mod }

/-- The module is fed. -/
def State.fed (s : State) : Bool := s.power.mod.input == .qualified

/-- Input loss: an orderly shutdown, which ends with every domain off. Its power-loss record holds the cause and the last
sequence number; a bank below rating may fail to write it (24:R476, R479). -/
def State.inputLoss (s : State) (cause : BitVec 4) : State :=
  let s := s.onHw fun h => h.raiseHub 0x1402 0x63
  let s := s.onHw fun h => (h.redAbortAll 0x0F06).takeAbortAll 0x1402 0xB false
  let written := s.power.mod.holdup ≠ 3 || Config.recordKept s.hw.host.ticks
  let seq := s.hw.host.seq - 1
  s.coldBase.onMod fun m => { m with
    input := .lost, holdup := 2, lossRec := if written then some (cause, seq) else none }

/-- INPUT_LOSS_EN_BREAK (24:R476). -/
def execInputLossEnBreak (s : State) : Out := .next (if s.fed then s.inputLoss 2 else s)

/-- INPUT_VOLTAGE_LOSS (24:R476). -/
def execInputVoltageLoss (vin : BitVec 10) (s : State) : Out :=
  .next (if s.fed && (vin.toNat < 400 || 600 < vin.toNat) then (s.onMod fun m => { m with vin := vin }).inputLoss 1 else s)

/-- EFUSE_TRIP (24:R477, R478): the compute dies lose power at once; the hold-up bank still writes the record. -/
def State.trip (s : State) : State :=
  let m := s.power.mod
  let rec_ := if m.input = .tripped then m.lossRec
    else if m.holdup ≠ 3 || Config.recordKept s.hw.host.ticks then some ((3 : BitVec 4), s.hw.host.seq - 1) else none
  s.coldBase.onMod fun k => { k with
    input := .tripped, trips := BitVec.ofNat 8 (satInc 255 k.trips.toNat), inRow := k.inRow + 1, lossRec := rec_, tripRec := true }

/-- EFUSE_TRIP (24:R477). -/
def execEfuseTrip (s : State) : Out :=
  .next (if s.fed || s.power.mod.input == .tripped then s.trip else s)

/-- EFUSE_RETRY (24:R477): a retry that succeeds is a cold start. -/
def execEfuseRetry (vin : BitVec 10) (u : StartUp) (s : State) : Out :=
  .next (if s.power.mod.input == .tripped && 400 ≤ vin.toNat && vin.toNat ≤ 600 then
      (s.onMod fun m => { m with vin := vin }).coldStart u
    else s)

/-- HOLDUP_TEST (24:R479). -/
def execHoldupTest (joules : Nat) (s : State) : Out := .next (if s.fed then s.holdTest (decide (60 ≤ joules)) else s)

/-- HOLD_UP_CHARGED (24:R474). -/
def execHoldUpCharged (s : State) : Out :=
  .next (if s.fed && s.power.mod.holdup = 0 then s.onMod fun m => { m with holdup := 1 } else s)

/-- LEAK_DETECT (24:R477). -/
def execLeakDetect (s : State) : Out :=
  .next (if s.fed && !s.power.mod.leak then (s.onMod fun m => { m with leak := true }).onHw fun h => h.raiseHub 0x1405 0x63 else s)

/-- A cable has been removed: its port goes Down, and its traffic moves as for a failed link (24 Table 24-9, 16:R345). -/
def Hw.unplug (h : Hw) (l : Nat) : Hw :=
  let was := (h.port l).st
  if was == .disabled then h
  else
    let h := (h.leaveService l .down).redFleet.takeRoute
    if was == .training || was == .identity then h.leftTraining l else h

/-- Port `l` trains, when its link die is on. -/
def State.trainPort (s : State) (l : Nat) : State :=
  if bit s.power.ldon (l / 16) then s.onHw fun h => h.train l else s

/-- CABLE_PRESENCE_CHANGE (24:R477, R483): the four ports of connector J(5 + j). -/
def execCablePresenceChange (j : Fin 12) (mated : Bool) (s : State) : Out :=
  .next (if bit s.power.mod.cpres j.val == mated then s
    else
      let s := s.onMod fun m => { m with cpres := setFld m.cpres j.val j.val (b2n mated) }
      if !s.fed then s
      else
        let s := s.onHw fun h => h.raiseHub 0x1407 0x64 (5 + j.val)
        (List.range 4).foldl (fun s k =>
          let l := 4 * j.val + k
          if mated then (if (s.hw.port l).untrained then s.trainPort l else s) else s.onHw fun h => h.unplug l) s)

end Sys2Proof.Machine
end

