-- ==== Sys2Proof/Machine/Resets.lean ====
section
/-! DEFINITION. Warm, per-die and per-link-port resets, and the PCI Express resets (23:R465, R466, 18:R374). -/

namespace Sys2Proof.Machine

/-! ### Warm reset (23:R465) -/

/-- Outstanding commands that carry a segment load of a saved context end with the rest, and their loads with them. -/
def Ctx.dropLoads (c : Ctx) : Ctx :=
  { c with
    loads := c.loads.filter fun l => l.2.cmd.isNone
    save := c.save.map fun s => (s.1, { s.2 with loads := s.2.loads.filter fun l => l.cmd.isNone }) }

/-- A running or stopping context ends with status 0x5; its held segment loads end as the other commands do. -/
def Hw.warmEnd (h : Hw) (c : Ctx) : Hw :=
  (h.completeAll (h.segCmds c) ⟨0xE, 0, 0, 0⟩).endCtx c.num ⟨5, 0, 0, 0⟩ ⟨0xE, 0, 0, 0⟩

/-- A port's bulk flits are kept for their direction; everything else that it had in flight ends. -/
def Hw.portHold (h : Hw) (l : Nat) : Hw :=
  let p := h.port l
  let fs := (p.replay ++ p.waiting).filter fun f => flClass f == 2
  let h := h.updPort l fun p => { p with
    st := if p.st = .disabled then .disabled else .down
    replay := [], reps := [], waiting := [], nakSent := false, suspect := none, quiet := false, resets := [] }
  fs.foldl (fun h f => h.holdFlit p.dirNow.toNat f) h

/-- Steps 1 to 3 of a warm reset; `keep` is the RESET command that asked for it. -/
def Hw.warmClear (h : Hw) (keep : Option Nat) : Hw :=
  let h := (h.redAbortAll 0x0F06).takeAbortAll 0 0xE false
  let h := h.abandonAll
  let h := (h.chip.ctxs.filter fun c => c.st != .saved).foldl (fun h c => h.warmEnd c) h
  let h := h.completeAll ((h.host.cmds.map (·.id)).filter fun i => some i != keep) ⟨0xE, 0, 0, 0⟩
  h.onChip fun c => { c with
    hostX := []
    ctxs := c.ctxs.map Ctx.dropLoads
    dies := c.dies.map fun d => { d.vacate with dtu := [], resetting := false } }

/-- A warm reset but for its command: ports retrain, and it is counted and reported. -/
def State.warm (s : State) (last : BitVec 4) (keep : Option Nat) : State :=
  let s := (s.wakeUnit .standby).onHw fun h => h.warmClear keep
  let s := s.onHw fun h => (List.range 48).foldl (fun h l => h.portHold l) h
  let s := (List.range 48).foldl (fun s l => s.trainPort l) s
  let s := s.onHw fun h => h.onHost fun x => { x with rstLast := last, barSeen := false, warms := BitVec.ofNat 16 (satInc 65535 x.warms.toNat) }
  s.shutdownStep.onHw fun h => h.raiseHub 0x0207 0x62

def runResetWarm : Run := fun c s => (s.warm 4 (some c.id)).complete c.id ⟨0, 0, 0, 0⟩

/-- RESET_WARM (23:R465). -/
def execResetWarm (q : Fin 64) (w : Word512) (s : State) : Out := .next (hostCmd 0x14 0 runResetWarm q w s)

/-! ### Function Level Reset, hot reset, link down (18:R374) -/

/-- Rings and MSI-X return to their reset values; records not yet written stay for the event and fault rings. -/
def HostIf.ringReset (x : HostIf) : HostIf :=
  { x with
    rings := Vector.ofFn fun i =>
      let g := vget x.rings i.val Ring.init
      if 128 ≤ i.val then { Ring.init with held := g.held, lostNew := g.lostNew } else Ring.init
    cmds := [], rr := 0
    msixAddr := HostIf.init.msixAddr, msixData := HostIf.init.msixData, msixMask := HostIf.init.msixMask, msixPend := 0
    bme := false, d3hot := false, wake := false, barSeen := false }

/-- One of the three: outstanding commands are discarded, IDE keys and sessions end. -/
def State.pcieReset (s : State) (last : BitVec 4) : State :=
  if !s.hw.host.ready then s
  else
    let s := s.onHw fun h => h.onHost HostIf.ringReset
    let s := s.onPower fun p => { p with grant := { p.grant with held := p.grant.held.filter fun g => g.2.2.2.isNone } }
    (s.onSec Sec.endSessions).warm last none

/-- FUNCTION_LEVEL_RESET (18:R374). -/
def execFunctionLevelReset (s : State) : Out := .next (s.pcieReset 5)

/-- HOT_RESET (18:R374). -/
def execHotReset (s : State) : Out := .next (s.pcieReset 6)

/-- PCIE_LINK_DOWN (18:R374). -/
def execPcieLinkDown (s : State) : Out :=
  .next ((s.pcieReset 7).onHw fun h => h.onHost fun x => { x with pcieUp := false })

/-! ### Per-die reset (23:R466) -/

/-- RESET commands of die `n` that are under way. -/
def Hw.dieResets (h : Hw) (n : Nat) : List Nat :=
  (h.host.cmds.filter fun c => cmOpcode c.w == 0x14 && cmForm c.w == 1 && fld c.w 383 376 == n && c.wait == .running).map (·.id)

/-- A context on the die is to end with status 0x5: its other dies are pre-empted, this one's part is saved for inspection
with STATE 0x3 (04:R106, 14 Table 14-9). -/
def Hw.resetCtx (h : Hw) (num : BitVec 16) (n id : Nat) : Hw :=
  let h := h.updCtx num fun c => { c.endWith 5 with resets := c.resets ++ [id] }
  let h := h.takeAbort num 0 0xB false
  let off := (((h.ctx? num).bind fun c => c.ents.find? fun e => e.die.val == n).map fun e => e.saveOff.toNat).getD 0
  let h := if (h.die n).phase == .saved then h.setHeader n off fun w => setFld (setFld w 511 508 3) 351 336 0
    else (h.stopHost n off 0xD).saveDie num n
  h.preemptCtx num

/-- A per-die reset begins, or joins the one in progress. -/
def State.resetDie (s : State) (n id : Nat) : State :=
  if (s.hw.die n).resetting then
    s.onHw fun h => h.onChip fun y => { y with ctxs := y.ctxs.map fun c =>
      if (c.resets.any fun k => h.resetDie? k == some n) then { c with resets := c.resets ++ [id] } else c }
  else
    let s := s.onHw fun h => match (h.die n).owner with
      | some num => h.resetCtx num n id
      | none => h.updDie n Die.vacate
    let s := s.onHw fun h => (h.updDie n fun d => { d with resetting := true, dtu := [] }).onHost fun x => { x with rstLast := 8 }
    s.onPower fun p => p.updDie n fun d => d.setCode 0

def runResetDie : Run := fun c s => s.resetDie (fld c.w 383 376) c.id

/-- RESET_DIE (23:R466). -/
def execResetDie (q : Fin 64) (w : Word512) (s : State) : Out := .next (hostCmd 0x14 1 runResetDie q w s)

/-- The self-test of a die ends; a command whose context still saves waits for that. Engine 0x29 is the multicast tree, whose
failure leaves the die available. -/
def Hw.selfTestDone (h : Hw) (n : Nat) (pass : Bool) (retire : BitVec 32) (engines : List Nat) : Hw :=
  if !(h.die n).resetting then h
  else
    let h := ((List.range 32).filter (bit retire)).foldl (fun h c => h.retire n c) h
    let units := engines.filter (· ≠ 0x29)
    let h := h.updDie n fun d => { d with
      resetting := false, stFail := !pass || !units.isEmpty
      cx := { d.cx with cores := d.cx.cores.map fun c => { c with mxuFail := false } } }
    let h := units.foldl (fun h e => h.raise ⟨0x0204, n, 0xFF, e, 0, 0, none⟩) h
    let h := (if engines.contains 0x29 then h.mcastFault n else h).noteStfail
    h.finishDieReset n ((h.dieResets n).filter fun k => !h.chip.ctxs.any fun c => c.resets.contains k)

/-- DIE_SELF_TEST_DONE (23:R466). -/
def execDieSelfTestDone (d : Fin 16) (pass : Bool) (retire : BitVec 32) (engines : List Nat) (s : State) : Out :=
  .next (s.onHw fun h => h.selfTestDone d.val pass retire engines)

/-! ### Per-link-port reset (23:R466) -/

/-- A port retrains; its channels move as for a failed link. A Disabled port has nothing to reach and completes at once. -/
def State.resetPort (s : State) (l id : Nat) : State :=
  let s := s.onHw fun h => h.onHost fun x => { x with rstLast := 9 }
  if !(s.hw.port l).resets.isEmpty then s.onHw fun h => h.updPort l fun p => { p with resets := p.resets ++ [id] }
  else
    let s := s.onHw fun h => if (h.port l).locked then h else (h.leaveService l .down).redFleet.takeRoute
    let s := s.trainPort l
    let s := s.onHw fun h => h.updPort l fun p => { p with resets := [id] }
    if (s.hw.port l).st == .disabled then s.onHw fun h => h.finishPort l else s

def runResetLinkPort : Run := fun c s => s.resetPort (fld c.w 383 378) c.id

/-- RESET_LINK_PORT (23:R466). -/
def execResetLinkPort (q : Fin 64) (w : Word512) (s : State) : Out := .next (hostCmd 0x14 2 runResetLinkPort q w s)

end Sys2Proof.Machine
end

