-- ==== Sys2Proof/Machine/Regs.lean ====
section
/-! DEFINITION. The registers of BAR0: what each reads as (18 Tables 18-2 to 18-5 and the chapters' own tables). -/

namespace Sys2Proof.Machine

/-! ### Compute dies (18 Table 18-4) -/

def HelmSt.code : HelmSt → Nat
  | .idle => 0
  | .issuing => 1
  | .fifoFull => 2
  | .waitBank => 3
  | .waitFlag => 4
  | .preempting => 5
  | .stopped => 6

/-- CD_HELM_STAT (03 Table 3-1). -/
def DieCtx.helmStat (x : DieCtx) : Nat :=
  put x.helm.stack.length 32 4 + put x.helm.st.code 29 3 + put x.helm.bank.toNat 28 1 + put x.helm.index.toNat 12 16 +
    put x.helm.skips.toNat 0 9

/-- CD_HELM_STEP. -/
def DieCtx.helmStep (x : DieCtx) : Nat := put x.helm.epoch.toNat 48 16 + x.helm.step.toNat

/-- One half of CD_IBANK_STAT (04 Table 4-3). -/
def DieCtx.ibankStat (x : DieCtx) (b : Nat) : Nat :=
  let k := vget x.banks b IBank.init
  let p := x.loads.find? fun l => l.bank.toNat == b && !l.started
  put (b2n k.valid) 31 1 + put (b2n k.loading) 30 1 + put (b2n p.isSome) 29 1 + put (b2n (p.any (·.held))) 28 1 +
    put (b2n (k.drv || p.any (·.drv))) 27 1 + put k.seg.toNat 15 12 + put (k.loaded.toNat / 16) 0 13

/-- CD_HZM_CTRL (02 Table 2-4). -/
def Hzm.ctrl (z : Hzm) : Nat :=
  put z.logSize.toNat 4 4 + put (b2n z.unordered) 3 1 + put (b2n z.early) 2 1 + put (b2n z.wrap) 1 1 + put (b2n z.enable) 0 1

/-- CD_HZM_STAT (02 Table 2-5). -/
def Hzm.stat (z : Hzm) : Nat := put z.dropped.toNat 32 32 + put (b2n z.full) 16 1 + put z.head.toNat 0 16

/-- An agent is stopped at its granule: neither running nor about to go on after a re-read. -/
def Stall.stopped (s : Stall) : Bool := match s with | .run => false | .passed _ => false | _ => true

/-- CD_GME_STAT (11 Table 11-8). -/
def Gme.stat (g : Gme) : Nat :=
  let code (l : List GJob) (busy : Nat) : Nat := match l.head? with
    | none => 0
    | some j => if j.stall.stopped then 3 else if !j.started then 0 else if gjOp j.rcd = busy then 1 else 2
  put g.hash.length 35 13 + put (b2n !g.spilled.isEmpty) 34 1 + put g.contrib.toNat 25 9 + put (code g.hjobs 3) 12 4 +
    put (code g.bjobs 1) 8 4 + g.lastref.toNat

/-- CD_PUU_STAT (12 Table 12-6). -/
def Puu.stat (p : Puu) : Nat :=
  let st := match p.queue.head? with
    | none => 0
    | some c => if c.stall.stopped then 4 else (c.rcd.map puOp).getD 0
  put p.done.toNat 36 28 + put p.table.toNat 28 8 + put p.lastref.toNat 20 8 + put st 16 4 + put p.pslot.toNat 4 12

/-- CD_PUU_HELD. -/
def DieCtx.puuHeld (x : DieCtx) : Nat := put x.holds.length 32 13 + x.lastHeld.toNat

def ShState.code : ShState → Nat
  | .empty => 0
  | .loading => 1
  | .ready => 2
  | .rejected => 3
  | .held => 4

/-- One half of CD_VTAB_STAT (10 Table 10-7). -/
def VBank.stat (k : VBank) : Nat :=
  put k.gen.toNat 24 8 + put k.sst.code 21 3 + put k.reason.toNat 13 8 + put (if k.live.isEmpty then 0 else pkgNent k.live) 5 8

def ChSt.code : ChSt → Nat
  | .healthy => 0
  | .degraded => 1
  | .critical => 2
  | .failed => 3

/-- CD_MEMCH_STAT (13 Table 13-2). -/
def Chan.stat (c : Chan) : Nat :=
  let era (k : Nat) : Nat := (c.eras.getD k 0x7F).toNat
  put c.st.code 62 2 + put c.spused.toNat 60 2 + put c.eras.length 57 3 +
    (put (era 0) 28 7 + put (era 1) 35 7 + put (era 2) 42 7 + put (era 3) 49 7) + c.corr.toNat

def MSt.code : MSt → Nat
  | .on => 0
  | .retention => 1
  | .off => 2

/-- CD_PWR_STAT (19 Table 19-2). -/
def State.pwrStat (s : State) (n : Nat) : Nat :=
  let p := s.power.die n
  let d := s.hw.die n
  let base := if d.resetting then 3 else if d.off || bit s.power.idleOff n then 2 else if bit s.power.retained n then 1 else 0
  put p.vset.toNat 58 6 + put p.vnow.toNat 52 6 + put p.tj.toNat 44 8 + put base 40 4 + put (b2n p.mxg) 39 1 + put (b2n p.vxg) 38 1 +
    put (s.hw.stk n).mst.code 36 2 + put (b2n p.paced) 35 1 + put (b2n p.recl) 34 1 + p.droops.toNat

/-- A register of die `n` at an offset in its 64 KiB; none where it has none. -/
def State.readDie (s : State) (n o : Nat) : Option Nat :=
  let d := s.hw.die n
  let x := d.cx
  let k := s.hw.stk n
  let run := d.owner.isSome && d.phase != .saved
  if o < 0x58 then
    match o / 8 with
    | 0 => some x.helmStat
    | 1 => some x.helmStep
    | 2 => some (if d.owner.isSome && d.phase != .saved then x.ibankStat 0 + 2 ^ 32 * x.ibankStat 1 else 0)
    | 3 => some d.hzm.ctrl
    | 4 => some (put d.hzm.base.toNat 12 36)
    | 5 => some d.hzm.stat
    | 6 => some (put d.skipBase.toNat 12 36)
    | 7 => some (put (b2n d.mcFault) 31 1 + d.mcChained.toNat)
    | 8 => some x.puuHeld
    | 9 => some (put k.ueCount.toNat 48 16 + put k.ueBurst.toNat 6 26)
    | _ => some k.scrub.toNat
  else if o < 0x100 then none
  else if o < 0x120 then some (vget x.gmes ((o - 0x100) / 8) Gme.init).stat
  else if o < 0x140 then some (vget x.puus ((o - 0x120) / 8) Puu.init).stat
  else if o < 0x200 then none
  else if o < 0x300 then
    let c := x.core ((o - 0x200) / 8)
    some (if run then (c.bank 0).stat + 2 ^ 32 * (c.bank 1).stat else 0)
  else if o < 0x800 then none
  else if o < 0x1000 then some (vget k.chans ((o - 0x800) / 8) Chan.init).stat
  else if o = 0x1000 then some (s.pwrStat n)
  else none

/-! ### The hub -/

/-- EN of a ring: set while it runs or is stopped (18:R377). -/
def Ring.en (r : Ring) : Bool := r.st == .running || r.st == .stopped

/-- HUB_RING_CFG, HUB_RING_STAT (18 Table 18-5). -/
def Ring.cfg (r : Ring) : Nat :=
  put (b2n r.en) 63 1 + put r.log2.toNat 56 4 + put r.target.toNat 48 8 + put (b2n r.irqen) 47 1 + put r.cnt.toNat 16 16 + r.timeus.toNat
def Ring.stat (r : Ring) : Nat := put r.lost.toNat 48 16 + put r.head.toNat 32 16 + put r.tail.toNat 16 16 + r.st.code

def Ring.read (r : Ring) (k : Nat) : Nat :=
  match k with
  | 0 => r.base.toNat
  | 1 => r.cfg
  | 2 => r.wb.toNat
  | _ => r.stat

/-- HUB_SZL_ID (16 Table 16-5). -/
def Links.szlId (x : Links) : Nat :=
  put (b2n x.idValid) 53 1 + put (b2n x.spare) 52 1 + put x.lpos.toNat 36 16 + x.physid.toNat

/-- HUB_RED_STAT (17 Table 17-5). -/
def Hw.redStat (h : Hw) (g : Nat) : Nat :=
  let x := h.group g
  let mine (e : Nat × Flit) : Bool := flClass e.2 == 1 && rfSlot e.2 == g
  let st := if !grValid x.rcd then 0
    else if x.issues.isEmpty then 1
    else if (h.redActive g).isNone then 4
    else if h.links.bulkHeld.any mine then 3 else 2
  put x.issued.toNat 32 32 + put x.aborted.toNat 16 16 + put st 12 4 + x.last.toNat

/-- HUB_PWR_CFG, HUB_PWR_STAT, HUB_PWR_GRANT (19 Tables 19-3, 19-4). -/
def PwrCfg.read (c : PwrCfg) : Nat :=
  put c.gsrc.toNat 62 2 + put c.fsgrant.toNat 32 16 + put c.gtmo.toNat 16 16 + put (b2n c.reclaim) 8 1 + c.vmax.toNat
def Power.stat (p : Power) : Nat :=
  put p.avg.toNat 48 16 + put p.peak.toNat 32 16 + put p.reclaimw.toNat 16 16 + put p.reason 8 8 + put p.ldon.toNat 5 3 +
    put (b2n p.pcieon) 4 1
def Power.grantReg (p : Power) : Nat := put p.grant.gseq.toNat 48 16 + put p.grant.grant.toNat 32 16 + put p.grant.ceil.toNat 16 16

/-- HUB_MOD_STAT (24 Table 24-5). -/
def ModHw.stat (m : ModHw) : Nat :=
  put m.vin.toNat 54 10 + put m.holdup.toNat 52 2 + put m.tj2.toNat 40 8 + put m.tj3.toNat 32 8 + put m.flow.toNat 24 8 +
    put (b2n m.revflow) 23 1 + put (b2n m.leak) 22 1 + put m.cpres.toNat 8 12 + m.trips.toNat

/-- The registers of 21 Table 21-7; HUB_DBG_NONCE has a row of its own. -/
def Sec.read (x : Sec) (k : Nat) : Option Nat :=
  match k with
  | 0 => some (put (b2n x.idDone) 63 1 + put (b2n x.hubBad) 62 1 + put (b2n x.debug) 61 1 + put (b2n x.recovery) 60 1 +
      put x.idFails.toNat 52 8 + put x.dcaps.toNat 48 4)
  | 1 => some (x.idFail.toNat % 2 ^ 64)
  | 2 => some (x.idFail.toNat / 2 ^ 64)
  | 3 => some (put x.stage.toNat 60 4 + put x.bank.toNat 59 1 + put (b2n x.ucPend) 58 1 + put x.svnFuse.toNat 52 6 +
      put x.keyRev.toNat 48 4 + put x.recvd.toNat 36 12 + x.version.toNat)
  | 4 => some (put (b2n x.lock) 63 1 + x.fails.toNat)
  | 5 => some (Config.nonce x.draws).toNat
  | _ => none

/-- HUB_BOOT_STAT and HUB_RST_STAT (23 Table 23-2). -/
def HostIf.bootStat (x : HostIf) : Nat :=
  put x.bootStep.toNat 60 4 + put (b2n x.vstore) 59 1 + put x.pwrFail.toNat 43 16 + put x.chFail.toNat 27 16 + put x.stFail.toNat 11 16 +
    x.elapsed.toNat
def HostIf.rstStat (x : HostIf) : Nat := put x.rstLast.toNat 60 4 + put x.warms.toNat 16 16

/-! ### Links (16 Tables 16-3, 16-5, 16-8) -/

def Port.cfg (p : Port) : Nat := put p.dir.toNat 28 4 + put p.lanethr.toNat 20 4
def Port.exp (p : Port) : Nat := put (b2n p.check) 63 1 + put p.expLink.toNat 52 6 + p.expId.toNat
def Port.nbr (p : Port) : Nat :=
  put (b2n p.nbrValid) 63 1 + put p.ndir.toNat 59 4 + put (b2n p.nspare) 58 1 + put p.nlink.toNat 52 6 + put p.npos.toNat 36 16 +
    p.nphysid.toNat

/-- CARRIER: the link that carries the home channels of link `l`, itself where there are none. -/
def Links.carrierOf (x : Links) (l : Nat) : Nat :=
  let d := (vget x.ports l (Port.init l)).dirNow.toNat
  if 1 < d then l else (x.carrier d ((x.ofDir d).idxOf l)).getD l

def Links.linkStat (x : Links) (l : Nat) : Nat :=
  let p := vget x.ports l (Port.init l)
  put p.st.code 60 4 + put p.mwreason.toNat 56 4 + put p.laneok.toNat 51 5 + put p.spared.toNat 48 3 + put (x.carrierOf l) 42 6 +
    p.retry.toNat

def ChBind.read (b : ChBind) : Nat := put (b2n b.bound) 31 1 + put (b2n b.abandoned) 30 1 + put b.ctx.toNat 8 16

/-! ### BAR0 (18 Table 18-2) -/

/-- The register at an offset that is a multiple of 8; none where the offset is reserved. -/
def State.reg? (s : State) (o : Nat) : Option Nat :=
  let x := s.hw.host
  if o < 0x1000 then
    match o / 8 with
    | 0 => some 0x0D01064C00000000
    | 1 => some Config.hubSerial.toNat
    | 2 => some (put (b2n x.ready) 63 1 + put (b2n x.handover) 62 1)
    | _ => none
  else if o < 0x3000 then
    let r := (o - 0x1000) / 0x20
    if r < 130 then some ((s.hw.ring r).read ((o - 0x1000) % 0x20 / 8)) else none
  else if o = 0x3000 then some s.hw.links.szlId
  else if o < 0x4000 then none
  else if o < 0x4800 then some (s.hw.redStat ((o - 0x4000) / 8))
  else if o < 0x5000 then none
  else if o < 0x5200 then some (vget s.hw.links.ovr ((o - 0x5000) / 8) 0).toNat
  else if o < 0x10000 then none
  else if o < 0x20000 then
    match (o - 0x10000) / 8 with
    | 0 => some s.power.cfg.read
    | 1 => some s.power.stat
    | 2 => some s.power.grantReg
    | 3 => some (vget s.power.tol 0 0).toNat
    | 4 => some (vget s.power.tol 1 0).toNat
    | 5 => some (vget s.power.tol 2 0).toNat
    | 6 => some (vget s.power.tol 3 0).toNat
    | 32 => some s.power.mod.stat
    | _ => none
  else if o < 0x30000 then s.sec.read ((o - 0x20000) / 8)
  else if o < 0x40000 then
    match (o - 0x30000) / 8 with
    | 0 => some x.bootStat
    | 1 => some x.rstStat
    | _ => none
  else if o < 0xAB200 then some (s.hw.counter ((o - 0x40000) / 8)).toNat
  else if o < 0xB0000 then none
  else if o < 0xB0380 then
    some ((vget s.hw.ctr.filt ((o - 0xB0000) / 0x20) 0).toNat / 2 ^ (64 * ((o - 0xB0000) % 0x20 / 8)) % 2 ^ 64)
  else if o < 0x100000 then none
  else if o < 0x200000 then s.readDie ((o - 0x100000) / 0x10000) ((o - 0x100000) % 0x10000)
  else if o < 0x203000 then
    let l := (o - 0x200000) / 0x100
    match (o - 0x200000) % 0x100 / 8 with
    | 0 => some (s.hw.port l).cfg
    | 1 => some (s.hw.port l).exp
    | 2 => some (s.hw.port l).nbr
    | 3 => some (s.hw.links.linkStat l)
    | _ => none
  else if o < 0x210000 then none
  else if o < 0x210400 then some (s.hw.chb ((o - 0x210000) / 8)).read
  else if o < 0x400000 then none
  else if o < 0x401000 then
    let v := (o - 0x400000) / 16
    some (if o % 16 = 0 then (vget x.msixAddr v 0).toNat else (vget x.msixData v 0).toNat + put (b2n (bit x.msixMask v)) 32 1)
  else if o < 0x401020 then some (x.msixPend.toNat / 2 ^ (8 * (o - 0x401000)) % 2 ^ 64)
  else none

/-- An aligned read of 8 bytes; reserved offsets read zero. -/
def State.readReg (s : State) (o : Nat) : Word64 := BitVec.ofNat 64 ((s.reg? o).getD 0)

end Sys2Proof.Machine
end

