-- ==== Sys2Proof/Machine/RegWrite.lean ====
section
/-! DEFINITION. Register writes, ring configuration, doorbells and MSI-X (18:R375-R379, 00:R13, R14). -/

namespace Sys2Proof.Machine

/-! ### Rings (18:R377) -/

def ringErr (h : Hw) : Hw := h.raiseHub 0x0101 0x67

/-- The fields of HUB_RING_CFG other than EN, as a write applies them. -/
def Ring.withCfg (g : Ring) (r : Nat) (v : Word64) : Ring :=
  { g with
    log2 := BitVec.ofNat 4 (max 4 (fld v 59 56))
    target := BitVec.ofNat 8 (if r < 64 then min 63 (fld v 55 48) else fld v 55 48)
    irqen := bit v 47, cnt := BitVec.ofNat 16 (fld v 31 16), timeus := BitVec.ofNat 16 (fld v 15 0) }

/-- EN goes to 1: HEAD and TAIL are 0. -/
def Ring.start (g : Ring) : Ring :=
  { g with head := 0, tail := 0, st := .running, since := 0, waited := false, lost := 0 }

/-- A consumer ring has written what waits for it; a submission ring does nothing here. -/
def Hw.drainRing (h : Hw) (r : Nat) : Hw := if r < 64 then h else h.hostEv fun x => x.drain r

/-- EN is set: a submission ring needs its target completion ring enabled. -/
def Hw.ringStart (h : Hw) (r : Nat) : Hw :=
  if r < 64 && !(h.ring (64 + (h.ring r).target.toNat)).en then ringErr h
  else (h.updRing r Ring.start).drainRing r

/-- EN is cleared. -/
def Hw.ringStop (h : Hw) (r : Nat) : Hw :=
  if r < 64 then
    let busy := h.host.cmds.any fun c => c.q.val == r
    h.updRing r fun g => { g with st := if busy then .draining else .disabled }
  else if r < 128 then
    let used := (List.range 64).any fun q => let g := h.ring q
      (g.st == .running || g.st == .draining) && 64 + g.target.toNat == r
    if used && (h.ring r).st != .stopped then ringErr h else h.updRing r fun g => { g with st := .disabled }
  else h.updRing r fun g => { g with st := .disabled }

/-- A write of HUB_RING_CFG; one of the low half leaves the high half as it is. -/
def Hw.ringCfg (h : Hw) (r : Nat) (v : Word64) (hi : Bool := true) : Hw :=
  let g := h.ring r
  let on := if hi then bit v 63 else g.en
  let g2 := if hi then g.withCfg r v else { g with cnt := BitVec.ofNat 16 (fld v 31 16), timeus := BitVec.ofNat 16 (fld v 15 0) }
  if g.en then
    let h := if g2 == g then h else ringErr h
    if on then h else h.ringStop r
  else
    let h := h.updRing r fun _ => g2
    if on then h.ringStart r else h

/-- A write of HUB_RING_BASE or HUB_RING_WB. -/
def Hw.ringAddr (h : Hw) (r : Nat) (wb : Bool) (v : Word64) : Hw :=
  let g := h.ring r
  let v := if wb then setFld v 2 0 0 else setFld v 11 0 0
  if (if wb then g.wb else g.base) = v then h
  else if g.en then ringErr h
  else h.updRing r fun g => if wb then { g with wb := v } else { g with base := v }

/-- RING_ENABLE (18:R377). -/
def execRingEnable (r : Fin 130) (v : Word64) (s : State) : Out :=
  .next (s.onHw fun h => h.ringCfg r.val (v ||| (1#64 <<< 63)))

/-- RING_DISABLE (18:R377). -/
def execRingDisable (r : Fin 130) (v : Word64) (s : State) : Out :=
  .next (s.onHw fun h => h.ringCfg r.val (setFld v 63 63 0))

/-- A doorbell is ignored (18:R378). -/
def Hw.doorbellBad (h : Hw) : Hw := h.raiseHub 0x0102 0x67

/-- Doorbell of a submission ring: INDEX is the new TAIL. -/
def Hw.doorbellSq (h : Hw) (q index : Nat) : Hw :=
  let g := h.ring q
  let m := g.size
  let ahead (i : Nat) : Nat := (i + m - g.tail.toNat) % m
  if g.st != .running || m ≤ index || ahead (g.head.toNat + m - 1) < ahead index then h.doorbellBad
  else h.updRing q fun g => { g with tail := BitVec.ofNat 16 index }

/-- Doorbell of a consumer ring: INDEX is the new HEAD, and what waited is written. -/
def Hw.doorbellCq (h : Hw) (r index : Nat) : Hw :=
  let g := h.ring r
  let m := g.size
  let ahead (i : Nat) : Nat := (i + m - g.head.toNat) % m
  if g.st != .running || m ≤ index || ahead g.tail.toNat < ahead index then h.doorbellBad
  else (h.updRing r fun g => { g with head := BitVec.ofNat 16 index }).drainRing r

/-- SUBMISSION_DOORBELL (18:R378); a doorbell wakes a module in standby (19:R412). -/
def execSubmissionDoorbell (q : Fin 64) (v : BitVec 32) (s : State) : Out :=
  .next ((s.wakeUnit .standby).onHw fun h => h.doorbellSq q.val (fld v 15 0))

/-- CONSUMER_DOORBELL (18:R378). -/
def execConsumerDoorbell (k : Fin 66) (v : BitVec 32) (s : State) : Out :=
  .next ((s.wakeUnit .standby).onHw fun h => h.doorbellCq (64 + k.val) (fld v 15 0))

/-! ### MSI-X (18:R379) -/

/-- MSIX_TIMER_EXPIRE (18:R379). -/
def execMsixTimerExpire (r : Fin 130) (s : State) : Out :=
  .next (s.onHw fun h =>
    let g := h.ring r.val
    if r.val < 64 || !g.irqen || g.since = 0 || g.timeus = 0 then h
    else h.hostEv fun x => ({ x with rings := vupd x.rings r.val fun g => { g with since := 0 } }).message g.target.toNat)

/-- A pending message of a vector that may send is sent. -/
def HostIf.sendPending (x : HostIf) (v : Nat) : HostIf :=
  if bit x.msixPend v && !bit x.msixMask v && x.bme then ({ x with msixPend := setFld x.msixPend v v 0 }).message v else x

def HostIf.unmask (x : HostIf) (v : Nat) : HostIf := ({ x with msixMask := setFld x.msixMask v v 0 }).sendPending v

/-- MSIX_VECTOR_UNMASK (18:R379). -/
def execMsixVectorUnmask (v : Fin 256) (s : State) : Out := .next (s.onHw fun h => h.hostEv fun x => x.unmask v.val)

/-! ### Registers of compute dies and links -/

/-- A write of CD_HZM_CTRL: ENABLE going from 0 to 1 clears HEAD, FULL and DROPPED (02 Table 2-4). -/
def Hzm.write (z : Hzm) (v : Nat) : Hzm :=
  let on := natFld v 0 1 = 1
  let y : Hzm := { z with
    logSize := BitVec.ofNat 4 (min 6 (natFld v 4 4)), unordered := natFld v 3 1 == 1, early := natFld v 2 1 == 1
    wrap := natFld v 1 1 == 1, enable := on }
  if on && !z.enable then { y with dropped := 0, full := false, head := 0 } else y

/-- HAZARD_MONITOR_ENABLE (02:R48). -/
def execHazardMonitorEnable (d : Fin 16) (v : BitVec 32) (s : State) : Out :=
  .next (s.onHw fun h => h.updDie d.val fun x => { x with hzm := x.hzm.write ((v ||| 1#32).toNat) })

/-- A write of LD_CHBIND: a channel opens only where ABANDONED was 0 (16 Table 16-3). -/
def ChBind.write (b : ChBind) (v : Nat) : ChBind :=
  let on := natFld v 31 1 = 1
  { b with bound := on, opened := on && !b.abandoned, abandoned := b.abandoned && natFld v 30 1 ≠ 1
           ctx := BitVec.ofNat 16 (natFld v 8 16) }

def Hw.writeChb (h : Hw) (k v : Nat) : Hw := h.onLinks fun x => { x with chb := vupd x.chb k fun b => b.write v }

/-- CHANNEL_BIND (16:R335). -/
def execChannelBind (k : Fin 128) (v : BitVec 32) (s : State) : Out :=
  .next (s.onHw fun h => h.writeChb k.val (v ||| 0x80000000#32).toNat)

/-- CHANNEL_ABANDON_CLEAR (16:R335): only the bit is cleared; the channel stays closed until BOUND is written again. -/
def execChannelAbandonClear (k : Fin 128) (s : State) : Out :=
  .next (s.onHw fun h => h.onLinks fun x => { x with chb := vupd x.chb k.val fun b => { b with abandoned := false } })

/-- DIR as a write of LD_LINK_CFG applies it (16:R338). -/
def dirApplied (l v : Nat) : Nat :=
  let known := v ≤ 8
  let ok := if l < 16 then decide (v ≤ 1) else if l < 46 then decide (2 ≤ v) else true
  if known && ok then v else 0xF

/-- A write of HUB_SZL_ID, ignored while a commit or a handover is in progress (21:R446). -/
def State.writeId (s : State) (v : Word64) : State :=
  if s.sec.idHeld then s
  else s.onLinks fun x => x.setId fun x => { x with
    idValid := bit v 53, spare := bit v 52, lpos := BitVec.ofNat 16 (fld v 51 36), physid := BitVec.ofNat 20 (fld v 19 0) }

/-- SZL_ID_WRITE (21:R446). -/
def execSzlIdWrite (v : Word64) (s : State) : Out := .next (s.writeId v)

/-! ### A register write (00:R13, R14) -/

/-- The halves of a register that an access names. -/
structure Halves where
  lo : Bool
  hi : Bool
  deriving DecidableEq, Repr

/-- Written bytes over what the register holds. -/
def Halves.merge (k : Halves) (old v : Nat) : Nat :=
  (if k.lo then v % 2 ^ 32 else old % 2 ^ 32) + 2 ^ 32 * (if k.hi then v / 2 ^ 32 % 2 ^ 32 else old / 2 ^ 32 % 2 ^ 32)

/-- HUB_PWR_CFG: GSRC is taken once, the rest clamped (19 Table 19-3); LDTOL and the ceiling follow. -/
def State.writePwr (s : State) (k : Halves) (v : Nat) : State :=
  let c := s.power.cfg
  let c := if k.hi then c.setGsrc (natFld v 62 2) else c
  (s.onCfg fun _ => { c with
    fsgrant := BitVec.ofNat 16 (clampTo 800 4200 (natFld v 32 16)).1, gtmo := BitVec.ofNat 16 (min 60000 (natFld v 16 16))
    reclaim := natFld v 8 1 == 1, vmax := BitVec.ofNat 6 (min 60 (natFld v 0 6)) }).settle

/-- HUB_FW_LOCK (21:R449), as its own rows write it; a half that is not written gives KEY zeros. -/
def State.writeLock (s : State) (k : Halves) (v : Nat) : State :=
  if !k.hi then s
  else
    let key := BitVec.ofNat 32 (natFld v 16 32)
    if v.testBit 63 then (if s.sec.lock then s else s.onSec fun x => { x with lock := true, key := key })
    else if !s.sec.lock || s.sec.fails = 15 then s
    else if key = s.sec.key then s.onSec fun x => { x with lock := false }
    else (s.onSec fun x => { x with fails := x.fails + 1 }).onHw fun h => h.raiseHub 0x120A 0x65

/-- A register of a compute die. -/
def Hw.writeDie (h : Hw) (n o : Nat) (k : Halves) (v : Nat) : Hw :=
  match o / 8 with
  | 3 => if k.lo then h.updDie n fun d => { d with hzm := d.hzm.write v } else h
  | 4 => h.updDie n fun d => { d with hzm := { d.hzm with base := BitVec.ofNat 36 (natFld v 12 36) } }
  | 6 => h.updDie n fun d => { d with skipBase := BitVec.ofNat 36 (natFld v 12 36) }
  | 7 => if k.lo && v.testBit 31 then h.mcastFault n else h
  | 10 => if k.lo then h.updStk n fun x => { x with scrub := BitVec.ofNat 16 (min 3600 (natFld v 0 16)) } else h
  | _ => h

/-- A register of a link. -/
def Port.write (p : Port) (l o : Nat) (k : Halves) (v : Nat) : Port :=
  match o / 8 with
  | 0 => if k.lo then { p with dir := BitVec.ofNat 4 (dirApplied l (natFld v 28 4)), lanethr := BitVec.ofNat 4 (natFld v 20 4) } else p
  | 1 => { p with check := v.testBit 63, expLink := BitVec.ofNat 6 (natFld v 52 6), expId := BitVec.ofNat 20 (natFld v 0 20) }
  | _ => p

/-- Bits of HUB_ROUTE_OVR that are not reserved (16 Table 16-6). -/
def ovBits : Word64 := 0xFCFFFFF0FFFFFFFF#64

/-- One MSI-X table entry of 16 bytes: address, then data and the mask bit. -/
def HostIf.writeMsix (x : HostIf) (o : Nat) (v : Nat) : HostIf :=
  let n := o / 16
  if o % 16 = 0 then { x with msixAddr := vupd x.msixAddr n fun _ => BitVec.ofNat 64 v }
  else
    let x := { x with msixData := vupd x.msixData n fun _ => BitVec.ofNat 32 v }
    if v.testBit 32 then { x with msixMask := setFld x.msixMask n n 1 } else x.unmask n

/-- The register at offset `o`, a multiple of 8 that holds one, takes the halves that are written. -/
def State.writeReg (s : State) (o : Nat) (k : Halves) (v : Nat) : State :=
  let v := k.merge ((s.reg? o).getD 0) v
  let w := BitVec.ofNat 64 v
  if o < 0x1000 then s
  else if o < 0x3000 then
    let r := (o - 0x1000) / 0x20
    match (o - 0x1000) % 0x20 / 8 with
    | 0 => s.onHw fun h => h.ringAddr r false w
    | 1 => s.onHw fun h => h.ringCfg r w k.hi
    | 2 => s.onHw fun h => h.ringAddr r true w
    | _ => s
  else if o = 0x3000 then s.writeId w
  else if o < 0x5000 then s
  else if o < 0x5200 then
    s.onHw fun h => (h.onLinks fun x => { x with ovr := vupd x.ovr ((o - 0x5000) / 8) fun _ => w &&& ovBits }).retryFlits
  else if o = 0x10000 then s.writePwr k v
  else if o = 0x20020 then s.writeLock k v
  else if o < 0x100000 then s
  else if o < 0x200000 then s.onHw fun h => h.writeDie ((o - 0x100000) / 0x10000) ((o - 0x100000) % 0x10000) k v
  else if o < 0x210000 then
    let l := (o - 0x200000) / 0x100
    s.onHw fun h => h.updPort l fun p => p.write l ((o - 0x200000) % 0x100) k v
  else if o < 0x400000 then (if k.lo then s.onHw fun h => h.writeChb ((o - 0x210000) / 8) v else s)
  else if o < 0x401000 then s.onHw fun h => h.hostEv fun x => x.writeMsix (o - 0x400000) v
  else s

/-- An access that BAR0 does not support: the first since a reset is reported (18:R375). -/
def Hw.barBad (h : Hw) : Hw :=
  if h.host.barSeen then h else (h.onHost fun x => { x with barSeen := true }).raiseHub 0x0106 0x60

/-- A write of 4 or 8 bytes; `v` holds the bytes from its low end. -/
def State.barWrite (s : State) (off : Nat) (wide : Bool) (v : Nat) : State :=
  let o := off / 8 * 8
  if off % (if wide then 8 else 4) ≠ 0 || (s.reg? o).isNone then s.onHw Hw.barBad
  else if wide then s.writeReg o ⟨true, true⟩ v
  else if off % 8 = 0 then s.writeReg o ⟨true, false⟩ (v % 2 ^ 32)
  else s.writeReg o ⟨false, true⟩ (2 ^ 32 * (v % 2 ^ 32))

/-- REGISTER_WRITE (00:R13, 18:R375). -/
def execRegisterWrite (off : Nat) (wide : Bool) (v : Word64) (s : State) : Out := .next (s.barWrite off wide v.toNat)

/-- BAR_UNSUPPORTED_ACCESS (18:R375). -/
def execBarUnsupportedAccess (_off : Nat) (_write : Bool) (s : State) : Out := .next (s.onHw Hw.barBad)

/-! ### PCI Express (18:R372, R392, 24:R473) -/

/-- D3HOT_REQUEST (18:R372): it takes effect only while no context exists. -/
def execD3hotRequest (s : State) : Out :=
  .next (if s.hw.chip.ctxs.isEmpty then s.onHw fun h => h.onHost fun x => { x with d3hot := true } else s)

/-- POWER_STATE_D0 (24:R473). -/
def execPowerStateD0 (s : State) : Out :=
  .next (s.onHw fun h => h.onHost fun x => { x with d3hot := false, wake := false })

/-- PCIE_LINK_TRAINED (18:R392, 23:R461): the link trains while PERST# is deasserted. -/
def execPcieLinkTrained (degraded : Bool) (s : State) : Out :=
  .next (if s.hw.host.perst then s
    else
      let s := s.onHw fun h => h.onHost fun x => { x with pcieUp := true }
      if degraded then s.onHw fun h => h.raiseHub 0x0108 0x60 else s)

/-- AER_UNCORRECTABLE_ERROR (18:R392). -/
def execAerUncorrectableError (s : State) : Out := .next (s.onHw fun h => h.raiseHub 0x0109 0x60)

end Sys2Proof.Machine
end

