-- ==== Sys2Proof/Machine/Waypoints.lean ====
section
/-! DEFINITION. Waypoints: takes, buddy regions and restores (20:R421-R432). -/

namespace Sys2Proof.Machine

/-! ### Extents, regions and slots (20 Tables 20-4 to 20-7) -/

/-- Fields of an extent entry. -/
def exStack (e : Word64) : Nat := fld e 63 60
def exWhole (e : Word64) : Bool := bit e 59
def exLen (e : Word64) : Nat := fld e 32 16
def exOff (e : Word64) : Nat := fld e 15 0

/-- The argument block: one word of eight bytes. -/
def wpArg (arg : List Byte) (i : Nat) : Nat := leAt arg (8 * i) 8
def wpWorkva (arg : List Byte) : Nat := wpArg arg 0
def wpHostbase (arg : List Byte) : Nat := wpArg arg 1
def wpHostlen (arg : List Byte) : Nat := wpArg arg 2
def wpNext (arg : List Byte) : Nat := natFld (wpArg arg 3) 0 5
def wpExtent (arg : List Byte) (k : Nat) : Word64 := BitVec.ofNat 64 (wpArg arg (4 + k))
def wpExtents (arg : List Byte) : List Word64 := (List.range (wpNext arg)).map (wpExtent arg)

/-- Body fields. -/
def wpDesth (w : Word512) : Bool := bit w 383
def wpFull (w : Word512) : Bool := bit w 382
def wpDsem (w : Word512) : BitVec 6 := BitVec.ofNat 6 (fld w 381 376)
def wpCsem (w : Word512) : BitVec 6 := BitVec.ofNat 6 (fld w 375 370)
def wpRegion (w : Word512) : BitVec 4 := BitVec.ofNat 4 (fld w 369 366)
def wpPos (w : Word512) : BitVec 16 := BitVec.ofNat 16 (fld w 365 350)
def wpReqgen (w : Word512) : Word32 := BitVec.ofNat 32 (fld w 349 318)

/-- 64 KiB units of a die part. -/
def partUnits : Nat := 2064

/-- Length of a slot in 64 KiB units (20 Table 20-6). -/
def slotUnits (dies : Nat) (ex : List Word64) : Nat := 1 + partUnits * dies + (ex.map exLen).foldl (· + ·) 0

/-- The memory in which a region lies: host memory, or what this module has written to a buddy's region. -/
def Hw.regMem (h : Hw) (host : Bool) (pos : BitVec 16) (region : BitVec 4) : Memory :=
  if host then h.host.mem else alGet [] h.chip.remote (16 * pos.toNat + region.toNat)

def Hw.setRegMem (h : Hw) (host : Bool) (pos : BitVec 16) (region : BitVec 4) (m : Memory) : Hw :=
  if host then h.onHost fun x => { x with mem := m }
  else h.onChip fun c => { c with remote := alPut c.remote (16 * pos.toNat + region.toNat) m }

/-- A slot header with its validity (20 Table 20-7). -/
def slotHeader (valid : Bool) (c : Ctx) (gen : Word32) (owner : BitVec 16) (ex : List Word64) : Nat :=
  let ents := (List.range c.ents.length).zip c.ents
  put 0x47575031 3552 32 + put (b2n valid) 3551 1 + put c.ents.length 3546 5 + put ex.length 3541 5 + put c.role.toNat 3538 3 +
    put c.num.toNat 3520 16 + put gen.toNat 3488 32 + put owner.toNat 3472 16 + put (slotUnits c.ents.length ex) 3440 32 +
    (ents.map fun e => (put e.2.die.val 120 8 + put e.2.saveOff.toNat 104 16 + put e.2.imgBase.toNat 48 48 +
      put e.2.saveBase.toNat 0 48) <<< (1024 + 128 * e.1)).foldl (· + ·) 0 +
    (((List.range ex.length).zip ex).map fun e => put e.2.toNat (64 * e.1) 64).foldl (· + ·) 0

/-- The 452 bytes of a header and its CRC. -/
def headerBytes (x : Nat) : List Byte := let b := leBytes 448 x; b ++ leBytes 4 (crc32c b)

/-- The header at an address, when it is whole. -/
def headerAt (m : Memory) (a : Nat) : Option Nat :=
  let b := m.readN a 448
  let x := leNat b
  if natFld x 3552 32 = 0x47575031 && m.readLE (a + 448) 4 = crc32c b then some x else none

def shValid (x : Nat) : Bool := x.testBit 3551
def shNdies (x : Nat) : Nat := natFld x 3546 5
def shNrange (x : Nat) : Nat := natFld x 3541 5
def shRole (x : Nat) : BitVec 3 := BitVec.ofNat 3 (natFld x 3538 3)
def shGen (x : Nat) : Word32 := BitVec.ofNat 32 (natFld x 3488 32)
def shUnits (x : Nat) : Nat := natFld x 3440 32
def shDie (x d : Nat) : Nat := natFld x (1024 + 128 * d) 128
def shExtents (x : Nat) : List Word64 := (List.range (shNrange x)).map fun k => BitVec.ofNat 64 (natFld x (64 * k) 64)

/-- Generation `a` is newer than `b` (20:R429). -/
def newerGen (a b : Word32) : Bool := decide (1 ≤ (a - b).toNat) && decide ((a - b).toNat < 2 ^ 31)

/-- The header of a slot when it is valid. -/
def validAt (m : Memory) (a : Nat) : Option Nat := (headerAt m a).filter shValid

/-- The slot that does not hold the newest valid generation: true for B (20:R425). -/
def targetB (a b : Option Nat) : Bool :=
  match a, b with
  | some x, some y => !newerGen (shGen y) (shGen x)
  | some _, none => true
  | none, _ => false

/-- One above the newest valid generation; the first is 1. -/
def nextGen (a b : Option Nat) : Word32 :=
  match a, b with
  | some x, some y => (if newerGen (shGen y) (shGen x) then shGen y else shGen x) + 1
  | some x, none => shGen x + 1
  | none, some y => shGen y + 1
  | none, none => 1

/-- Extents overlap. -/
def exMeet (a b : Word64) : Bool :=
  exStack a == exStack b && decide (exOff a < exOff b + exLen b) && decide (exOff b < exOff a + exLen a)

def exOverlap : List Word64 → Bool
  | [] => false
  | a :: r => r.any (exMeet a) || exOverlap r

/-- Extents out of range, beyond their stack or overlapping (reason 0x03). -/
def exBad (arg : List Byte) : Bool :=
  let ex := wpExtents arg
  wpNext arg = 0 || 16 < wpNext arg || (ex.any fun e => exLen e = 0 || 65536 < exOff e + exLen e) || exOverlap ex

/-- Reserved bits of the extents in use, and the entries not in use, are zero. -/
def exReserved (arg : List Byte) : Bool :=
  natFld (wpArg arg 3) 5 59 ≠ 0 || (List.range 16).any fun k =>
    if k < wpNext arg then fld (wpExtent arg k) 58 33 ≠ 0 else wpExtent arg k ≠ 0

/-! ### Leaves of a context (14 Table 14-2) -/

/-- Entries of a table of `n` entries that are not zero: offset and entry. -/
def Stack.entriesOf (k : Stack) (off n : Nat) : List (Nat × Nat) :=
  let cells := (k.mem.filter fun e => decide (off ≤ e.1) && decide (e.1 < off + 8 * n)).map fun e => off + (e.1 - off) / 8 * 8
  (cells.foldr (fun a r => match r with | [] => [a] | b :: _ => if a = b then r else a :: r) []).map fun a => (a, k.mem.readLE a 8)

def levelEntries (level : Nat) : Nat := if level = 1 then 1024 else if level = 2 then 8192 else 512

/-- Leaves under a table of die `n`: where the entry lies, and the stack memory it maps. -/
def Hw.leavesFrom (h : Hw) (n : Nat) : Nat → Nat → Nat → Nat → List Leaf
  | 0, _, _, _ => []
  | fuel + 1, level, s, off =>
    ((h.stk s).entriesOf off (levelEntries level)).flatMap fun e =>
      if !teV e.2 || teMalformed level e.2 then []
      else if teLeaf e.2 then (if teTgt e.2 = 2 then [] else [mkLeaf n level e.2 s e.1])
      else Hw.leavesFrom h n fuel (level + 1) ((teStackOf n e.2).getD 0) (teAddr e.2 * 4096)

/-- Stack leaves of every die of a context. -/
def Hw.ctxLeaves (h : Hw) (c : Ctx) : List Leaf :=
  c.ents.flatMap fun e => let r := h.entRoot e; h.leavesFrom e.die.val 3 1 r.stk r.off

/-- An extent is mapped by a context (reason 0x08). -/
def Hw.exMapped (h : Hw) (ex : List Word64) : Bool :=
  h.chip.ctxs.any fun c => (h.ctxLeaves c).any fun l => ex.any fun e =>
    exStack e == l.stk && decide (65536 * exOff e < l.base + l.size) && decide (l.base < 65536 * (exOff e + exLen e))

/-! ### What a take copies (20:R421, R425) -/

/-- 64 KiB pages of stacks that carry D = 1 within the ranges that are not copied whole. -/
def Hw.dirtyPages (h : Hw) (c : Ctx) (ex : List Word64) : List (Nat × Nat) :=
  let inRange (s p : Nat) : Bool := ex.any fun e => !exWhole e && exStack e == s && decide (exOff e ≤ p) && decide (p < exOff e + exLen e)
  ((h.ctxLeaves c).filter fun l => teD l.entry).foldl (fun a l =>
    (List.range (l.size / 65536)).foldl (fun a i =>
      let p := l.base / 65536 + i
      if inRange l.stk p && !a.contains (l.stk, p) then a ++ [(l.stk, p)] else a) a) []

/-- Work of a take, for the counters (22:R454). -/
def wpWho : Who := ⟨.firmware, 11, srcBytes 99 0xFF 0x62⟩

/-- D is cleared in the leaves that a take copied (14:R296): those whose pages lie in its ranges. -/
def Hw.clearD (h : Hw) (c : Ctx) (ex : List Word64) : Hw :=
  let covered (l : Leaf) : Bool := ex.any fun e => exStack e == l.stk && decide (65536 * exOff e ≤ l.base) &&
    decide (l.base + l.size ≤ 65536 * (exOff e + exLen e))
  ((h.ctxLeaves c).filter fun l => teD l.entry && covered l).foldl (fun h l =>
    h.stkPut l.atStk l.atOff (leBytes 8 (l.entry - 2 ^ 57)) wpWho) h

/-- Entries that the work area can list. -/
def workMax : Nat := 2 ^ 20

/-- The page list of the work area (log 15, DEDUCED): a count, and from 1 MiB on 16 bytes for each page. -/
def Hw.workList (h : Hw) (n : Nat) (root : Root) (va : Nat) : List (Nat × Nat) :=
  match h.vaReadR n root va 8 wpWho with
  | .error _ => []
  | .ok r =>
    let k := min workMax (leNat r.1)
    match h.vaReadR n root (va + 2 ^ 20) (16 * k) wpWho with
    | .error _ => []
    | .ok r => (List.range k).map fun i => (leAt r.1 (16 * i + 8) 8, leAt r.1 (16 * i) 8)

def Hw.setWorkList (h : Hw) (n : Nat) (root : Root) (va : Nat) (l : List (Nat × Nat)) : Hw :=
  let b := l.flatMap fun p => leBytes 8 p.2 ++ leBytes 8 p.1
  match h.vaWriteR n root (va + 2 ^ 20) b wpWho with
  | .error _ => h
  | .ok h => match h.vaWriteR n root va (leBytes 8 l.length) wpWho with
    | .ok h => h
    | .error _ => h

/-- The work area is mapped and pinned to one stack on logical die 0. -/
def Hw.workOk (h : Hw) (n : Nat) (root : Root) (va : Nat) : Bool :=
  let l := (pagesOfRange va (17 * 2 ^ 20)).map fun p => match h.walk n root p.1 2 with
    | .ok l => if tePin l.entry && !l.host then some l.stk else none
    | .error _ => none
  va % 65536 == 0 && decide (va + 17 * 2 ^ 20 ≤ 2 ^ 48) && match l with
    | some s :: r => r.all (· == some s)
    | _ => false

/-! ### Helm state in a die part (14 Table 14-7; the layout is the device's own, log 13, DESIGN CHOICE) -/

/-- Fields as (bytes, value), in order. -/
def packFields (l : List (Nat × Nat)) : List Byte := l.flatMap fun e => leBytes e.1 e.2

/-- Entries of each list that the 4 KiB hold. -/
def helmList : Nat := 128

/-- Helm state as a save at the boundary writes it. -/
def helmBytes (x : DieCtx) (segcnt chans : Nat) : List Byte :=
  let m := x.helm
  let fl := m.flags.take helmList
  let st := m.stack.take helmList
  let ld := x.loads.take helmList
  packFields ([(1, m.bank.toNat), (3, m.index.toNat), (1, m.hf.toNat), (2, m.skips.toNat), (6, m.step.toNat), (2, m.epoch.toNat),
      (1, m.statFmt.toNat), (1, b2n (m.st == .idle)), (2, x.coef), (2, segcnt), (1, chans), (2, 0)] ++
    m.lc.toList.map (fun v => (4, v.toNat)) ++ m.lcStart.toList.map (fun v => (4, v.toNat)) ++
    x.sems.toList.map (fun v => (4, v.toNat)) ++
    x.banks.toList.flatMap (fun b => [(1, b2n b.valid), (1, b2n b.drv), (2, b.seg.toNat)]) ++
    [(1, st.length), (1, fl.length), (1, ld.length), (1, 0)] ++ st.map (fun v => (4, v.toNat)) ++
    fl.flatMap (fun f => [(1, f.flag.toNat), (1, b2n (if f.all then f.votes.all (·.2 ≠ 0) else f.votes.any (·.2 ≠ 0))), (6, f.step.toNat)]) ++
    ld.flatMap fun l => [(1, l.bank.toNat), (1, b2n l.drv + 2 * b2n l.held), (2, l.seg.toNat)])

/-- The die's context that the Helm state of a slot gives; every unit is in its launch state. -/
def helmOf (b : List Byte) : DieCtx :=
  let at4 (i : Nat) : Nat := leAt b (24 + 4 * i) 4
  let lists := 24 + 4 * 80 + 8
  let ns := leAt b lists 1
  let nf := leAt b (lists + 1) 1
  let nl := leAt b (lists + 2) 1
  let s0 := lists + 4
  let f0 := s0 + 4 * ns
  let l0 := f0 + 8 * nf
  let lc : Vector Word32 8 := Vector.ofFn fun i => BitVec.ofNat 32 (at4 i.val)
  let lcs : Vector Word32 8 := Vector.ofFn fun i => BitVec.ofNat 32 (at4 (8 + i.val))
  let step : BitVec 48 := BitVec.ofNat 48 (leAt b 7 6)
  { DieCtx.init with
    helm := { Helm.init with
      st := if leAt b 16 1 = 1 then .idle else .waitBank
      bank := BitVec.ofNat 1 (leAt b 0 1)
      index := BitVec.ofNat 17 (leAt b 1 3)
      hf := BitVec.ofNat 8 (leAt b 4 1)
      skips := BitVec.ofNat 9 (leAt b 5 2)
      step := step
      epoch := BitVec.ofNat 16 (leAt b 13 2)
      statFmt := BitVec.ofNat 3 (leAt b 15 1)
      lc := lc
      lcStart := lcs
      stack := (List.range ns).map fun i => BitVec.ofNat 18 (leAt b (s0 + 4 * i) 4)
      flags := (List.range nf).map fun i =>
        ⟨BitVec.ofNat 3 (leAt b (f0 + 8 * i) 1), true, BitVec.ofNat 48 (leAt b (f0 + 8 * i + 2) 6), [(0, leAt b (f0 + 8 * i + 1) 1)]⟩ }
    coef := leAt b 17 2
    sems := Vector.ofFn fun i => BitVec.ofNat 32 (at4 (16 + i.val))
    banks := Vector.ofFn fun i => { IBank.init with
      valid := leAt b (24 + 320 + 4 * i.val) 1 = 1, drv := leAt b (24 + 320 + 4 * i.val + 1) 1 = 1
      seg := BitVec.ofNat 12 (leAt b (24 + 320 + 4 * i.val + 2) 2) }
    loads := (List.range nl).map fun i =>
      { plainLoad (leAt b (l0 + 4 * i) 1) (leAt b (l0 + 4 * i + 2) 2) with
        drv := leAt b (l0 + 4 * i + 1) 1 % 2 = 1, held := 2 ≤ leAt b (l0 + 4 * i + 1) 1 }
    cores := Vector.replicate 32 { Core.init with step := step, lc := lc, lcStart := lcs } }

def helmSegcnt (b : List Byte) : Nat := leAt b 19 2
def helmChans (b : List Byte) : Nat := leAt b 21 1

/-! ### Guard slots in a die part (05:R131; the place and the layout are the model's, log 75, DESIGN CHOICE) -/

/-- Where the guard slots of a die part lie: 8 KiB for each core. -/
def guardOff : Nat := 0x42000

def GuardSt.code : GuardSt → Nat
  | .unverified => 0
  | .verified => 1
  | .local_ => 2

/-- Eight bytes of a guard slot. -/
def guardWord (g : Guard) : Nat := put 1 63 1 + put g.st.code 61 2 + put g.fmt 32 8 + put g.base 0 32

def wordGuard (w : Nat) : Option Guard :=
  if natFld w 63 1 = 0 then none
  else
    let fmt := natFld w 32 8
    some ⟨natFld w 0 32, tileStored fmt, fmt, if natFld w 61 2 = 0 then .unverified else if natFld w 61 2 = 1 then .verified else .local_⟩

/-- The guard slots of a core as a die part holds them, and back. -/
def guardBytes (c : Core) : List Byte := c.guards.flatMap fun g => leBytes 8 (guardWord g)
def guardsOf (m : Memory) (a : Nat) : List Guard := (List.range 1024).filterMap fun i => wordGuard (m.readLE (a + 8 * i) 8)

/-! ### The take (20:R425) -/

/-- A refused Waypoint command (20:R432). -/
def Hw.wpRefuse (h : Hw) (c : Cmd) (r : Nat) : Hw :=
  (h.raise ⟨0x1101, 99, 0xFF, 0x62, r, 0, some (cmCtx c.w)⟩).complete c.id (refusal r 0x1101)

/-- The buddy is the neighbour in X+ or X−. -/
def Hw.isBuddy (h : Hw) (p : BitVec 16) : Bool := p == stepPos h.links.lpos 0 || p == stepPos h.links.lpos 1

/-- Length of the region in 64 KiB units. -/
def wpLen (host : Bool) (c : Cmd) : Nat :=
  if host then wpHostlen c.arg else Config.buddyLen (wpPos c.w).toNat (wpRegion c.w).toNat

/-- Another take, or a restore, of the context is in progress. -/
def Hw.wpBusy (h : Hw) (num : BitVec 16) : Bool := (h.take? num).isSome

/-- Reason for refusing a take, or 0 (20 Table 20-10). -/
def Hw.takeReason (h : Hw) (c : Cmd) (k : Ctx) : Nat :=
  let host := wpDesth c.w
  let units := slotUnits k.ents.length (wpExtents c.arg)
  let e0 := k.ents.headD ⟨0, 0, 0, 0⟩
  if fld c.w 349 0 ≠ 0 || (host && fld c.w 369 350 ≠ 0) || (!host && (wpHostbase c.arg ≠ 0 || wpHostlen c.arg ≠ 0)) ||
      exReserved c.arg then 1
  else if k.st != .running then 2
  else if wpDsem c.w == wpCsem c.w || exBad c.arg then 3
  else if !h.workOk e0.die.val (h.entRoot e0) (wpWorkva c.arg) || (host && wpHostbase c.arg % 65536 ≠ 0) ||
      ((host || (h.isBuddy (wpPos c.w) && wpLen host c ≠ 0)) && wpLen host c < 2 * units) then 4
  else if h.wpBusy k.num then 5
  else if !host && (!h.isBuddy (wpPos c.w) || wpLen host c = 0) then 6
  else 0

/-- Base of a slot in its region's memory. -/
def slotAt (host : Bool) (base : Word64) (half : Nat) (b : Bool) : Nat := (if host then base.toNat else 0) + (if b then half else 0)

def Take.slot (t : Take) (b : Bool) : Nat := slotAt t.host t.hostBase t.half b

/-- The target header is written with VALID = 0: what a completed take left there stays, but for VALID. -/
def Hw.invalidate (h : Hw) (t : Take) : Hw :=
  let m := h.regMem t.host t.buddy t.region
  let a := t.slot t.slotB
  let b := match headerAt m a with
    | some x => headerBytes (x - put (b2n (shValid x)) 3551 1)
    | none => List.replicate 452 0
  h.setRegMem t.host t.buddy t.region (m.writeN a b)

/-! ### Stripes of a buddy take (20:R426; the fields of its flits are the model's, log 15, DESIGN CHOICE) -/

/-- Directions that carry a stripe: the X direction that faces the buddy, then each Y, Z and W direction; only those with an Up link. -/
def Hw.stripeDirs (h : Hw) (buddy : BitVec 16) : List Nat :=
  ((if buddy == stepPos h.links.lpos 0 then 0 else 1) :: [2, 3, 4, 5, 6, 7]).filter fun d => !(h.links.upOf d).isEmpty

/-- The directions by turns, each once for each of its links: stripes in proportion to link count. -/
def Hw.stripeTurns (h : Hw) (buddy : BitVec 16) : List Nat :=
  (h.stripeDirs buddy).flatMap fun d => List.replicate (h.links.upOf d).length d

/-- A bulk flit that writes bytes at an offset of the take's region; in Y, Z and W it goes through the neighbour there, with ORDER 0. -/
def Hw.stripeFlit (h : Hw) (t : Take) (d off : Nat) (data : List Byte) : Flit :=
  let f : Flit := ⟨flitHeader 2 0 t.buddy h.links.lpos 99 0 1 data.length (put t.region.toNat 39 4 + put off 0 39), data, 0⟩
  if d < 2 then f else setVia f 1 0 (stepPos h.links.lpos d).toNat

/-- Bytes of the take's region move to the buddy, 224 in a flit, on the stripes by turns. -/
def Hw.stripe (h : Hw) (t : Take) (m : Memory) (off len : Nat) : Hw :=
  let turns := h.stripeTurns t.buddy
  if t.host || turns.isEmpty then h
  else (List.range ((len + 223) / 224)).foldl (fun h i =>
    let o := off + 224 * i
    h.routeFlit (h.stripeFlit t (turns.getD ((off / 224 + i) % turns.length) 0) o (m.readN o (min 224 (len - 224 * i))))) h

/-- A take is accepted. -/
def Hw.wpTake (h : Hw) (c : Cmd) : Hw :=
  match h.ctx? (cmCtx c.w) with
  | none => h
  | some k =>
    let r := h.takeReason c k
    if r ≠ 0 then h.wpRefuse c r
    else
      let host := wpDesth c.w
      let base : Word64 := BitVec.ofNat 64 (wpHostbase c.arg)
      let half := 32768 * wpLen host c
      let m := h.regMem host (wpPos c.w) (wpRegion c.w)
      let a := validAt m (slotAt host base half false)
      let b := validAt m (slotAt host base half true)
      let t : Take := ⟨k.num, c.id, .declare, host, wpPos c.w, wpRegion c.w, wpFull c.w, wpDsem c.w, wpCsem c.w,
        BitVec.ofNat 48 (wpWorkva c.arg), base, half, wpExtents c.arg, targetB a b, nextGen a b⟩
      let h := h.invalidate t
      (h.stripe t (h.regMem t.host t.buddy t.region) (t.slot t.slotB) 452).onChip fun y => { y with takes := y.takes ++ [t] }

def runWpTake : Run := fun c s => s.onHw fun h => h.wpTake c

/-- WP_TAKE (20:R425). -/
def execWpTake (q : Fin 64) (w : Word512) (s : State) : Out := .next (hostCmd 0xA 0 runWpTake q w s)

/-- The context runs with every die at work. -/
def Hw.ctxRuns (h : Hw) (num : BitVec 16) : Option Ctx :=
  (h.ctx? num).filter fun c => c.st == .running && c.ents.all fun e => h.resident e.die.val num

/-- DSEM holds at least 1 on every die: 1 is taken from each. -/
def Hw.declared (h : Hw) (num : BitVec 16) : Hw :=
  match h.take? num, h.ctxRuns num with
  | some t, some c =>
    let sem := t.dsem.toNat
    if t.st == .declare && c.ents.all fun e => decide (1 ≤ ((h.cx e.die.val).sem sem).toNat) then
      (c.ents.foldl (fun h e => h.updCx e.die.val fun x => { x with sems := vupd x.sems sem fun (v : Word32) => v - 1 }) h).updTake num
        fun t => { t with st := .drain }
    else h
  | _, _ => h

/-- WAYPOINT_DECLARATION_TAKEN (20:R425). -/
def execWaypointDeclarationTaken (ctx : BitVec 16) (s : State) : Out := .next (s.onHw fun h => h.declared ctx)

/-- Every reduction issued on the context's channels has ended: arrivals are held from here on, and the copy starts. -/
def Hw.copyStart (h : Hw) (num : BitVec 16) : Hw :=
  match h.take? num, h.ctxRuns num with
  | some t, some _ =>
    if t.st == .drain && !h.redBusy num then
      ((h.updTake num fun t => { t with st := .copy }).updCtx num fun c => { c with holding := true }).takeRoute
    else h
  | _, _ => h

/-- WAYPOINT_COPY_START (20:R425). -/
def execWaypointCopyStart (ctx : BitVec 16) (s : State) : Out := .next (s.onHw fun h => h.copyStart ctx)

/-- Ranges with their offsets in the slot, in 64 KiB units. -/
def placed (dies : Nat) (ex : List Word64) : List (Word64 × Nat) :=
  (ex.foldl (fun (a : List (Word64 × Nat) × Nat) e => (a.1 ++ [(e, a.2)], a.2 + exLen e)) ([], 1 + partUnits * dies)).1

/-- A piece that a take copies: stack, byte offset there, bytes, byte offset in the slot. -/
structure Piece where
  stk : Nat
  off : Nat
  len : Nat
  dst : Nat
  deriving DecidableEq, Repr

/-- Ranges copied whole, and pages. -/
def takePieces (dies : Nat) (ex : List Word64) (whole : Bool) (pages : List (Nat × Nat)) : List Piece :=
  (placed dies ex).flatMap fun p =>
    let e := p.1
    if whole || exWhole e then [⟨exStack e, 65536 * exOff e, 65536 * exLen e, 65536 * p.2⟩]
    else (pages.filter fun q => q.1 == exStack e && decide (exOff e ≤ q.2) && decide (q.2 < exOff e + exLen e)).map fun q =>
      ⟨q.1, 65536 * q.2, 65536, 65536 * (p.2 + (q.2 - exOff e))⟩

/-- A piece of 64 KiB or more holds a burst that cannot be read; it reaches every channel (13:R276). -/
def Stack.badIn (k : Stack) (off len : Nat) : Bool :=
  (k.badAmong fun b => decide (off ≤ 64 * b + 63) && decide (64 * b < off + len)).isSome || k.chans.any fun c => c.st == .failed

/-- The slot memory with one piece copied in. -/
def Hw.copyPiece (h : Hw) (base : Nat) (m : Memory) (p : Piece) : Memory := m.splice (base + p.dst) p.len (h.stk p.stk).mem p.off

/-- The die part of logical die `d` as a save at the boundary would write it, CSEM already incremented; every write that a core has issued is in its
scratchpad (20:R421, R422, 02:R42). -/
def Hw.copyPart (h : Hw) (c : Ctx) (csem base : Nat) (m : Memory) (p : Nat × DieEnt) : Memory :=
  let n := p.2.die.val
  let x := (h.cx n).addSem csem 1
  let a := base + 65536 * (1 + partUnits * p.1)
  let area := 65536 * p.2.saveOff.toNat
  let hdr := (h.header n p.2.saveOff.toNat).getD 0
  let m := m.splice a 0x40000 (h.stk n).mem area
  let m := m.splice (a + 0x40000) 0x2000 [] 0
  let m := m.writeN (a + 0x40000) (entryBytes (saveHeader x 2 0 0 hdr))
  let m := m.writeN (a + 0x41000) (helmBytes x c.segcnt c.chans.length)
  let m := m.splice (a + guardOff) (2 ^ 18) [] 0
  let m := (List.range 32).foldl (fun (m : Memory) i => m.writeN (a + guardOff + 8192 * i) (guardBytes (x.core i))) m
  m.splice (a + 2 ^ 20) (2 ^ 27) ({ x with cores := x.cores.map fun k => { k with spad := k.landed } } : DieCtx).padImage 0

/-- The copy of a take ends: everything is in the slot, the header is sealed, and the take finishes. To a buddy the die parts, the pieces and then
the header leave as flits, for which some direction must have an Up link (20:R426). -/
def Hw.sealTake (h : Hw) (num : BitVec 16) : Hw :=
  match h.take? num, h.ctxRuns num with
  | some t, some c =>
    if t.st != .copy || h.host.handover || (t.host && !h.host.bme) || (!t.host && (h.stripeTurns t.buddy).isEmpty) then h
    else
      let h := h.wakeEnts c.ents
      let m := h.regMem t.host t.buddy t.region
      let base := t.slot t.slotB
      let gen (b : Bool) : Option Word32 := (headerAt m (t.slot b)).map shGen
      let whole := t.full || c.restored || gen t.slotB = none || gen (!t.slotB) = none ||
        (gen t.slotB).map (· + 1) != gen (!t.slotB)
      let e0 := c.ents.headD ⟨0, 0, 0, 0⟩
      let n0 := e0.die.val
      let root := (h.cx n0).root
      let dirty := h.dirtyPages c t.extents
      let pages := (h.workList n0 root t.workVa.toNat).foldl (fun a p => if a.contains p then a else a ++ [p]) dirty
      let ps := takePieces c.ents.length t.extents whole pages
      let bad := (ps.any fun p => (h.stk p.stk).badIn p.off p.len) ||
        c.ents.any fun e => (h.stk e.die.val).badIn (65536 * e.saveOff.toNat) 0x42000
      if bad then h
      else
        let ents := (List.range c.ents.length).zip c.ents
        let m := ents.foldl (h.copyPart c t.csem.toNat base) m
        let m := ps.foldl (h.copyPiece base) m
        let m := m.writeN base (headerBytes (slotHeader true c t.gen h.links.lpos t.extents))
        let bytes := 65536 * partUnits * c.ents.length + (ps.map (·.len)).foldl (· + ·) 0
        let h := h.setRegMem t.host t.buddy t.region m
        let h := h.stripe t m (base + 65536) (65536 * partUnits * c.ents.length)
        let h := ps.foldl (fun h p => h.stripe t m (base + p.dst) p.len) h
        let h := h.stripe t m base 452
        let h := ps.foldl (fun h p => (h.wakeStk p.stk wpWho).count (ctrDie p.stk 160) p.len wpWho.priv wpWho.cls wpWho.src) h
        let h := (h.clearD c t.extents).setWorkList n0 root t.workVa.toNat dirty
        let h := h.onChip fun y => { y with takes := y.takes.filter fun t => t.ctx != num }
        let h := (h.signalAll num t.csem.toNat).raiseCtx num 0x1103 0x62 (b2n t.slotB) t.gen.toNat
        let h := h.complete t.cmd ⟨0, 0, 0, put t.gen.toNat 224 32 + put (b2n t.slotB) 192 1 + put bytes 128 64⟩
        (h.updCtx num fun c => { c with restored := false }).endHolding num
  | _, _ => h

/-- WAYPOINT_SEAL (20:R425). -/
def execWaypointSeal (ctx : BitVec 16) (s : State) : Out := .next (s.onHw fun h => h.sealTake ctx)

/-! ### Buddy regions of this module (20:R427) -/

/-- Reason for refusing a reservation, or 0. -/
def Hw.reserveReason (h : Hw) (c : Cmd) : Nat :=
  if cmCtx c.w ≠ 0 || fld c.w 383 370 ≠ 0 || fld c.w 349 0 ≠ 0 || wpWorkva c.arg ≠ 0 || wpHostbase c.arg ≠ 0 ||
      wpHostlen c.arg ≠ 0 || exReserved c.arg then 1
  else if exBad c.arg then 3
  else if (wpExtents c.arg).any fun e => h.stkUnavailable (exStack e) then 4
  else if (vget h.chip.regions (wpRegion c.w).toNat ⟨none, []⟩).owner.isSome || h.exMapped (wpExtents c.arg) then 8
  else 0

def Hw.updRegion (h : Hw) (r : Nat) (x : Region) : Hw := h.onChip fun c => { c with regions := vupd c.regions r fun _ => x }

def Hw.wpReserve (h : Hw) (c : Cmd) : Hw :=
  let r := h.reserveReason c
  if r ≠ 0 then h.wpRefuse c r
  else (h.updRegion (wpRegion c.w).toNat ⟨some (wpPos c.w), wpExtents c.arg⟩).complete c.id ⟨0, 0, 0, 0⟩

def runWpReserve : Run := fun c s => s.onHw fun h => h.wpReserve c

/-- WP_RESERVE (20:R427). -/
def execWpReserve (q : Fin 64) (w : Word512) (s : State) : Out := .next (hostCmd 0xA 1 runWpReserve q w s)

/-- The region of a release is free again. -/
def Hw.wpRelease (h : Hw) (c : Cmd) : Hw :=
  let r := (wpRegion c.w).toNat
  if cmCtx c.w ≠ 0 || cmArg c.w ≠ 0 || fld c.w 383 370 ≠ 0 || fld c.w 365 0 ≠ 0 then h.wpRefuse c 1
  else if (vget h.chip.regions r ⟨none, []⟩).owner.isNone then h.wpRefuse c 6
  else (h.updRegion r ⟨none, []⟩).complete c.id ⟨0, 0, 0, 0⟩

def runWpRelease : Run := fun c s => s.onHw fun h => h.wpRelease c

/-- WP_RELEASE (20:R427). -/
def execWpRelease (q : Fin 64) (w : Word512) (s : State) : Out := .next (hostCmd 0xA 2 runWpRelease q w s)

/-- Bytes written at an offset of a region, extent after extent. -/
def Hw.regionWrite : List Word64 → Nat → List Byte → Hw → Hw
  | [], _, _, h => h
  | e :: r, off, data, h =>
    let len := 65536 * exLen e
    if data.isEmpty then h
    else if len ≤ off then Hw.regionWrite r (off - len) data h
    else
      let h := match h.stkWrite (exStack e) (65536 * exOff e + off) (data.take (len - off)) wpWho with
        | .ok h => h
        | .error (.burst s b) => h.raiseUE s b 99 0x62 none
        | .error _ => h
      Hw.regionWrite r 0 (data.drop (len - off)) h

/-- What a read of an offset of a region does here, extent after extent: the stacks' own read effects. -/
def Hw.regionRead : List Word64 → Nat → Nat → Hw → Hw
  | [], _, _, h => h
  | e :: r, off, n, h =>
    let len := 65536 * exLen e
    if n = 0 then h
    else if len ≤ off then Hw.regionRead r (off - len) n h
    else
      let h := match h.stkRead (exStack e) (65536 * exOff e + off) (min n (len - off)) wpWho with
        | .ok (_, h) => h
        | .error (.burst s b) => h.raiseUE s b 99 0x62 none
        | .error _ => h
      Hw.regionRead r 0 (n - (len - off)) h

/-- A request of another module to a region here; only its OWNER is served. A read asks for as many bytes as `data` has. -/
def Hw.regionRequest (h : Hw) (r : Nat) (pos : BitVec 16) (write : Bool) (off : Nat) (data : List Byte) : Hw :=
  let x := vget h.chip.regions r ⟨none, []⟩
  if x.owner ≠ some pos then h.raiseHub 0x1106 0x62
  else if write then Hw.regionWrite x.extents off data h else Hw.regionRead x.extents off data.length h

/-- BUDDY_REGION_REQUEST (20:R427). -/
def execBuddyRegionRequest (region : Fin 16) (pos : BitVec 16) (write : Bool) (off : Nat) (data : List Byte) (s : State) : Out :=
  .next (s.onHw fun h => h.regionRequest region.val pos write off data)

/-! ### Restore (20:R429) -/

/-- The slot to restore: its header, and whether it is B. -/
def chooseSlot (a b : Option Nat) (req : Word32) : Option (Nat × Bool) :=
  if req ≠ 0 then
    match a.filter (fun x => shGen x == req), b.filter (fun x => shGen x == req) with
    | some x, _ => some (x, false)
    | none, some y => some (y, true)
    | none, none => none
  else match a, b with
    | some x, some y => if newerGen (shGen y) (shGen x) then some (y, true) else some (x, false)
    | some x, none => some (x, false)
    | none, some y => some (y, true)
    | none, none => none

/-- Dies of a slot, and whether each is a compute die named once. -/
def slotDies (x : Nat) : List DieEnt := (List.range (shNdies x)).map fun d => dieEntOf (shDie x d)

def slotDiesOk (x : Nat) : Bool :=
  let l := (List.range (shNdies x)).map fun d => natFld (shDie x d) 120 8
  l.all (fun d => decide (d < 16)) && !hasDup l && decide (1 ≤ shNdies x) && decide (shNdies x ≤ 16)

/-- Reason for refusing a restore before its slots are read, or 0. -/
def Hw.restoreReason (h : Hw) (c : Cmd) (host : Bool) : Nat :=
  let replace := bit c.w 383
  let k := h.ctx? (cmCtx c.w)
  if fld c.w 382 370 ≠ 0 || fld c.w 317 0 ≠ 0 || (host && fld c.w 369 350 ≠ 0) || wpWorkva c.arg ≠ 0 ||
      (!host && (wpHostbase c.arg ≠ 0 || wpHostlen c.arg ≠ 0)) || (List.range 17).any (fun i => wpArg c.arg (3 + i) ≠ 0) then 1
  else if replace && k.isNone then 2
  else if host && (wpHostbase c.arg % 65536 ≠ 0 || wpHostlen c.arg < 2) then 4
  else if h.wpBusy (cmCtx c.w) then 5
  else if !host && (!h.isBuddy (wpPos c.w) || wpLen host c = 0) then 6
  else 0

/-- One range goes back to its stack. -/
def Hw.restoreRange (m : Memory) (base : Nat) (h : Hw) (p : Word64 × Nat) : Hw :=
  (h.updStk (exStack p.1) fun k => k.fill (65536 * exOff p.1) (65536 * exLen p.1) m (base + 65536 * p.2)).count
    (ctrDie (exStack p.1) 161) (65536 * exLen p.1) wpWho.priv wpWho.cls wpWho.src

/-- One die part goes into the save area and the scratchpad image; false when the image cannot be written. -/
def Hw.restorePart (m : Memory) (base : Nat) (a : Hw × Bool) (p : Nat × DieEnt) : Hw × Bool :=
  let n := p.2.die.val
  let area := 65536 * p.2.saveOff.toNat
  let from_ := base + 65536 * (1 + partUnits * p.1)
  let h := a.1.updStk n fun k => k.fill area 0x42000 m from_
  let h := h.setHeader n p.2.saveOff.toNat fun w => setFld (setFld w 511 508 2) 415 409 0
  match h.header n p.2.saveOff.toNat with
  | none => (h, false)
  | some w =>
    let img := (m.filter fun e => decide (from_ + 2 ^ 20 ≤ e.1) && decide (e.1 < from_ + 2 ^ 20 + 2 ^ 27)).map fun e =>
      (e.1 - (from_ + 2 ^ 20), e.2)
    let r := Hw.imagePages n (hdRoot w) img (hdSpimg w) (pagesOfRange (hdSpimg w) (2 ^ 27)) h
    (r.1, a.2 && r.2)

/-- The saved part of a restored die. -/
def Hw.restoredDie (h : Hw) (m : Memory) (base : Nat) (p : Nat × DieEnt) : DieCtx :=
  let w := (h.header p.2.die.val p.2.saveOff.toNat).getD 0
  let part := base + 65536 * (1 + partUnits * p.1)
  let x := helmOf (m.readN (part + 0x41000) 4096)
  { x with
    cores := Vector.ofFn fun i => { vget x.cores i.val Core.init with guards := guardsOf m (part + guardOff + 8192 * i.val) }
    ldie := BitVec.ofNat 4 p.1
    rootStk := BitVec.ofNat 4 (fld w 447 444)
    rootOff := BitVec.ofNat 19 (fld w 443 425)
    spImg := BitVec.ofNat 48 (hdSpimg w)
    saveBase := p.2.saveBase, saveOff := p.2.saveOff, imgBase := p.2.imgBase }

/-- The slot is written back, and the context is a saved one that RESUME continues. -/
def Hw.restoreSlot (h : Hw) (c : Cmd) (m : Memory) (base x : Nat) : Hw :=
  let num := cmCtx c.w
  let ents := slotDies x
  let zs := (List.range ents.length).zip ents
  let off := ents.any (fun e => h.stkUnavailable e.die.val) || (shExtents x).any fun e => h.stkUnavailable (exStack e)
  let h := if off then h else (placed ents.length (shExtents x)).foldl (Hw.restoreRange m base) h
  let r := if off then (h, false) else zs.foldl (Hw.restorePart m base) (h, true)
  let h := r.1
  if !r.2 then
    let h := ents.foldl (fun h e => h.setHeader e.die.val e.saveOff.toNat fun w => setFld w 511 508 3) h
    (h.raiseCtx num 0x1105 0x62 0 (shGen x).toNat).complete c.id ⟨0xB, 0, 0x1105, 0⟩
  else
    let helm := m.readN (base + 65536 * (1 + 0) + 0x41000) 4096
    let old := h.ctx? num
    let segs := (old.map h.segCmds).getD []
    let h := h.onChip fun y => { y with ctxs := y.ctxs.filter fun k => k.num != num }
    let k : Ctx := {
      num := num, role := shRole x, ents := ents, st := .saved, cmd := none, pre := [], segcnt := helmSegcnt helm
      preLater := none, chans := (old.map (·.chans)).getD (h.freeChans.take (helmChans helm)), tol := old.bind (·.tol)
      save := zs.map fun p => (p.2.die.val, h.restoredDie m base p)
      raised := [], ending := 0, stopCode := 0, stopSeq := 0, resets := [], holding := false, arrivals := [], loads := []
      restored := true }
    let h := h.onChip fun y => { y with ctxs := y.ctxs ++ [k] }
    (h.completeAll segs ⟨0xC, 0, 0, 0⟩).complete c.id ⟨0, 0, 0, 0⟩

/-- A restore: which slot, then what it needs, then the writes. -/
def Hw.wpRestore (h : Hw) (c : Cmd) (host : Bool) : Hw :=
  let num := cmCtx c.w
  let k := h.ctx? num
  let r := h.restoreReason c host
  if r ≠ 0 then h.wpRefuse c r
  else if k.isSome && !(bit c.w 383 && k.any fun k => k.st == .saved) then h.complete c.id ⟨0xB, 0, 0, 0⟩
  else
    let m := h.regMem host (wpPos c.w) (wpRegion c.w)
    let base : Word64 := BitVec.ofNat 64 (wpHostbase c.arg)
    let half := 32768 * wpLen host c
    let a := slotAt host base half
    match chooseSlot (validAt m (a false)) (validAt m (a true)) (wpReqgen c.w) with
    | none => (h.raiseCtx num 0x1104 0x62).complete c.id (refusal 6 0x1104)
    | some (x, b) =>
      if half < 65536 * shUnits x then h.wpRefuse c 4
      else if !slotDiesOk x || !(slotDies x).all fun e => h.dieAvail e.die.val then h.wpRefuse c 7
      else if k.any fun k => k.ents.map (·.die) != (slotDies x).map (·.die) then h.wpRefuse c 2
      else h.restoreSlot c m (a b) x

def runWpRestoreHost : Run := fun c s => s.onHw fun h => h.wpRestore c true
def runWpRestoreBuddy : Run := fun c s => s.onHw fun h => h.wpRestore c false

/-- WP_RESTORE_HOST (20:R429). -/
def execWpRestoreHost (q : Fin 64) (w : Word512) (s : State) : Out := .next (hostCmd 0xB 0 runWpRestoreHost q w s)

/-- WP_RESTORE_BUDDY (20:R429). -/
def execWpRestoreBuddy (q : Fin 64) (w : Word512) (s : State) : Out := .next (hostCmd 0xB 1 runWpRestoreBuddy q w s)

end Sys2Proof.Machine
end

