-- ==== Sys2Proof/Machine/Commands.lean ====
section
/-! DEFINITION. The ring engine: fetch, FENCE, waiting commands, host memory errors, and what ends a handover (18:R373, R374, R382, 21:R447). -/

namespace Sys2Proof.Machine

/-- What a command does, by OPCODE and FORM (18 Table 18-7). -/
def runCmd : Run := fun c s =>
  match cmOpcode c.w, cmForm c.w with
  | 1, 0 => runLaunch c s
  | 1, _ => runSegmentLoad c s
  | 2, 0 => runPreemptImmediate c s
  | 2, _ => runPreemptAtYield c s
  | 3, _ => runResume c s
  | 4, 0 => runDmaFlat c s
  | 4, _ => runDmaRecord c s
  | 5, 0 => runMapLeaves c s
  | 5, _ => runMapPointer c s
  | 6, _ => runUnmap c s
  | 7, _ => runDescCreate c s
  | 8, _ => runDescDestroy c s
  | 9, _ => runRedSetup c s
  | 0xA, 0 => runWpTake c s
  | 0xA, 1 => runWpReserve c s
  | 0xA, 2 => runWpRelease c s
  | 0xB, 0 => runWpRestoreHost c s
  | 0xB, 1 => runWpRestoreBuddy c s
  | 0xC, 0 => runLatTolDevice c s
  | 0xC, 1 => runLatTolRole c s
  | 0xC, _ => runLatTolContext c s
  | 0xD, _ => runPwrGrant c s
  | 0xE, _ => runFwBlock c s
  | 0xF, _ => runFwCommit c s
  | 0x10, _ => runFwAbort c s
  | 0x11, 0 => runAttestSpdm c s
  | 0x11, _ => runAttestDebugUnlock c s
  | 0x12, _ => runCtrCfg c s
  | 0x13, _ => runConfigApply c s
  | 0x14, 0 => runResetWarm c s
  | 0x14, 1 => runResetDie c s
  | 0x14, 2 => runResetLinkPort c s
  -- WP_TAKE and WP_RESTORE of another FORM have reason 0x01 of 20 Table 20-10
  | 0xA, _ => s.onHw fun h => h.wpRefuse c 1
  | 0xB, _ => s.onHw fun h => h.wpRefuse c 1
  | _, _ => s

/-! ### Waiting commands -/

/-- Commands that wait for a reason, in the order they were fetched. -/
def State.waiters (s : State) (k : CmdWait) : List Nat := (s.hw.host.cmds.filter fun c => c.wait == k).map (·.id)

/-- A PREEMPT that waited for its context's LAUNCH or RESUME: refused with it, or acting now (18:R385). -/
def State.afterValidate (s : State) : State :=
  (s.waiters .validate).foldl (fun s id =>
    match s.cmd? id with
    | none => s
    | some c =>
      if s.hw.host.validating (cmCtx c.w) then s
      else if (s.hw.ctx? (cmCtx c.w)).isNone then s.complete id ⟨0xB, 0, 0, 0⟩
      else s.start runCmd id) s

/-- Commands that waited for Bus Master Enable start. -/
def State.afterBme (s : State) : State := ((s.waiters .bme).foldl (fun s id => s.start runCmd id) s).afterValidate

/-- Management commands that waited act, in order. -/
def State.afterHandover (s : State) : State :=
  (s.waiters .mgmt).foldl (fun s id => match s.cmd? id with
    | some c => if c.wait == .mgmt then s.act runCmd c else s
    | none => s) s

/-! ### Fetch (18:R382) -/

/-- Submission ring `q` may be fetched: it runs, is not empty, and no completion waits for its completion ring. -/
def HostIf.fetchable (x : HostIf) (q : Nat) : Bool :=
  let g := vget x.rings q Ring.init
  g.st == .running && g.head != g.tail && (vget x.rings (64 + g.target.toNat % 64) Ring.init).held.isEmpty

/-- Commands that may be outstanding. -/
def cmdMax : Nat := 4096

/-- The ring engine fetches the next command, round-robin. -/
def State.fetch (s : State) : State :=
  let x := s.hw.host
  if !x.bme || cmdMax ≤ x.cmds.length then s
  else match (List.range 64).find? fun i => x.fetchable ((x.rr.val + i) % 64) with
    | none => s
    | some i =>
      let q : Fin 64 := ⟨(x.rr.val + i) % 64, Nat.mod_lt _ (by decide)⟩
      let g := vget x.rings q.val Ring.init
      let w : Word512 := BitVec.ofNat 512 (x.mem.readLE (g.base.toNat + 64 * g.head.toNat) 64)
      let s := s.onHw fun h => (h.updRing q.val fun g => { g with head := BitVec.ofNat 16 ((g.head.toNat + 1) % g.size) }).onHost
        fun x => { x with rr := ⟨(q.val + 1) % 64, Nat.mod_lt _ (by decide)⟩ }
      (s.admitCmd runCmd q w).afterValidate

/-- COMMAND_FETCH (18:R382). -/
def execCommandFetch (s : State) : Out := .next s.fetch

/-- A command that waits in a ring may start: nothing holds it back any more. -/
def HostIf.mayStart (x : HostIf) (c : Cmd) : Bool :=
  let before := x.earlier c.q c.id
  !(cmFence c.w && !before.isEmpty) && !before.any fun d => d.wait == .fence

/-- The FENCE command of a ring starts, and what waited behind it. -/
def State.fenceRelease (s : State) (q : Fin 64) : State :=
  let ids := (s.hw.host.cmds.filter fun c => c.q == q && c.wait == .fence).map (·.id)
  (ids.foldl (fun s id => match s.cmd? id with
    | some c => if c.wait == .fence && s.hw.host.mayStart c then s.start runCmd id else s
    | none => s) s).afterValidate

/-- FENCE_RELEASE (18:R382). -/
def execFenceRelease (q : Fin 64) (s : State) : Out := .next (s.fenceRelease q)

/-! ### Bus Master Enable (18:R374) -/

/-- What waited for Bus Master Enable goes on: messages, rings, host transfers and commands. -/
def State.bmeOn (s : State) : State :=
  let s := s.onHw fun h => h.onHost fun x => { x with bme := true }
  let s := s.onHw fun h => h.hostEv fun x => (List.range 256).foldl (fun x v => x.sendPending v) x.drainAll
  (s.onHw Hw.hostPump).afterBme

/-- BUS_MASTER_ENABLE_CHANGE (18:R374). -/
def execBusMasterEnableChange (on : Bool) (s : State) : Out :=
  .next (if on then s.bmeOn else s.onHw fun h => h.onHost fun x => { x with bme := false })

/-! ### Host memory errors (18:R373, R380, R493) -/

/-- The condition of a failed request. -/
def Hw.memError (h : Hw) (ctx : Option (BitVec 16) := none) : Hw := h.raise ⟨0x0107, 99, 0xFF, 0x60, 0, 0, ctx⟩

/-- A ring access fails: the ring stops. -/
def Hw.ringStopped (h : Hw) (r : Nat) : Hw :=
  if (h.ring r).st != .running then h
  else (h.memError.updRing r fun g => { g with st := .stopped }).raiseHub 0x0105 0x67

/-- A granule fails at host memory: of what it would have written there, the host may have applied a part (18:R493). -/
def Hw.hostPart (h ahead : Hw) : Hw :=
  h.onHost fun x => { x with mem := x.mem.partly ahead.host.mem (Config.hostApplied x.ticks) }

/-- The next granule of a host command, done. -/
def Hw.cmdAhead (h : Hw) (c : Cmd) : Hw :=
  match c.work with
  | .flat g => match h.flatGranule c.w g with
    | .ok t => t
    | .error _ => h
  | .rcd n _ => match h.chip.hostX.find? fun e => e.cmd == c.id with
    | some e =>
      let root := ((h.header n (fld c.w 359 344)).map hdRoot).getD ⟨0, 0⟩
      match (e.x.granule ⟨n, root, hostWho, e.x.stall.rereadsOf⟩).run { h := h } with
      | .ok r => r.2.h
      | .error _ => h
    | none => h
  | _ => h

/-- The next granule of a GME, done: of the banked accumulator's job if there is one. -/
def Hw.gmeAhead (h : Hw) (n cl : Nat) : Hw :=
  let g := h.gme n cl
  let run (m : GM Unit) : Hw := match m.run { h := h } with
    | .ok r => r.2.h
    | .error _ => h
  match g.bhead, g.hhead with
  | some j, _ => match gjOp j.rcd, g.win with
    | 2, some w => match h.drainTile n cl j w with
      | .ok t => t
      | .error _ => h
    | _, _ => h
  | none, some j => run (if gjOp j.rcd = 3 then scatterEntry (h.gmeEnv n cl j) n cl j j.next else hashDrainAt (h.gmeEnv n cl j) n cl j j.next)
  | none, none => h

/-- The next granule of a PUU, done. -/
def Hw.puuAhead (h : Hw) (n cl : Nat) : Hw :=
  match (h.puu n cl).queue.head? with
  | some c => match c.rcd with
    | some w =>
      let t := (h.puu n cl).tableOf (puTable w)
      if puOp w = 1 && c.begun then h.updateFrom n cl c.id t w (puuOnce t w) 1 else h
    | none => h
  | none => h

/-- The next granule of an agent, done. -/
def Hw.agentAhead (h : Hw) (n : Nat) (a : Agent) : Hw :=
  match a with
  | .xfer k => h.dmaGranule n k
  | .gme cl => h.gmeAhead n cl.val
  | .puu cl => h.puuAhead n cl.val
  | _ => h

/-- A command's own request fails: an argument block that could not be read, or a transfer at its granule. -/
def Hw.cmdError (h : Hw) (q : Fin 64) (tag : BitVec 16) (addr done : Nat) : Hw :=
  match h.host.cmds.find? fun c => c.q == q && cmCid c.w == tag.toNat && (c.wait != .running || cmOpcode c.w == 4) with
  | none => h
  | some c =>
    let n := match c.work with
      | .flat g => g
      | .rcd _ _ => ((h.chip.hostX.find? fun e => e.cmd == c.id).map fun e => e.x.next).getD 0
      | .none | .burst _ _ => done / 4096
    (((h.hostPart (h.cmdAhead c)).memError (cmNamed c.w)).dropHostX c.id).complete c.id ⟨0xA, 0, 0x0107, if cmOpcode c.w = 4 then dmaResult addr n else 0⟩

/-- The agent has a granule to perform. -/
def DieCtx.works (x : DieCtx) (a : Agent) : Bool :=
  match a with
  | .xfer k => x.xfers.any fun t => t.id == k
  | .small k => x.smalls.any fun t => t.id == k
  | .loader => x.loads.any (·.started)
  | .gme cl => let g := vget x.gmes cl.val Gme.init; !(g.bjobs.isEmpty && g.hjobs.isEmpty)
  | .puu cl => !(vget x.puus cl.val Puu.init).queue.isEmpty
  | _ => false

/-- The job or command that the agent runs fails for good. -/
def DieCtx.headFails (x : DieCtx) (a : Agent) : DieCtx :=
  match a with
  | .gme cl => { x with gmes := vupd x.gmes cl.val fun g => match g.bjobs, g.hjobs with
      | j :: r, _ => { g with bjobs := { j with stall := .failed } :: r }
      | [], j :: r => { g with hjobs := { j with stall := .failed } :: r }
      | [], [] => g }
  | .puu cl => { x with puus := vupd x.puus cl.val fun p => match p.queue with
      | c :: r => { p with queue := { c with stall := .failed } :: r }
      | [] => p }
  | _ => x

/-- An agent of a context meets a host memory error: it stops at its granule with STATE 0x4 and its context is pre-empted. -/
def Hw.agentError (h : Hw) (n : Nat) (a : Agent) : Hw :=
  if (h.die n).owner.isNone || !(h.cx n).works a then h
  else
    let seq := h.host.seq
    let h := (h.hostPart (h.agentAhead n a)).memError (h.die n).owner
    (h.updCx n fun x => x.headFails a).agentLost n a 0x0107 seq

/-- HOST_REQUEST_ERROR (18:R373). -/
def execHostRequestError (who : Requester) (addr bytesDone : Nat) (s : State) : Out :=
  .next (s.onHw fun h => match who with
    | .submissionFetch q => h.ringStopped q.val
    | .consumerWrite r => h.ringStopped r.val
    | .command q tag => h.cmdError q tag addr bytesDone
    | .dieDma d k => h.agentError d.val (.xfer k)
    | .dieAgent d a => h.agentError d.val a
    | .waypoint ctx => if (h.take? ctx).isSome then (h.memError (some ctx)).takeAbort ctx 0x0107 0xA true else h
    | .msix _ => h.memError)

/-! ### The end of a handover (21:R447), and what can end one (19:R405) -/

/-- HANDOVER_COMPLETE (21:R447). -/
def execHandoverComplete (s : State) : Out := .next (if s.hw.host.handover then s.handoverDone.afterHandover else s)

/-- HANDOVER_TIMEOUT (21:R447). -/
def execHandoverTimeout (s : State) : Out := .next (if s.hw.host.handover then s.handoverFails.afterHandover else s)

/-- THERMAL_SAMPLE (19:R404, R405). -/
def execThermalSample (die : Fin 100) (tj : Int) (s : State) : Out :=
  .next (let t := s.thermal die.val tj
    if s.hw.host.handover && !t.hw.host.handover then t.afterHandover else t)

/-- COOLANT_SAMPLE (19:R406, 24:R475). -/
def execCoolantSample (inlet outlet : Int) (flow : Nat) (_reverse : Bool) (s : State) : Out :=
  .next (let t := s.coolant inlet outlet flow
    if s.hw.host.handover && !t.hw.host.handover then t.afterHandover else t)

end Sys2Proof.Machine
end

