-- ==== Sys2Proof/Machine/Words.lean ====
section
/-! DEFINITION. The control-word commands: the word that stands at Helm's index, with the field of the row (03, 07-10). -/

namespace Sys2Proof.Machine

/-- The word of a VXE row: its opcode stands in slot `k` of the chain (03 Table 3-7, 08 Table 8-3). -/
def withOp (w : Word512) (k : Fin 4) (op : Nat) : Word512 := setFld w (383 - 12 * k.val) (378 - 12 * k.val) op

/-- Helm comes to a word, and the domains that the word needs wake, in time only (19:R394, R412): the matrix domain for its MX group, the vector domain for
VX, SC and VF, and the die base. -/
def State.wakeFor (s : State) (n : Nat) (w : Word512) : State :=
  if !s.hw.canIssue n then s
  else s.onPower fun p =>
    { p.updDie n fun d => { d with mxg := d.mxg && fld w 447 384 = 0, vxg := d.vxg && fld w 383 224 = 0 } with
      retained := setFld p.retained n n 0 }

/-- A control word comes to the die of a command. -/
def issueOn (d : Fin 16) (w : Word512) (s : State) : Out := .next ((s.wakeFor d.val w).onHw fun h => h.issueWord d.val w)

/-- With no command each die comes to its next word (log 1, DESIGN CHOICE). -/
def State.tick (s : State) : State :=
  ((List.range 16).foldl (fun s n => s.wakeFor n (((s.hw.cx n).bank (s.hw.cx n).helm.bank.toNat).word (s.hw.cx n).helm.index.toNat)) s).onHw Hw.tick

/-- NEXT (R62). -/
def execNextWord (d : Fin 16) (w : Word512) (s : State) : Out := issueOn d (setFld w 511 508 0) s
/-- LOOP_END (R65). -/
def execLoopEnd (d : Fin 16) (w : Word512) (s : State) : Out := issueOn d (setFld w 511 508 1) s
/-- JUMP (R66). -/
def execJump (d : Fin 16) (w : Word512) (s : State) : Out := issueOn d (setFld w 511 508 2) s
/-- BRANCH_IF_SET (R66). -/
def execBranchIfSet (d : Fin 16) (w : Word512) (s : State) : Out := issueOn d (setFld w 511 508 3) s
/-- BRANCH_IF_CLEAR (R66). -/
def execBranchIfClear (d : Fin 16) (w : Word512) (s : State) : Out := issueOn d (setFld w 511 508 4) s
/-- CALL (R66). -/
def execCall (d : Fin 16) (w : Word512) (s : State) : Out := issueOn d (setFld w 511 508 5) s
/-- RETURN (R66). -/
def execReturnWord (d : Fin 16) (w : Word512) (s : State) : Out := issueOn d (setFld w 511 508 6) s
/-- BANK_SWITCH (R67). -/
def execBankSwitch (d : Fin 16) (w : Word512) (s : State) : Out := issueOn d (setFld w 511 508 7) s
/-- END (R67). -/
def execEndWord (d : Fin 16) (w : Word512) (s : State) : Out := issueOn d (setFld w 511 508 8) s
/-- LOOP_COUNT_LOAD (R64). -/
def execLoopCountLoad (d : Fin 16) (w : Word512) (s : State) : Out := issueOn d (setFld w 485 483 1) s
/-- VLEN_LOAD (R183). -/
def execVlenLoad (d : Fin 16) (w : Word512) (s : State) : Out := issueOn d (setFld w 485 483 3) s
/-- DIE_BARRIER (R52). -/
def execDieBarrier (d : Fin 16) (w : Word512) (s : State) : Out := issueOn d (setFld w 479 478 1) s
/-- CONTEXT_BARRIER (R71). -/
def execContextBarrier (d : Fin 16) (w : Word512) (s : State) : Out := issueOn d (setFld w 479 478 2) s
/-- SEMAPHORE_WAIT (R68). -/
def execSemaphoreWait (d : Fin 16) (w : Word512) (s : State) : Out := issueOn d (setFld w 477 476 1) s
/-- SEMAPHORE_SIGNAL (R69). -/
def execSemaphoreSignal (d : Fin 16) (w : Word512) (s : State) : Out := issueOn d (setFld (setFld w 477 476 2) 465 465 0) s
/-- REMOTE_SIGNAL (R70). -/
def execRemoteSignal (d : Fin 16) (w : Word512) (s : State) : Out := issueOn d (setFld (setFld w 477 476 2) 465 465 1) s
/-- STREAM_TRIGGER (R72). -/
def execStreamTrigger (d : Fin 16) (w : Word512) (s : State) : Out := issueOn d (setFld w 464 464 1) s
/-- SMALL_TRANSFER (R321). -/
def execSmallTransfer (d : Fin 16) (w : Word512) (s : State) : Out := issueOn d (setFld w 457 457 1) s
/-- YIELD (R75). -/
def execYield (d : Fin 16) (w : Word512) (s : State) : Out := issueOn d (setFld w 456 456 1) s
/-- FLAG_LOAD_ANY (R73). -/
def execFlagLoadAny (d : Fin 16) (w : Word512) (s : State) : Out := issueOn d (setFld w 455 454 1) s
/-- FLAG_LOAD_ALL (R73). -/
def execFlagLoadAll (d : Fin 16) (w : Word512) (s : State) : Out := issueOn d (setFld w 455 454 2) s
/-- COUNTER_READ (R74). -/
def execCounterRead (d : Fin 16) (w : Word512) (s : State) : Out := issueOn d (setFld w 450 449 1) s
/-- SKIP_COUNT_READ (R74). -/
def execSkipCountRead (d : Fin 16) (w : Word512) (s : State) : Out := issueOn d (setFld w 450 449 2) s
/-- MXU_COMPUTE (R161). -/
def execMxuCompute (d : Fin 16) (w : Word512) (s : State) : Out := issueOn d (setFld w 447 446 1) s
/-- STATIONARY_LOAD (R163). -/
def execStationaryLoad (d : Fin 16) (w : Word512) (s : State) : Out := issueOn d (setFld w 447 446 2) s
/-- STATIONARY_LOAD_TRANSPOSED (R164). -/
def execStationaryLoadTransposed (d : Fin 16) (w : Word512) (s : State) : Out := issueOn d (setFld w 447 446 3) s
/-- TRANSPOSE_ROW_WRITE (R165). -/
def execTransposeRowWrite (d : Fin 16) (w : Word512) (s : State) : Out := issueOn d (setFld w 409 409 1) s
/-- ACCUMULATOR_DRAIN (R166). -/
def execAccumulatorDrain (d : Fin 16) (w : Word512) (s : State) : Out := issueOn d (setFld w 411 411 1) s
/-- VXE PASS in slot `k` (R179). -/
def execVxPass (d : Fin 16) (k : Fin 4) (w : Word512) (s : State) : Out := issueOn d (withOp w k 0x1) s
/-- VXE MUL in slot `k` (R179). -/
def execVxMul (d : Fin 16) (k : Fin 4) (w : Word512) (s : State) : Out := issueOn d (withOp w k 0x2) s
/-- VXE ADD in slot `k` (R179). -/
def execVxAdd (d : Fin 16) (k : Fin 4) (w : Word512) (s : State) : Out := issueOn d (withOp w k 0x3) s
/-- VXE SUB in slot `k` (R179). -/
def execVxSub (d : Fin 16) (k : Fin 4) (w : Word512) (s : State) : Out := issueOn d (withOp w k 0x4) s
/-- VXE RSUB in slot `k` (R179). -/
def execVxRsub (d : Fin 16) (k : Fin 4) (w : Word512) (s : State) : Out := issueOn d (withOp w k 0x5) s
/-- VXE FMAI in slot `k` (R179). -/
def execVxFmai (d : Fin 16) (k : Fin 4) (w : Word512) (s : State) : Out := issueOn d (withOp w k 0x6) s
/-- VXE FNMAI in slot `k` (R179). -/
def execVxFnmai (d : Fin 16) (k : Fin 4) (w : Word512) (s : State) : Out := issueOn d (withOp w k 0x7) s
/-- VXE MIN in slot `k` (R179). -/
def execVxMin (d : Fin 16) (k : Fin 4) (w : Word512) (s : State) : Out := issueOn d (withOp w k 0x8) s
/-- VXE MAX in slot `k` (R179). -/
def execVxMax (d : Fin 16) (k : Fin 4) (w : Word512) (s : State) : Out := issueOn d (withOp w k 0x9) s
/-- VXE ABS in slot `k` (R179). -/
def execVxAbs (d : Fin 16) (k : Fin 4) (w : Word512) (s : State) : Out := issueOn d (withOp w k 0xa) s
/-- VXE NEG in slot `k` (R179). -/
def execVxNeg (d : Fin 16) (k : Fin 4) (w : Word512) (s : State) : Out := issueOn d (withOp w k 0xb) s
/-- VXE CLAMP in slot `k` (R179). -/
def execVxClamp (d : Fin 16) (k : Fin 4) (w : Word512) (s : State) : Out := issueOn d (withOp w k 0xc) s
/-- VXE CMPEQ in slot `k` (R179). -/
def execVxCmpeq (d : Fin 16) (k : Fin 4) (w : Word512) (s : State) : Out := issueOn d (withOp w k 0x10) s
/-- VXE CMPNE in slot `k` (R179). -/
def execVxCmpne (d : Fin 16) (k : Fin 4) (w : Word512) (s : State) : Out := issueOn d (withOp w k 0x11) s
/-- VXE CMPLT in slot `k` (R179). -/
def execVxCmplt (d : Fin 16) (k : Fin 4) (w : Word512) (s : State) : Out := issueOn d (withOp w k 0x12) s
/-- VXE CMPLE in slot `k` (R179). -/
def execVxCmple (d : Fin 16) (k : Fin 4) (w : Word512) (s : State) : Out := issueOn d (withOp w k 0x13) s
/-- VXE CMPGT in slot `k` (R179). -/
def execVxCmpgt (d : Fin 16) (k : Fin 4) (w : Word512) (s : State) : Out := issueOn d (withOp w k 0x14) s
/-- VXE CMPGE in slot `k` (R179). -/
def execVxCmpge (d : Fin 16) (k : Fin 4) (w : Word512) (s : State) : Out := issueOn d (withOp w k 0x15) s
/-- VXE SELECT in slot `k` (R179). -/
def execVxSelect (d : Fin 16) (k : Fin 4) (w : Word512) (s : State) : Out := issueOn d (withOp w k 0x16) s
/-- VXE FLOOR in slot `k` (R179). -/
def execVxFloor (d : Fin 16) (k : Fin 4) (w : Word512) (s : State) : Out := issueOn d (withOp w k 0x18) s
/-- VXE CEIL in slot `k` (R179). -/
def execVxCeil (d : Fin 16) (k : Fin 4) (w : Word512) (s : State) : Out := issueOn d (withOp w k 0x19) s
/-- VXE RINT in slot `k` (R179). -/
def execVxRint (d : Fin 16) (k : Fin 4) (w : Word512) (s : State) : Out := issueOn d (withOp w k 0x1a) s
/-- VXE TRUNC in slot `k` (R179). -/
def execVxTrunc (d : Fin 16) (k : Fin 4) (w : Word512) (s : State) : Out := issueOn d (withOp w k 0x1b) s
/-- VXE FTOI in slot `k` (R179). -/
def execVxFtoi (d : Fin 16) (k : Fin 4) (w : Word512) (s : State) : Out := issueOn d (withOp w k 0x1c) s
/-- VXE ITOF in slot `k` (R179). -/
def execVxItof (d : Fin 16) (k : Fin 4) (w : Word512) (s : State) : Out := issueOn d (withOp w k 0x1d) s
/-- VXE IADD in slot `k` (R179). -/
def execVxIadd (d : Fin 16) (k : Fin 4) (w : Word512) (s : State) : Out := issueOn d (withOp w k 0x20) s
/-- VXE ISUB in slot `k` (R179). -/
def execVxIsub (d : Fin 16) (k : Fin 4) (w : Word512) (s : State) : Out := issueOn d (withOp w k 0x21) s
/-- VXE IMUL in slot `k` (R179). -/
def execVxImul (d : Fin 16) (k : Fin 4) (w : Word512) (s : State) : Out := issueOn d (withOp w k 0x22) s
/-- VXE AND in slot `k` (R179). -/
def execVxAnd (d : Fin 16) (k : Fin 4) (w : Word512) (s : State) : Out := issueOn d (withOp w k 0x23) s
/-- VXE OR in slot `k` (R179). -/
def execVxOr (d : Fin 16) (k : Fin 4) (w : Word512) (s : State) : Out := issueOn d (withOp w k 0x24) s
/-- VXE XOR in slot `k` (R179). -/
def execVxXor (d : Fin 16) (k : Fin 4) (w : Word512) (s : State) : Out := issueOn d (withOp w k 0x25) s
/-- VXE SHL in slot `k` (R179). -/
def execVxShl (d : Fin 16) (k : Fin 4) (w : Word512) (s : State) : Out := issueOn d (withOp w k 0x26) s
/-- VXE SHR in slot `k` (R179). -/
def execVxShr (d : Fin 16) (k : Fin 4) (w : Word512) (s : State) : Out := issueOn d (withOp w k 0x27) s
/-- VXE SAR in slot `k` (R179). -/
def execVxSar (d : Fin 16) (k : Fin 4) (w : Word512) (s : State) : Out := issueOn d (withOp w k 0x28) s
/-- VXE IMIN in slot `k` (R179). -/
def execVxImin (d : Fin 16) (k : Fin 4) (w : Word512) (s : State) : Out := issueOn d (withOp w k 0x29) s
/-- VXE IMAX in slot `k` (R179). -/
def execVxImax (d : Fin 16) (k : Fin 4) (w : Word512) (s : State) : Out := issueOn d (withOp w k 0x2a) s
/-- GSET (R190). -/
def execVxGset (d : Fin 16) (w : Word512) (s : State) : Out := issueOn d (setFld w 383 378 0x3f) s
/-- SCAN_ADD (R200). -/
def execScanAdd (d : Fin 16) (w : Word512) (s : State) : Out := issueOn d (setFld w 287 285 1) s
/-- SCAN_MAX (R200). -/
def execScanMax (d : Fin 16) (w : Word512) (s : State) : Out := issueOn d (setFld w 287 285 2) s
/-- SCAN_MIN (R200). -/
def execScanMin (d : Fin 16) (w : Word512) (s : State) : Out := issueOn d (setFld w 287 285 3) s
/-- SCAN_MULTIPLY (R200). -/
def execScanMultiply (d : Fin 16) (w : Word512) (s : State) : Out := issueOn d (setFld w 287 285 4) s
/-- SCAN_AFFINE_PAIR (R200). -/
def execScanAffinePair (d : Fin 16) (w : Word512) (s : State) : Out := issueOn d (setFld w 287 285 5) s
/-- RSU_SUM (R208). -/
def execRsuSum (d : Fin 16) (w : Word512) (s : State) : Out := issueOn d (setFld w 280 278 1) s
/-- RSU_WELFORD (R208). -/
def execRsuWelford (d : Fin 16) (w : Word512) (s : State) : Out := issueOn d (setFld w 280 278 2) s
/-- RSU_MAX_ARGMAX (R208). -/
def execRsuMaxArgmax (d : Fin 16) (w : Word512) (s : State) : Out := issueOn d (setFld w 280 278 3) s
/-- RSU_SOFTMAX_NORMALISER (R208). -/
def execRsuSoftmaxNormaliser (d : Fin 16) (w : Word512) (s : State) : Out := issueOn d (setFld w 280 278 4) s
/-- RSU_TOPK (R208). -/
def execRsuTopk (d : Fin 16) (w : Word512) (s : State) : Out := issueOn d (setFld w 280 278 5) s
/-- RSU_FINALISE (R205). -/
def execRsuFinalise (d : Fin 16) (w : Word512) (s : State) : Out := issueOn d (setFld w 280 278 6) s
/-- VERNIER_LOOKUP (R214). -/
def execVernierLookup (d : Fin 16) (w : Word512) (s : State) : Out := issueOn d (setFld w 255 255 1) s
/-- VERNIER_SWAP (R226). -/
def execVernierSwap (d : Fin 16) (w : Word512) (s : State) : Out := issueOn d (setFld w 245 245 1) s

end Sys2Proof.Machine
end

