-- ==== Sys2Proof/Machine/Dispatch.lean ====
section
/-! DEFINITION. The meaning of every command, one arm each. -/

namespace Sys2Proof.Machine

def exec (i : Instr) (s : State) : Host.Outcome State Fault Refusal :=
  match i with
  | .launch q w => Sys2Proof.Machine.execLaunch q w s
  | .segmentLoad q w => Sys2Proof.Machine.execSegmentLoad q w s
  | .preemptImmediate q w => Sys2Proof.Machine.execPreemptImmediate q w s
  | .preemptAtYield q w => Sys2Proof.Machine.execPreemptAtYield q w s
  | .preemptYieldTimeout d => Sys2Proof.Machine.execPreemptYieldTimeout d s
  | .dieDrainEnd d => Sys2Proof.Machine.execDieDrainEnd d s
  | .contextSaveComplete ctx => Sys2Proof.Machine.execContextSaveComplete ctx s
  | .resume q w => Sys2Proof.Machine.execResume q w s
  | .contextComplete ctx => Sys2Proof.Machine.execContextComplete ctx s
  | .msixTimerExpire r => Sys2Proof.Machine.execMsixTimerExpire r s
  | .msixVectorUnmask v => Sys2Proof.Machine.execMsixVectorUnmask v s
  | .dmaFlat q w => Sys2Proof.Machine.execDmaFlat q w s
  | .dmaTransferRecord q w => Sys2Proof.Machine.execDmaTransferRecord q w s
  | .mapLeaves q w => Sys2Proof.Machine.execMapLeaves q w s
  | .mapTablePointer q w => Sys2Proof.Machine.execMapTablePointer q w s
  | .unmap q w => Sys2Proof.Machine.execUnmap q w s
  | .descCreate q w => Sys2Proof.Machine.execDescCreate q w s
  | .descDestroy q w => Sys2Proof.Machine.execDescDestroy q w s
  | .redSetup q w => Sys2Proof.Machine.execRedSetup q w s
  | .wpTake q w => Sys2Proof.Machine.execWpTake q w s
  | .wpReserve q w => Sys2Proof.Machine.execWpReserve q w s
  | .wpRelease q w => Sys2Proof.Machine.execWpRelease q w s
  | .wpRestoreHost q w => Sys2Proof.Machine.execWpRestoreHost q w s
  | .wpRestoreBuddy q w => Sys2Proof.Machine.execWpRestoreBuddy q w s
  | .waypointDeclarationTaken ctx => Sys2Proof.Machine.execWaypointDeclarationTaken ctx s
  | .waypointCopyStart ctx => Sys2Proof.Machine.execWaypointCopyStart ctx s
  | .waypointSeal ctx => Sys2Proof.Machine.execWaypointSeal ctx s
  | .buddyRegionRequest region pos write off data => Sys2Proof.Machine.execBuddyRegionRequest region pos write off data s
  | .latTolDevice q w => Sys2Proof.Machine.execLatTolDevice q w s
  | .latTolRole q w => Sys2Proof.Machine.execLatTolRole q w s
  | .latTolContext q w => Sys2Proof.Machine.execLatTolContext q w s
  | .pwrGrant q w => Sys2Proof.Machine.execPwrGrant q w s
  | .mctpGrantSet src grant gseq => Sys2Proof.Machine.execMctpGrantSet src grant gseq s
  | .mctpGrantReportRead src => Sys2Proof.Machine.execMctpGrantReportRead src s
  | .grantLapse => Sys2Proof.Machine.execGrantLapse s
  | .fwBlock q w => Sys2Proof.Machine.execFwBlock q w s
  | .fwCommit q w => Sys2Proof.Machine.execFwCommit q w s
  | .fwAbort q w => Sys2Proof.Machine.execFwAbort q w s
  | .handoverComplete => Sys2Proof.Machine.execHandoverComplete s
  | .handoverTimeout => Sys2Proof.Machine.execHandoverTimeout s
  | .attestSpdm q w => Sys2Proof.Machine.execAttestSpdm q w s
  | .attestDebugUnlock q w => Sys2Proof.Machine.execAttestDebugUnlock q w s
  | .getVersion t req => Sys2Proof.Machine.execGetVersion t req s
  | .getCapabilities t req => Sys2Proof.Machine.execGetCapabilities t req s
  | .negotiateAlgorithms t req => Sys2Proof.Machine.execNegotiateAlgorithms t req s
  | .getDigests t req => Sys2Proof.Machine.execGetDigests t req s
  | .getCertificate t req => Sys2Proof.Machine.execGetCertificate t req s
  | .challenge t req => Sys2Proof.Machine.execChallenge t req s
  | .getMeasurements t req => Sys2Proof.Machine.execGetMeasurements t req s
  | .keyExchange t req => Sys2Proof.Machine.execKeyExchange t req s
  | .finish t req => Sys2Proof.Machine.execFinish t req s
  | .heartbeat t req => Sys2Proof.Machine.execHeartbeat t req s
  | .keyUpdate t req => Sys2Proof.Machine.execKeyUpdate t req s
  | .endSession t req => Sys2Proof.Machine.execEndSession t req s
  | .ideKmRequest t req => Sys2Proof.Machine.execIdeKmRequest t req s
  | .spdmUnsupportedRequest t req => Sys2Proof.Machine.execSpdmUnsupportedRequest t req s
  | .debugRequest req => Sys2Proof.Machine.execDebugRequest req s
  | .ctrCfg q w => Sys2Proof.Machine.execCtrCfg q w s
  | .configApply q w => Sys2Proof.Machine.execConfigApply q w s
  | .resetWarm q w => Sys2Proof.Machine.execResetWarm q w s
  | .resetDie q w => Sys2Proof.Machine.execResetDie q w s
  | .resetLinkPort q w => Sys2Proof.Machine.execResetLinkPort q w s
  | .dieSelfTestDone d pass retire engines => Sys2Proof.Machine.execDieSelfTestDone d pass retire engines s
  | .commandFetch => Sys2Proof.Machine.execCommandFetch s
  | .fenceRelease q => Sys2Proof.Machine.execFenceRelease q s
  | .submissionDoorbell q v => Sys2Proof.Machine.execSubmissionDoorbell q v s
  | .consumerDoorbell k v => Sys2Proof.Machine.execConsumerDoorbell k v s
  | .ringEnable r v => Sys2Proof.Machine.execRingEnable r v s
  | .ringDisable r v => Sys2Proof.Machine.execRingDisable r v s
  | .hostRequestError who addr bytesDone => Sys2Proof.Machine.execHostRequestError who addr bytesDone s
  | .barUnsupportedAccess off write => Sys2Proof.Machine.execBarUnsupportedAccess off write s
  | .registerWrite off wide v => Sys2Proof.Machine.execRegisterWrite off wide v s
  | .hazardMonitorEnable d v => Sys2Proof.Machine.execHazardMonitorEnable d v s
  | .mcastForceChain d => Sys2Proof.Machine.execMcastForceChain d s
  | .channelBind k v => Sys2Proof.Machine.execChannelBind k v s
  | .channelAbandonClear k => Sys2Proof.Machine.execChannelAbandonClear k s
  | .szlIdWrite v => Sys2Proof.Machine.execSzlIdWrite v s
  | .ownerLockSet v => Sys2Proof.Machine.execOwnerLockSet v s
  | .ownerLockClear v => Sys2Proof.Machine.execOwnerLockClear v s
  | .debugNonceRead => Sys2Proof.Machine.execDebugNonceRead s
  | .busMasterEnableChange on => Sys2Proof.Machine.execBusMasterEnableChange on s
  | .d3hotRequest => Sys2Proof.Machine.execD3hotRequest s
  | .configRequestRetry => Sys2Proof.Machine.execConfigRequestRetry s
  | .functionLevelReset => Sys2Proof.Machine.execFunctionLevelReset s
  | .hotReset => Sys2Proof.Machine.execHotReset s
  | .pcieLinkDown => Sys2Proof.Machine.execPcieLinkDown s
  | .perstAssert u => Sys2Proof.Machine.execPerstAssert u s
  | .mrstPulse u => Sys2Proof.Machine.execMrstPulse u s
  | .perstDeassert => Sys2Proof.Machine.execPerstDeassert s
  | .coldStart u => Sys2Proof.Machine.execColdStart u s
  | .inputQualified vin u => Sys2Proof.Machine.execInputQualified vin u s
  | .dieIdentityTimeout die => Sys2Proof.Machine.execDieIdentityTimeout die s
  | .inputLossEnBreak => Sys2Proof.Machine.execInputLossEnBreak s
  | .inputVoltageLoss vin => Sys2Proof.Machine.execInputVoltageLoss vin s
  | .efuseTrip => Sys2Proof.Machine.execEfuseTrip s
  | .efuseRetry vin u => Sys2Proof.Machine.execEfuseRetry vin u s
  | .holdupTest joules => Sys2Proof.Machine.execHoldupTest joules s
  | .leakDetect => Sys2Proof.Machine.execLeakDetect s
  | .cablePresenceChange j mated => Sys2Proof.Machine.execCablePresenceChange j mated s
  | .reverseFlowDetect => Sys2Proof.Machine.execReverseFlowDetect s
  | .forwardFlowRestored => Sys2Proof.Machine.execForwardFlowRestored s
  | .powerSample watts vin => Sys2Proof.Machine.execPowerSample watts vin s
  | .powerWindow avg peak => Sys2Proof.Machine.execPowerWindow avg peak s
  | .reclaimWindow d waitPct => Sys2Proof.Machine.execReclaimWindow d waitPct s
  | .powerReport => Sys2Proof.Machine.execPowerReport s
  | .droopDetect d det => Sys2Proof.Machine.execDroopDetect d det s
  | .droopClear d det => Sys2Proof.Machine.execDroopClear d det s
  | .rampResume d => Sys2Proof.Machine.execRampResume d s
  | .thermalSample die tj => Sys2Proof.Machine.execThermalSample die tj s
  | .thermalThrottleStep d => Sys2Proof.Machine.execThermalThrottleStep d s
  | .coolantSample inlet outlet flow reverse => Sys2Proof.Machine.execCoolantSample inlet outlet flow reverse s
  | .powerPhaseFail sk => Sys2Proof.Machine.execPowerPhaseFail sk s
  | .idleStateEnter u => Sys2Proof.Machine.execIdleStateEnter u s
  | .idleStateWake u => Sys2Proof.Machine.execIdleStateWake u s
  | .stackWakeComplete sk => Sys2Proof.Machine.execStackWakeComplete sk s
  | .stackOffExit sk vias => Sys2Proof.Machine.execStackOffExit sk vias s
  | .patrolScrubRead sk burst errs => Sys2Proof.Machine.execPatrolScrubRead sk burst errs s
  | .burstReread d sk burst agent ok => Sys2Proof.Machine.execBurstReread d sk burst agent ok s
  | .nextWord d w => Sys2Proof.Machine.execNextWord d w s
  | .skipLimitReached d => Sys2Proof.Machine.execSkipLimitReached d s
  | .loopEnd d w => Sys2Proof.Machine.execLoopEnd d w s
  | .jump d w => Sys2Proof.Machine.execJump d w s
  | .branchIfSet d w => Sys2Proof.Machine.execBranchIfSet d w s
  | .branchIfClear d w => Sys2Proof.Machine.execBranchIfClear d w s
  | .call d w => Sys2Proof.Machine.execCall d w s
  | .returnWord d w => Sys2Proof.Machine.execReturnWord d w s
  | .bankSwitch d w => Sys2Proof.Machine.execBankSwitch d w s
  | .endWord d w => Sys2Proof.Machine.execEndWord d w s
  | .loopCountLoad d w => Sys2Proof.Machine.execLoopCountLoad d w s
  | .vlenLoad d w => Sys2Proof.Machine.execVlenLoad d w s
  | .dieBarrier d w => Sys2Proof.Machine.execDieBarrier d w s
  | .contextBarrier d w => Sys2Proof.Machine.execContextBarrier d w s
  | .barrierResolve d => Sys2Proof.Machine.execBarrierResolve d s
  | .semaphoreWait d w => Sys2Proof.Machine.execSemaphoreWait d w s
  | .semWaitResolve d => Sys2Proof.Machine.execSemWaitResolve d s
  | .semaphoreSignal d w => Sys2Proof.Machine.execSemaphoreSignal d w s
  | .remoteSignal d w => Sys2Proof.Machine.execRemoteSignal d w s
  | .remoteSignalArrive l ch die sem amount => Sys2Proof.Machine.execRemoteSignalArrive l ch die sem amount s
  | .streamTrigger d w => Sys2Proof.Machine.execStreamTrigger d w s
  | .smallTransfer d w => Sys2Proof.Machine.execSmallTransfer d w s
  | .yield d w => Sys2Proof.Machine.execYield d w s
  | .flagLoadAny d w => Sys2Proof.Machine.execFlagLoadAny d w s
  | .flagLoadAll d w => Sys2Proof.Machine.execFlagLoadAll d w s
  | .flagResolution d => Sys2Proof.Machine.execFlagResolution d s
  | .counterRead d w => Sys2Proof.Machine.execCounterRead d w s
  | .skipCountRead d w => Sys2Proof.Machine.execSkipCountRead d w s
  | .controlWordParityError d c w => Sys2Proof.Machine.execControlWordParityError d c w s
  | .wordRedelivered d c ok => Sys2Proof.Machine.execWordRedelivered d c ok s
  | .mxuCompute d w => Sys2Proof.Machine.execMxuCompute d w s
  | .stationaryLoad d w => Sys2Proof.Machine.execStationaryLoad d w s
  | .stationaryLoadTransposed d w => Sys2Proof.Machine.execStationaryLoadTransposed d w s
  | .transposeRowWrite d w => Sys2Proof.Machine.execTransposeRowWrite d w s
  | .accumulatorDrain d w => Sys2Proof.Machine.execAccumulatorDrain d w s
  | .tileReread d agent addr data => Sys2Proof.Machine.execTileReread d agent addr data s
  | .mxuSelfTestDone d c pass => Sys2Proof.Machine.execMxuSelfTestDone d c pass s
  | .vxPass d k w => Sys2Proof.Machine.execVxPass d k w s
  | .vxMul d k w => Sys2Proof.Machine.execVxMul d k w s
  | .vxAdd d k w => Sys2Proof.Machine.execVxAdd d k w s
  | .vxSub d k w => Sys2Proof.Machine.execVxSub d k w s
  | .vxRsub d k w => Sys2Proof.Machine.execVxRsub d k w s
  | .vxFmai d k w => Sys2Proof.Machine.execVxFmai d k w s
  | .vxFnmai d k w => Sys2Proof.Machine.execVxFnmai d k w s
  | .vxMin d k w => Sys2Proof.Machine.execVxMin d k w s
  | .vxMax d k w => Sys2Proof.Machine.execVxMax d k w s
  | .vxAbs d k w => Sys2Proof.Machine.execVxAbs d k w s
  | .vxNeg d k w => Sys2Proof.Machine.execVxNeg d k w s
  | .vxClamp d k w => Sys2Proof.Machine.execVxClamp d k w s
  | .vxCmpeq d k w => Sys2Proof.Machine.execVxCmpeq d k w s
  | .vxCmpne d k w => Sys2Proof.Machine.execVxCmpne d k w s
  | .vxCmplt d k w => Sys2Proof.Machine.execVxCmplt d k w s
  | .vxCmple d k w => Sys2Proof.Machine.execVxCmple d k w s
  | .vxCmpgt d k w => Sys2Proof.Machine.execVxCmpgt d k w s
  | .vxCmpge d k w => Sys2Proof.Machine.execVxCmpge d k w s
  | .vxSelect d k w => Sys2Proof.Machine.execVxSelect d k w s
  | .vxFloor d k w => Sys2Proof.Machine.execVxFloor d k w s
  | .vxCeil d k w => Sys2Proof.Machine.execVxCeil d k w s
  | .vxRint d k w => Sys2Proof.Machine.execVxRint d k w s
  | .vxTrunc d k w => Sys2Proof.Machine.execVxTrunc d k w s
  | .vxFtoi d k w => Sys2Proof.Machine.execVxFtoi d k w s
  | .vxItof d k w => Sys2Proof.Machine.execVxItof d k w s
  | .vxIadd d k w => Sys2Proof.Machine.execVxIadd d k w s
  | .vxIsub d k w => Sys2Proof.Machine.execVxIsub d k w s
  | .vxImul d k w => Sys2Proof.Machine.execVxImul d k w s
  | .vxAnd d k w => Sys2Proof.Machine.execVxAnd d k w s
  | .vxOr d k w => Sys2Proof.Machine.execVxOr d k w s
  | .vxXor d k w => Sys2Proof.Machine.execVxXor d k w s
  | .vxShl d k w => Sys2Proof.Machine.execVxShl d k w s
  | .vxShr d k w => Sys2Proof.Machine.execVxShr d k w s
  | .vxSar d k w => Sys2Proof.Machine.execVxSar d k w s
  | .vxImin d k w => Sys2Proof.Machine.execVxImin d k w s
  | .vxImax d k w => Sys2Proof.Machine.execVxImax d k w s
  | .vxGset d w => Sys2Proof.Machine.execVxGset d w s
  | .scanAdd d w => Sys2Proof.Machine.execScanAdd d w s
  | .scanMax d w => Sys2Proof.Machine.execScanMax d w s
  | .scanMin d w => Sys2Proof.Machine.execScanMin d w s
  | .scanMultiply d w => Sys2Proof.Machine.execScanMultiply d w s
  | .scanAffinePair d w => Sys2Proof.Machine.execScanAffinePair d w s
  | .rsuSum d w => Sys2Proof.Machine.execRsuSum d w s
  | .rsuWelford d w => Sys2Proof.Machine.execRsuWelford d w s
  | .rsuMaxArgmax d w => Sys2Proof.Machine.execRsuMaxArgmax d w s
  | .rsuSoftmaxNormaliser d w => Sys2Proof.Machine.execRsuSoftmaxNormaliser d w s
  | .rsuTopk d w => Sys2Proof.Machine.execRsuTopk d w s
  | .rsuFinalise d w => Sys2Proof.Machine.execRsuFinalise d w s
  | .vernierLookup d w => Sys2Proof.Machine.execVernierLookup d w s
  | .vernierSwap d w => Sys2Proof.Machine.execVernierSwap d w s
  | .tableLoadValidate d c bank reread => Sys2Proof.Machine.execTableLoadValidate d c bank reread s
  | .tableLoadHeldRelease d c bank => Sys2Proof.Machine.execTableLoadHeldRelease d c bank s
  | .bankLoadComplete d => Sys2Proof.Machine.execBankLoadComplete d s
  | .dmaGranule d xfer => Sys2Proof.Machine.execDmaGranule d xfer s
  | .faultSlotAcquire d => Sys2Proof.Machine.execFaultSlotAcquire d s
  | .dmaTransferComplete d xfer => Sys2Proof.Machine.execDmaTransferComplete d xfer s
  | .streamItemLanded d stream => Sys2Proof.Machine.execStreamItemLanded d stream s
  | .smallTransferComplete d => Sys2Proof.Machine.execSmallTransferComplete d s
  | .ringStoreArrive l ch store => Sys2Proof.Machine.execRingStoreArrive l ch store s
  | .mcastTreeFault d => Sys2Proof.Machine.execMcastTreeFault d s
  | .gmeProductJob d cl => Sys2Proof.Machine.execGmeProductJob d cl s
  | .gmeBankedDrain d cl => Sys2Proof.Machine.execGmeBankedDrain d cl s
  | .gmeRowScatterAdd d cl => Sys2Proof.Machine.execGmeRowScatterAdd d cl s
  | .gmeHashDrain d cl => Sys2Proof.Machine.execGmeHashDrain d cl s
  | .gmeRoundDeliver d c => Sys2Proof.Machine.execGmeRoundDeliver d c s
  | .gmeRoundHandback d c => Sys2Proof.Machine.execGmeRoundHandback d c s
  | .puuUpdate d cl => Sys2Proof.Machine.execPuuUpdate d cl s
  | .puuCoefLoad d cl => Sys2Proof.Machine.execPuuCoefLoad d cl s
  | .puuReleaseHold d cl => Sys2Proof.Machine.execPuuReleaseHold d cl s
  | .flitReceive l f codeOk => Sys2Proof.Machine.execFlitReceive l f codeOk s
  | .nakReceive l ackseq => Sys2Proof.Machine.execNakReceive l ackseq s
  | .hopTimeout l => Sys2Proof.Machine.execHopTimeout l s
  | .laneErrorThreshold l lane count => Sys2Proof.Machine.execLaneErrorThreshold l lane count s
  | .linkRecoveryTest l good => Sys2Proof.Machine.execLinkRecoveryTest l good s
  | .channelAbandonNotice k => Sys2Proof.Machine.execChannelAbandonNotice k s
  | .bulkHoldExpire dir => Sys2Proof.Machine.execBulkHoldExpire dir s
  | .linkSignalFound l => Sys2Proof.Machine.execLinkSignalFound l s
  | .linkTrainingRetry l => Sys2Proof.Machine.execLinkTrainingRetry l s
  | .linkTrainingDone l good shorted => Sys2Proof.Machine.execLinkTrainingDone l good shorted s
  | .linkIdentityReceived l id => Sys2Proof.Machine.execLinkIdentityReceived l id s
  | .reductionIssue g => Sys2Proof.Machine.execReductionIssue g s
  | .reductionCodeFlit l f => Sys2Proof.Machine.execReductionCodeFlit l f s
  | .reductionSegmentReceive l f => Sys2Proof.Machine.execReductionSegmentReceive l f s
  | .reductionSegmentAccepted l f => Sys2Proof.Machine.execReductionSegmentAccepted l f s
  | .reductionRetryRequest l f => Sys2Proof.Machine.execReductionRetryRequest l f s
  | .reductionAbortReceive l f => Sys2Proof.Machine.execReductionAbortReceive l f s
  | .reductionComplete g => Sys2Proof.Machine.execReductionComplete g s
  | .reductionHoldExpire g => Sys2Proof.Machine.execReductionHoldExpire g s
  | .holdUpCharged => Sys2Proof.Machine.execHoldUpCharged s
  | .phaseRebalanceDone sk => Sys2Proof.Machine.execPhaseRebalanceDone sk s
  | .spareTakeoverEnd => Sys2Proof.Machine.execSpareTakeoverEnd s
  | .pcieLinkTrained degraded => Sys2Proof.Machine.execPcieLinkTrained degraded s
  | .aerUncorrectableError => Sys2Proof.Machine.execAerUncorrectableError s
  | .powerStateD0 => Sys2Proof.Machine.execPowerStateD0 s

end Sys2Proof.Machine
end

