-- ==== Sys2Proof/Laws/Bits.lean ====
section
/-! SUPPORT. A replaced field reads as what replaced it, and every other bit as before. -/

namespace Sys2Proof.Machine

theorem setFld_bit {n : Nat} (x : BitVec n) {hi lo k : Nat} (v : Nat) (hk : k < n) (h : k < lo ∨ hi < k) (hl : lo ≤ hi) :
    (setFld x hi lo v).getLsbD k = x.getLsbD k := by
  have h1 : ((2 ^ (hi + 1 - lo) - 1) <<< lo).testBit k = false := by
    rw [Nat.testBit_shiftLeft]
    rcases h with h | h
    · simp; omega
    · rw [Nat.testBit_two_pow_sub_one]; simp; omega
  have h2 : ((v % 2 ^ (hi + 1 - lo)) <<< lo).testBit k = false := by
    rw [Nat.testBit_shiftLeft, Nat.testBit_mod_two_pow]
    rcases h with h | h
    · simp; omega
    · simp; omega
  unfold setFld
  simp only [BitVec.getLsbD_or, BitVec.getLsbD_and, BitVec.getLsbD_not, BitVec.getLsbD_ofNat, hk, decide_true, Bool.true_and]
  simp [h1, h2]

theorem fld_setFld {n : Nat} (x : BitVec n) {hi lo v : Nat} (hh : hi < n) (hl : lo ≤ hi) (hv : v < 2 ^ (hi + 1 - lo)) :
    fld (setFld x hi lo v) hi lo = v := by
  unfold fld natFld
  apply Nat.eq_of_testBit_eq
  intro j
  rw [Nat.testBit_mod_two_pow, Nat.testBit_shiftRight]
  by_cases hj : j < hi + 1 - lo
  · have e : (setFld x hi lo v).toNat.testBit (lo + j) = (setFld x hi lo v).getLsbD (lo + j) := rfl
    rw [e]
    unfold setFld
    have hk : lo + j < n := by omega
    simp only [BitVec.getLsbD_or, BitVec.getLsbD_and, BitVec.getLsbD_not, BitVec.getLsbD_ofNat, hk, decide_true, Bool.true_and, hj]
    rw [Nat.testBit_shiftLeft, Nat.testBit_shiftLeft, Nat.testBit_two_pow_sub_one, Nat.mod_eq_of_lt hv]
    simp [hj]
  · rw [Nat.testBit_lt_two_pow (lt_of_lt_of_le hv (Nat.pow_le_pow_right (by omega) (by omega : hi + 1 - lo ≤ j)))]
    simp [hj]

/-- A field depends on its own bits only. -/
theorem fld_congr {n : Nat} {x y : BitVec n} {hi lo : Nat} (h : ∀ k, lo ≤ k → k ≤ hi → x.getLsbD k = y.getLsbD k) :
    fld x hi lo = fld y hi lo := by
  unfold fld natFld
  apply Nat.eq_of_testBit_eq
  intro j
  rw [Nat.testBit_mod_two_pow, Nat.testBit_shiftRight, Nat.testBit_mod_two_pow, Nat.testBit_shiftRight]
  by_cases hj : j < hi + 1 - lo
  · simp only [hj, decide_true, Bool.true_and]; exact h _ (by omega) (by omega)
  · simp [hj]

/-- A field that shares no bit with a replaced one reads as before. -/
theorem fld_setFld_ne {n : Nat} (x : BitVec n) {hi lo v a b : Nat} (hh : a < n) (hl : lo ≤ hi) (h : a < lo ∨ hi < b) :
    fld (setFld x hi lo v) a b = fld x a b :=
  fld_congr fun k h1 h2 => setFld_bit x v (by omega) (by omega) hl

end Sys2Proof.Machine
end

