-- ==== Sys2Proof/Laws/Memory.lean ====
section
/-! SUPPORT. The canonical form of sparse maps and memories, and what a read after a write gives. -/

namespace Sys2Proof.Machine

section Sparse

variable {α : Type} [DecidableEq α] {d : α}

/-- Every key of a map in canonical form above `l` is above `l`. -/
theorem smWf_key {m : List (Nat × α)} {l : Nat} (h : smWf d (some l) m = true) : ∀ e ∈ m, l < e.1 ∧ e.2 ≠ d := by
  induction m generalizing l with
  | nil => simp
  | cons e r ih =>
    simp only [smWf, Bool.and_eq_true, decide_eq_true_eq] at h
    intro x hx
    rcases List.mem_cons.1 hx with rfl | hx
    · exact ⟨h.1.1, h.1.2⟩
    · exact ⟨h.1.1.trans (ih h.2 x hx).1, (ih h.2 x hx).2⟩

theorem smWf_mono {m : List (Nat × α)} {l : Nat} {o : Option Nat} (h : smWf d (some l) m = true) (ho : ∀ k, o = some k → k ≤ l) :
    smWf d o m = true := by
  cases m with
  | nil => rfl
  | cons e r =>
    simp only [smWf, Bool.and_eq_true, decide_eq_true_eq] at h ⊢
    refine ⟨⟨?_, h.1.2⟩, h.2⟩
    cases o with
    | none => rfl
    | some k => simpa using lt_of_le_of_lt (ho k rfl) h.1.1

theorem smGet_below {m : List (Nat × α)} {l a : Nat} (h : smWf d (some l) m = true) (ha : a ≤ l) : smGet d m a = d := by
  cases m with
  | nil => rfl
  | cons e r =>
    have := (smWf_key h e (List.mem_cons_self ..)).1
    simp only [smGet]
    rw [if_neg (by omega), if_pos (by omega)]

/-- A write keeps the canonical form. -/
theorem smPut_wf {m : List (Nat × α)} {o : Option Nat} {a : Nat} {x : α} (h : smWf d o m = true) (ho : ∀ k, o = some k → k < a) :
    smWf d o (smPut d m a x) = true := by
  induction m generalizing o with
  | nil =>
    unfold smPut
    split
    · rfl
    · cases o <;> simp_all [smWf]
  | cons e r ih =>
    obtain ⟨k, v⟩ := e
    simp only [smWf, Bool.and_eq_true, decide_eq_true_eq] at h
    unfold smPut
    split
    · split
      · simp only [smWf, Bool.and_eq_true, decide_eq_true_eq]; exact h
      · rename_i hak hx
        simp only [smWf, Bool.and_eq_true, decide_eq_true_eq]
        refine ⟨⟨?_, hx⟩, ⟨hak, h.1.2⟩, h.2⟩
        cases o <;> simp_all
    · split
      · split
        · exact smWf_mono h.2 (fun j hj => by rename_i h1 h2 h3; subst h2; exact (ho j hj).le)
        · rename_i h1 h2 h3
          simp only [smWf, Bool.and_eq_true, decide_eq_true_eq]
          subst h2
          exact ⟨⟨h.1.1, h3⟩, h.2⟩
      · rename_i h1 h2
        simp only [smWf, Bool.and_eq_true, decide_eq_true_eq]
        exact ⟨h.1, ih h.2 (by simp; omega)⟩

/-- A key written reads as what was written; every other key reads as before. -/
theorem smGet_smPut {m : List (Nat × α)} {o : Option Nat} {a b : Nat} {x : α} (h : smWf d o m = true) :
    smGet d (smPut d m a x) b = if b = a then x else smGet d m b := by
  induction m generalizing o with
  | nil =>
    simp only [smPut]
    split <;> simp_all [smGet]
  | cons e r ih =>
    obtain ⟨k, v⟩ := e
    simp only [smWf, Bool.and_eq_true, decide_eq_true_eq] at h
    unfold smPut
    split
    · rename_i hak
      split
      · rename_i hx
        simp only [smGet]
        split <;> split <;> simp_all
        omega
      · simp only [smGet]
        split
        · rfl
        · split
          · rw [if_neg (by omega), if_pos (by omega)]
          · rfl
    · split
      · rename_i h1 h2
        subst h2
        split
        · rename_i hx
          simp only [smGet]
          split
          · rename_i hb; subst hb; rw [hx]; exact smGet_below h.2 le_rfl
          · split
            · exact smGet_below h.2 (by omega)
            · rfl
        · by_cases hb : b = a <;> simp [smGet, hb]
      · rename_i h1 h2
        simp only [smGet]
        rw [ih h.2]
        split
        · rename_i hb
          rw [if_neg (by omega)]
        · split <;> split <;> first | rfl | omega

end Sparse

/-! ### Byte memories -/

theorem Memory.write_wf {m : Memory} {a : Nat} {x : Byte} (h : m.wf = true) : (m.write a x).wf = true :=
  smPut_wf h (by simp)

theorem Memory.read_write {m : Memory} {a b : Nat} {x : Byte} (h : m.wf = true) :
    (m.write a x).read b = if b = a then x else m.read b := smGet_smPut h

theorem Memory.writeN_wf {m : Memory} {a : Nat} {l : List Byte} (h : m.wf = true) : (m.writeN a l).wf = true := by
  induction l generalizing m a with
  | nil => exact h
  | cons x r ih => exact ih (Memory.write_wf h)

/-- A byte inside the written range reads as what was written, a byte outside it as before. -/
theorem Memory.read_writeN {m : Memory} {a b : Nat} {l : List Byte} (h : m.wf = true) :
    (m.writeN a l).read b = if a ≤ b ∧ b < a + l.length then l.getD (b - a) 0 else m.read b := by
  induction l generalizing m a with
  | nil => simp [Memory.writeN]
  | cons x r ih =>
    simp only [Memory.writeN]
    rw [ih (Memory.write_wf h), Memory.read_write h]
    by_cases hb : b = a
    · subst hb
      rw [if_neg (by omega)]
      simp
    · by_cases hin : a + 1 ≤ b ∧ b < a + 1 + r.length
      · rw [if_pos hin, if_pos (by simp only [List.length_cons]; omega)]
        obtain ⟨j, hj⟩ : ∃ j, b - a = j + 1 := ⟨b - a - 1, by omega⟩
        have : b - (a + 1) = j := by omega
        simp [hj, this]
      · rw [if_neg hin, if_neg hb, if_neg (by simp only [List.length_cons]; omega)]

theorem Memory.writeLE_wf {m : Memory} {a n v : Nat} (h : m.wf = true) : (m.writeLE a n v).wf = true :=
  Memory.writeN_wf h

theorem leBytes_length (n v : Nat) : (leBytes n v).length = n := by
  induction n generalizing v with
  | zero => rfl
  | succ n ih => simp [leBytes, ih]

/-- The little-endian value of the bytes of a value is the value modulo its size (00:R12). -/
theorem leNat_leBytes (n v : Nat) : leNat (leBytes n v) = v % 256 ^ n := by
  induction n generalizing v with
  | zero => simp [leBytes, leNat, Nat.mod_one]
  | succ n ih =>
    simp only [leBytes, leNat, ih, BitVec.toNat_ofNat]
    rw [show (256 : ℕ) ^ (n + 1) = 256 * 256 ^ n by ring, Nat.mod_mul]

theorem Memory.read_writeLE {m : Memory} {a b n v : Nat} (h : m.wf = true) :
    (m.writeLE a n v).read b = if a ≤ b ∧ b < a + n then (leBytes n v).getD (b - a) 0 else m.read b := by
  rw [Memory.writeLE, Memory.read_writeN h, leBytes_length]

/-- What is stored as a little-endian value is read back. -/
theorem Memory.readLE_writeLE {m : Memory} {a n v : Nat} (h : m.wf = true) :
    (m.writeLE a n v).readLE a n = v % 256 ^ n := by
  have : (m.writeLE a n v).readN a n = leBytes n v := by
    apply List.ext_getElem
    · simp [Memory.readN, leBytes_length]
    · intro i h1 h2
      rw [leBytes_length] at h2
      simp only [Memory.readN, List.getElem_map, List.getElem_range]
      rw [Memory.read_writeLE h, if_pos (by omega)]
      simp [leBytes_length, h2]
  rw [Memory.readLE, this, leNat_leBytes]

/-! ### Lists of cells cut and joined -/

/-- The canonical form, as one statement about neighbours. -/
theorem smWf_iff {α : Type} [DecidableEq α] {d : α} {m : List (Nat × α)} :
    smWf d none m = true ↔ m.Pairwise (fun x y => x.1 < y.1) ∧ ∀ e ∈ m, e.2 ≠ d := by
  suffices H : ∀ o, smWf d o m = true ↔
      (m.Pairwise (fun x y => x.1 < y.1) ∧ ∀ e ∈ m, e.2 ≠ d) ∧ ∀ e ∈ m, ∀ k, o = some k → k < e.1 by
    simpa using H none
  induction m with
  | nil => simp [smWf]
  | cons e r ih =>
    intro o
    obtain ⟨k, v⟩ := e
    simp only [smWf, Bool.and_eq_true, decide_eq_true_eq, ih, List.pairwise_cons, List.mem_cons, forall_eq_or_imp]
    cases o with
    | none => simp; tauto
    | some l =>
      simp only [Option.some.injEq, forall_eq']
      constructor
      · rintro ⟨⟨h1, h2⟩, ⟨h3, h4⟩, h5⟩
        exact ⟨⟨⟨h5, h3⟩, h2, h4⟩, by simpa using h1, fun e he => lt_trans (by simpa using h1) (h5 e he)⟩
      · rintro ⟨⟨⟨h5, h3⟩, h2, h4⟩, h1, _⟩
        exact ⟨⟨by simpa using h1, h2⟩, ⟨h3, h4⟩, h5⟩

theorem Memory.filter_wf {m : Memory} {p : Host.Cell → Bool} (h : m.wf = true) : Memory.wf (m.filter p) = true := by
  rw [Memory.wf, smWf_iff] at h ⊢
  exact ⟨h.1.filter _, fun e he => h.2 e (List.mem_of_mem_filter he)⟩

theorem Memory.partly_wf {m new : Memory} {on : Nat → Bool} (h : m.wf = true) : (m.partly new on).wf = true := by
  unfold Memory.partly
  generalize (m ++ new).map (·.1) = l
  induction l generalizing m with
  | nil => exact h
  | cons a r ih =>
    rw [List.foldl_cons]
    split
    · exact ih (Memory.write_wf h)
    · exact ih h

/-- A byte read after a partial change is the old one or, where the change took effect, the new one. -/
theorem Memory.read_partly {m new : Memory} {on : Nat → Bool} (h : m.wf = true) (a : Nat) :
    (m.partly new on).read a = m.read a ∨ (on a = true ∧ (m.partly new on).read a = new.read a) := by
  unfold Memory.partly
  generalize (m ++ new).map (·.1) = l
  induction l generalizing m with
  | nil => exact .inl rfl
  | cons b r ih =>
    rw [List.foldl_cons]
    split
    · rename_i hb
      rcases ih (Memory.write_wf (a := b) (x := new.read b) h) with e | e
      · rw [Memory.read_write h] at e
        split at e
        · subst_vars; exact .inr ⟨hb, e⟩
        · exact .inl e
      · exact .inr e
    · exact ih h

theorem Memory.splice_wf {m src : Memory} {a n o : Nat} (h : m.wf = true) (hs : src.wf = true) : (m.splice a n src o).wf = true := by
  rw [Memory.wf, smWf_iff] at h hs ⊢
  refine ⟨?_, ?_⟩
  · unfold Memory.splice
    rw [List.pairwise_append, List.pairwise_append]
    refine ⟨⟨h.1.filter _, ?_, ?_⟩, h.1.filter _, ?_⟩
    · rw [List.pairwise_map]
      refine (hs.1.filter _).imp_of_mem ?_
      intro x y hx hy hxy
      simp only [List.mem_filter, Bool.and_eq_true, decide_eq_true_eq] at hx hy
      simp only; omega
    · intro x hx y hy
      simp only [List.mem_filter, decide_eq_true_eq] at hx
      simp only [List.mem_map, List.mem_filter, Bool.and_eq_true, decide_eq_true_eq] at hy
      obtain ⟨z, hz, rfl⟩ := hy
      simp only; omega
    · intro x hx y hy
      simp only [List.mem_filter, decide_eq_true_eq] at hy
      simp only [List.mem_append, List.mem_map, List.mem_filter, Bool.and_eq_true, decide_eq_true_eq] at hx
      rcases hx with hx | ⟨z, hz, rfl⟩
      · omega
      · simp only; omega
  · intro e he
    simp only [Memory.splice, List.mem_append, List.mem_map, List.mem_filter] at he
    rcases he with (he | ⟨z, hz, rfl⟩) | he
    · exact h.2 e he.1
    · exact hs.2 z hz.1
    · exact h.2 e he.1

/-- The scratchpads of a die as one memory are in canonical form when each of them is. -/
theorem DieCtx.padImage_wf {x : DieCtx} (h : ∀ c, (x.core c).spad.wf = true) : x.padImage.wf = true := by
  rw [Memory.wf, smWf_iff]
  have hp := fun c => (smWf_iff (d := (0 : Byte))).1 (h c)
  refine ⟨?_, ?_⟩
  · rw [DieCtx.padImage, List.pairwise_flatMap]
    refine ⟨fun c _ => ?_, ?_⟩
    · rw [List.pairwise_map]
      exact ((hp c).1.filter _).imp (by intro a b hab; simpa using hab)
    · refine List.pairwise_lt_range.imp ?_
      intro c1 c2 hc x hx y hy
      simp only [List.mem_map, List.mem_filter, decide_eq_true_eq] at hx hy
      obtain ⟨u, hu, rfl⟩ := hx
      obtain ⟨v, hv, rfl⟩ := hy
      simp only; omega
  · intro e he
    simp only [DieCtx.padImage, List.mem_flatMap, List.mem_map, List.mem_filter] at he
    obtain ⟨c, _, u, hu, rfl⟩ := he
    exact (hp c).2 u hu.1

/-! ### The state after reset -/

/-- Every memory of the state after reset is in canonical form: nothing is listed. -/
theorem reset_memories_wf :
    State.reset.hw.host.mem.wf = true ∧ (∀ s, (State.reset.hw.stk s).mem.wf = true) ∧
      ∀ n c, ((State.reset.hw.cx n).core c).spad.wf = true := by
  have hv : ∀ {α : Type} (k i : Nat) (a : α), vget (Vector.replicate k a) i a = a := by
    intro α k i a
    simp only [vget, Vector.toList_replicate, List.getD_eq_getElem?_getD, List.getElem?_replicate]
    split <;> rfl
  refine ⟨rfl, fun s => ?_, fun n c => ?_⟩
  · have : State.reset.hw.stk s = Stack.init := hv 16 s Stack.init
    rw [this]; rfl
  · have h1 : State.reset.hw.die n = Die.init := hv 16 n Die.init
    have h2 : (State.reset.hw.cx n).core c = Core.init := by
      rw [Hw.cx, h1]; exact hv 32 c Core.init
    rw [h2]; rfl

end Sys2Proof.Machine
end

