-- ==== Sys2Proof/Laws/State.lean ====
section
/-! SUPPORT. One lemma for each field of a named update of the state: what the update sets and what it leaves. -/

namespace Sys2Proof.Machine

/-! ### The parts of the state -/

@[simp] theorem State.onHw_pending (s : State) (f : Hw → Hw) : (s.onHw f).pending = s.pending := rfl
@[simp] theorem State.onHw_hw (s : State) (f : Hw → Hw) : (s.onHw f).hw = f s.hw := rfl
@[simp] theorem State.onHw_power (s : State) (f : Hw → Hw) : (s.onHw f).power = s.power := rfl
@[simp] theorem State.onHw_sec (s : State) (f : Hw → Hw) : (s.onHw f).sec = s.sec := rfl

@[simp] theorem State.onPower_pending (s : State) (f : Power → Power) : (s.onPower f).pending = s.pending := rfl
@[simp] theorem State.onPower_hw (s : State) (f : Power → Power) : (s.onPower f).hw = s.hw := rfl
@[simp] theorem State.onPower_power (s : State) (f : Power → Power) : (s.onPower f).power = f s.power := rfl
@[simp] theorem State.onPower_sec (s : State) (f : Power → Power) : (s.onPower f).sec = s.sec := rfl

@[simp] theorem State.onSec_pending (s : State) (f : Sec → Sec) : (s.onSec f).pending = s.pending := rfl
@[simp] theorem State.onSec_hw (s : State) (f : Sec → Sec) : (s.onSec f).hw = s.hw := rfl
@[simp] theorem State.onSec_power (s : State) (f : Sec → Sec) : (s.onSec f).power = s.power := rfl
@[simp] theorem State.onSec_sec (s : State) (f : Sec → Sec) : (s.onSec f).sec = f s.sec := rfl

@[simp] theorem State.onCfg_pending (s : State) (f : PwrCfg → PwrCfg) : (s.onCfg f).pending = s.pending := rfl
@[simp] theorem State.onCfg_hw (s : State) (f : PwrCfg → PwrCfg) : (s.onCfg f).hw = s.hw := rfl
@[simp] theorem State.onCfg_power (s : State) (f : PwrCfg → PwrCfg) : (s.onCfg f).power = { s.power with cfg := f s.power.cfg } := rfl
@[simp] theorem State.onCfg_sec (s : State) (f : PwrCfg → PwrCfg) : (s.onCfg f).sec = s.sec := rfl

@[simp] theorem State.onMod_pending (s : State) (f : ModHw → ModHw) : (s.onMod f).pending = s.pending := rfl
@[simp] theorem State.onMod_hw (s : State) (f : ModHw → ModHw) : (s.onMod f).hw = s.hw := rfl
@[simp] theorem State.onMod_power (s : State) (f : ModHw → ModHw) : (s.onMod f).power = { s.power with mod := f s.power.mod } := rfl
@[simp] theorem State.onMod_sec (s : State) (f : ModHw → ModHw) : (s.onMod f).sec = s.sec := rfl

@[simp] theorem State.onLinks_pending (s : State) (f : Links → Links) : (s.onLinks f).pending = s.pending := rfl
@[simp] theorem State.onLinks_hw (s : State) (f : Links → Links) : (s.onLinks f).hw = s.hw.onLinks f := rfl
@[simp] theorem State.onLinks_power (s : State) (f : Links → Links) : (s.onLinks f).power = s.power := rfl
@[simp] theorem State.onLinks_sec (s : State) (f : Links → Links) : (s.onLinks f).sec = s.sec := rfl

/-! ### Parts of the hardware -/

@[simp] theorem Hw.onChip_chip (h : Hw) (f : Chip → Chip) : (h.onChip f).chip = f h.chip := rfl
@[simp] theorem Hw.onChip_links (h : Hw) (f : Chip → Chip) : (h.onChip f).links = h.links := rfl
@[simp] theorem Hw.onChip_host (h : Hw) (f : Chip → Chip) : (h.onChip f).host = h.host := rfl
@[simp] theorem Hw.onChip_ctr (h : Hw) (f : Chip → Chip) : (h.onChip f).ctr = h.ctr := rfl
@[simp] theorem Hw.onHost_chip (h : Hw) (f : HostIf → HostIf) : (h.onHost f).chip = h.chip := rfl
@[simp] theorem Hw.onHost_links (h : Hw) (f : HostIf → HostIf) : (h.onHost f).links = h.links := rfl
@[simp] theorem Hw.onHost_host (h : Hw) (f : HostIf → HostIf) : (h.onHost f).host = f h.host := rfl
@[simp] theorem Hw.onHost_ctr (h : Hw) (f : HostIf → HostIf) : (h.onHost f).ctr = h.ctr := rfl
@[simp] theorem Hw.onLinks_chip (h : Hw) (f : Links → Links) : (h.onLinks f).chip = h.chip := rfl
@[simp] theorem Hw.onLinks_links (h : Hw) (f : Links → Links) : (h.onLinks f).links = f h.links := rfl
@[simp] theorem Hw.onLinks_host (h : Hw) (f : Links → Links) : (h.onLinks f).host = h.host := rfl
@[simp] theorem Hw.onLinks_ctr (h : Hw) (f : Links → Links) : (h.onLinks f).ctr = h.ctr := rfl

/-! ### Elements of vectors -/

@[simp] theorem vget_replicate {α : Type} (n i : Nat) (a : α) : vget (Vector.replicate n a) i a = a := by
  simp only [vget, Vector.toList_replicate, List.getD_eq_getElem?_getD, List.getElem?_replicate]
  split <;> rfl

theorem vget_lt {α : Type} {n : Nat} (v : Vector α n) {i : Nat} (d : α) (h : i < n) : vget v i d = v[i] := by
  simp [vget, List.getD_eq_getElem?_getD, h]

theorem vget_ge {α : Type} {n : Nat} (v : Vector α n) {i : Nat} (d : α) (h : n ≤ i) : vget v i d = d := by
  simp [vget, List.getD_eq_getElem?_getD, h]

theorem vget_vupd_self {α : Type} {n : Nat} (v : Vector α n) {i : Nat} (f : α → α) (d : α) (h : i < n) :
    vget (vupd v i f) i d = f (vget v i d) := by
  rw [vget_lt _ _ h, vget_lt _ _ h, vupd, dif_pos h]; simp

theorem vget_vupd_ne {α : Type} {n : Nat} (v : Vector α n) {i j : Nat} (f : α → α) (d : α) (h : i ≠ j) :
    vget (vupd v i f) j d = vget v j d := by
  unfold vupd
  split
  · by_cases hj : j < n
    · rw [vget_lt _ _ hj, vget_lt _ _ hj, Vector.getElem_set_ne _ _ h]
    · rw [vget_ge _ _ (by omega), vget_ge _ _ (by omega)]
  · rfl

theorem vget_vupd {α : Type} {n : Nat} (v : Vector α n) (i j : Nat) (f : α → α) (d : α) :
    vget (vupd v i f) j d = if i = j ∧ i < n then f (vget v j d) else vget v j d := by
  by_cases h : i = j
  · subst h
    by_cases hi : i < n
    · simp [vget_vupd_self, hi]
    · simp [vget_ge, hi, Nat.le_of_not_lt hi]
  · simp [vget_vupd_ne, h]

/-! ### Dies, stacks, rings and ports -/

@[simp] theorem Hw.updDie_links (h : Hw) (n : Nat) (f : Die → Die) : (h.updDie n f).links = h.links := rfl
@[simp] theorem Hw.updDie_host (h : Hw) (n : Nat) (f : Die → Die) : (h.updDie n f).host = h.host := rfl
@[simp] theorem Hw.updDie_ctr (h : Hw) (n : Nat) (f : Die → Die) : (h.updDie n f).ctr = h.ctr := rfl
@[simp] theorem Hw.updDie_stk (h : Hw) (n : Nat) (f : Die → Die) (k : Nat) : (h.updDie n f).stk k = h.stk k := rfl
@[simp] theorem Hw.updDie_ctxs (h : Hw) (n : Nat) (f : Die → Die) : (h.updDie n f).chip.ctxs = h.chip.ctxs := rfl
@[simp] theorem Hw.updDie_group (h : Hw) (n : Nat) (f : Die → Die) (g : Nat) : (h.updDie n f).group g = h.group g := rfl

theorem Hw.die_updDie (h : Hw) (n : Nat) (f : Die → Die) (m : Nat) :
    (h.updDie n f).die m = if n = m ∧ n < 16 then f (h.die m) else h.die m := vget_vupd ..

@[simp] theorem Hw.updCx_links (h : Hw) (n : Nat) (f : DieCtx → DieCtx) : (h.updCx n f).links = h.links := rfl
@[simp] theorem Hw.updCx_host (h : Hw) (n : Nat) (f : DieCtx → DieCtx) : (h.updCx n f).host = h.host := rfl
@[simp] theorem Hw.updCx_ctr (h : Hw) (n : Nat) (f : DieCtx → DieCtx) : (h.updCx n f).ctr = h.ctr := rfl
@[simp] theorem Hw.updCx_stk (h : Hw) (n : Nat) (f : DieCtx → DieCtx) (k : Nat) : (h.updCx n f).stk k = h.stk k := rfl
@[simp] theorem Hw.updCx_ctxs (h : Hw) (n : Nat) (f : DieCtx → DieCtx) : (h.updCx n f).chip.ctxs = h.chip.ctxs := rfl

theorem Hw.cx_updCx (h : Hw) (n : Nat) (f : DieCtx → DieCtx) (m : Nat) :
    (h.updCx n f).cx m = if n = m ∧ n < 16 then f (h.cx m) else h.cx m := by
  simp only [Hw.cx, Hw.updCx, Hw.die_updDie]
  split <;> rfl

@[simp] theorem Hw.updCx_owner (h : Hw) (n : Nat) (f : DieCtx → DieCtx) (m : Nat) : ((h.updCx n f).die m).owner = (h.die m).owner := by
  simp only [Hw.updCx, Hw.die_updDie]; split <;> rfl
@[simp] theorem Hw.updCx_phase (h : Hw) (n : Nat) (f : DieCtx → DieCtx) (m : Nat) : ((h.updCx n f).die m).phase = (h.die m).phase := by
  simp only [Hw.updCx, Hw.die_updDie]; split <;> rfl
@[simp] theorem Hw.updCx_healthy (h : Hw) (n : Nat) (f : DieCtx → DieCtx) (m : Nat) :
    ((h.updCx n f).die m).healthy = (h.die m).healthy := by
  simp only [Hw.updCx, Hw.die_updDie]; split <;> rfl

@[simp] theorem Hw.updStk_links (h : Hw) (n : Nat) (f : Stack → Stack) : (h.updStk n f).links = h.links := rfl
@[simp] theorem Hw.updStk_host (h : Hw) (n : Nat) (f : Stack → Stack) : (h.updStk n f).host = h.host := rfl
@[simp] theorem Hw.updStk_ctr (h : Hw) (n : Nat) (f : Stack → Stack) : (h.updStk n f).ctr = h.ctr := rfl
@[simp] theorem Hw.updStk_die (h : Hw) (n : Nat) (f : Stack → Stack) (m : Nat) : (h.updStk n f).die m = h.die m := rfl
@[simp] theorem Hw.updStk_cx (h : Hw) (n : Nat) (f : Stack → Stack) (m : Nat) : (h.updStk n f).cx m = h.cx m := rfl
@[simp] theorem Hw.updStk_ctxs (h : Hw) (n : Nat) (f : Stack → Stack) : (h.updStk n f).chip.ctxs = h.chip.ctxs := rfl

theorem Hw.stk_updStk (h : Hw) (n : Nat) (f : Stack → Stack) (m : Nat) :
    (h.updStk n f).stk m = if n = m ∧ n < 16 then f (h.stk m) else h.stk m := vget_vupd ..

@[simp] theorem Hw.updRing_chip (h : Hw) (r : Nat) (f : Ring → Ring) : (h.updRing r f).chip = h.chip := rfl
@[simp] theorem Hw.updRing_links (h : Hw) (r : Nat) (f : Ring → Ring) : (h.updRing r f).links = h.links := rfl
@[simp] theorem Hw.updRing_ctr (h : Hw) (r : Nat) (f : Ring → Ring) : (h.updRing r f).ctr = h.ctr := rfl
@[simp] theorem Hw.updRing_mem (h : Hw) (r : Nat) (f : Ring → Ring) : (h.updRing r f).host.mem = h.host.mem := rfl

theorem Hw.ring_updRing (h : Hw) (r : Nat) (f : Ring → Ring) (q : Nat) :
    (h.updRing r f).ring q = if r = q ∧ r < 130 then f (h.ring q) else h.ring q := vget_vupd ..

@[simp] theorem Hw.updPort_chip (h : Hw) (l : Nat) (f : Port → Port) : (h.updPort l f).chip = h.chip := rfl
@[simp] theorem Hw.updPort_host (h : Hw) (l : Nat) (f : Port → Port) : (h.updPort l f).host = h.host := rfl
@[simp] theorem Hw.updPort_ctr (h : Hw) (l : Nat) (f : Port → Port) : (h.updPort l f).ctr = h.ctr := rfl

theorem Hw.port_updPort (h : Hw) (l : Nat) (f : Port → Port) {m : Nat} (hm : m < 48) :
    (h.updPort l f).port m = if l = m then f (h.port m) else h.port m := by
  simp only [Hw.port, Hw.updPort, Hw.onLinks]
  rw [vget_vupd]
  by_cases h1 : l = m
  · subst h1; simp [hm]
  · simp [h1]

theorem Power.die_updDie (p : Power) (n : Nat) (f : PwrDie → PwrDie) (m : Nat) :
    (p.updDie n f).die m = if n = m ∧ n < 16 then f (p.die m) else p.die m := vget_vupd ..

@[simp] theorem Power.updDie_cfg (p : Power) (n : Nat) (f : PwrDie → PwrDie) : (p.updDie n f).cfg = p.cfg := rfl
@[simp] theorem Power.updDie_grant (p : Power) (n : Nat) (f : PwrDie → PwrDie) : (p.updDie n f).grant = p.grant := rfl
@[simp] theorem Power.updDie_mod (p : Power) (n : Nat) (f : PwrDie → PwrDie) : (p.updDie n f).mod = p.mod := rfl

/-! ### Parts of a die -/

@[simp] theorem Hw.updHelm_links (h : Hw) (n : Nat) (f : Helm → Helm) : (h.updHelm n f).links = h.links := rfl
@[simp] theorem Hw.updHelm_host (h : Hw) (n : Nat) (f : Helm → Helm) : (h.updHelm n f).host = h.host := rfl
@[simp] theorem Hw.updHelm_ctr (h : Hw) (n : Nat) (f : Helm → Helm) : (h.updHelm n f).ctr = h.ctr := rfl
@[simp] theorem Hw.updHelm_stk (h : Hw) (n : Nat) (f : Helm → Helm) (k : Nat) : (h.updHelm n f).stk k = h.stk k := rfl
@[simp] theorem Hw.updHelm_ctxs (h : Hw) (n : Nat) (f : Helm → Helm) : (h.updHelm n f).chip.ctxs = h.chip.ctxs := rfl

theorem Hw.cx_updHelm (h : Hw) (n : Nat) (f : Helm → Helm) (m : Nat) :
    (h.updHelm n f).cx m = if n = m ∧ n < 16 then { h.cx m with helm := f (h.cx m).helm } else h.cx m := Hw.cx_updCx ..

@[simp] theorem Hw.updHelm_cores (h : Hw) (n : Nat) (f : Helm → Helm) (m : Nat) : ((h.updHelm n f).cx m).cores = (h.cx m).cores := by
  rw [Hw.cx_updHelm]; split <;> rfl
@[simp] theorem Hw.updHelm_banks (h : Hw) (n : Nat) (f : Helm → Helm) (m : Nat) : ((h.updHelm n f).cx m).banks = (h.cx m).banks := by
  rw [Hw.cx_updHelm]; split <;> rfl
@[simp] theorem Hw.updHelm_sems (h : Hw) (n : Nat) (f : Helm → Helm) (m : Nat) : ((h.updHelm n f).cx m).sems = (h.cx m).sems := by
  rw [Hw.cx_updHelm]; split <;> rfl
@[simp] theorem Hw.updHelm_owner (h : Hw) (n : Nat) (f : Helm → Helm) (m : Nat) : ((h.updHelm n f).die m).owner = (h.die m).owner := Hw.updCx_owner ..
@[simp] theorem Hw.updHelm_phase (h : Hw) (n : Nat) (f : Helm → Helm) (m : Nat) : ((h.updHelm n f).die m).phase = (h.die m).phase := Hw.updCx_phase ..

@[simp] theorem DieCtx.updCore_helm (x : DieCtx) (i : Nat) (f : Core → Core) : (x.updCore i f).helm = x.helm := rfl
@[simp] theorem DieCtx.updCore_sems (x : DieCtx) (i : Nat) (f : Core → Core) : (x.updCore i f).sems = x.sems := rfl
theorem DieCtx.core_updCore (x : DieCtx) (i : Nat) (f : Core → Core) (j : Nat) :
    (x.updCore i f).core j = if i = j ∧ i < 32 then f (x.core j) else x.core j := vget_vupd ..

@[simp] theorem Hw.updCore_links (h : Hw) (n i : Nat) (f : Core → Core) : (h.updCore n i f).links = h.links := rfl
@[simp] theorem Hw.updCore_host (h : Hw) (n i : Nat) (f : Core → Core) : (h.updCore n i f).host = h.host := rfl
@[simp] theorem Hw.updCore_ctr (h : Hw) (n i : Nat) (f : Core → Core) : (h.updCore n i f).ctr = h.ctr := rfl
@[simp] theorem Hw.updCore_stk (h : Hw) (n i : Nat) (f : Core → Core) (k : Nat) : (h.updCore n i f).stk k = h.stk k := rfl
@[simp] theorem Hw.updCore_ctxs (h : Hw) (n i : Nat) (f : Core → Core) : (h.updCore n i f).chip.ctxs = h.chip.ctxs := rfl

theorem Hw.core_updCore (h : Hw) (n i : Nat) (f : Core → Core) (m j : Nat) :
    ((h.updCore n i f).cx m).core j = if n = m ∧ n < 16 ∧ i = j ∧ i < 32 then f ((h.cx m).core j) else (h.cx m).core j := by
  rw [Hw.updCore, Hw.cx_updCx]
  by_cases hn : n = m ∧ n < 16
  · obtain ⟨rfl, h16⟩ := hn
    simp only [h16, and_self, if_true, DieCtx.core_updCore, true_and]
  · rw [if_neg hn, if_neg fun c => hn ⟨c.1, c.2.1⟩]

@[simp] theorem Hw.updCore_helm (h : Hw) (n i : Nat) (f : Core → Core) (m : Nat) : ((h.updCore n i f).cx m).helm = (h.cx m).helm := by
  rw [Hw.updCore, Hw.cx_updCx]; split <;> rfl

@[simp] theorem Hw.updGme_links (h : Hw) (n cl : Nat) (f : Gme → Gme) : (h.updGme n cl f).links = h.links := rfl
@[simp] theorem Hw.updGme_host (h : Hw) (n cl : Nat) (f : Gme → Gme) : (h.updGme n cl f).host = h.host := rfl
@[simp] theorem Hw.updGme_stk (h : Hw) (n cl : Nat) (f : Gme → Gme) (k : Nat) : (h.updGme n cl f).stk k = h.stk k := rfl
theorem Hw.gme_updGme (h : Hw) (n cl : Nat) (f : Gme → Gme) (m c : Nat) :
    (h.updGme n cl f).gme m c = if n = m ∧ n < 16 ∧ cl = c ∧ cl < 4 then f (h.gme m c) else h.gme m c := by
  rw [Hw.gme, Hw.updGme, Hw.cx_updCx]
  by_cases hn : n = m ∧ n < 16
  · obtain ⟨rfl, h16⟩ := hn
    simp only [h16, and_self, if_true, vget_vupd, true_and, Hw.gme]
  · rw [if_neg hn, if_neg fun c => hn ⟨c.1, c.2.1⟩]; rfl

@[simp] theorem Hw.updPuu_links (h : Hw) (n cl : Nat) (f : Puu → Puu) : (h.updPuu n cl f).links = h.links := rfl
@[simp] theorem Hw.updPuu_host (h : Hw) (n cl : Nat) (f : Puu → Puu) : (h.updPuu n cl f).host = h.host := rfl
@[simp] theorem Hw.updPuu_stk (h : Hw) (n cl : Nat) (f : Puu → Puu) (k : Nat) : (h.updPuu n cl f).stk k = h.stk k := rfl
theorem Hw.puu_updPuu (h : Hw) (n cl : Nat) (f : Puu → Puu) (m c : Nat) :
    (h.updPuu n cl f).puu m c = if n = m ∧ n < 16 ∧ cl = c ∧ cl < 4 then f (h.puu m c) else h.puu m c := by
  rw [Hw.puu, Hw.updPuu, Hw.cx_updCx]
  by_cases hn : n = m ∧ n < 16
  · obtain ⟨rfl, h16⟩ := hn
    simp only [h16, and_self, if_true, vget_vupd, true_and, Hw.puu]
  · rw [if_neg hn, if_neg fun c => hn ⟨c.1, c.2.1⟩]; rfl

/-! ### Channels, groups and contexts -/

@[simp] theorem Hw.updChan_links (h : Hw) (s c : Nat) (f : Chan → Chan) : (h.updChan s c f).links = h.links := rfl
@[simp] theorem Hw.updChan_host (h : Hw) (s c : Nat) (f : Chan → Chan) : (h.updChan s c f).host = h.host := rfl
@[simp] theorem Hw.updChan_cx (h : Hw) (s c : Nat) (f : Chan → Chan) (n : Nat) : (h.updChan s c f).cx n = h.cx n := rfl
@[simp] theorem Hw.updChan_mem (h : Hw) (s c : Nat) (f : Chan → Chan) (k : Nat) : ((h.updChan s c f).stk k).mem = (h.stk k).mem := by
  rw [Hw.updChan, Hw.stk_updStk]; split <;> rfl
@[simp] theorem Hw.updChan_bad (h : Hw) (s c : Nat) (f : Chan → Chan) (k : Nat) : ((h.updChan s c f).stk k).bad = (h.stk k).bad := by
  rw [Hw.updChan, Hw.stk_updStk]; split <;> rfl
@[simp] theorem Hw.updChan_errs (h : Hw) (s c : Nat) (f : Chan → Chan) (k : Nat) : ((h.updChan s c f).stk k).errs = (h.stk k).errs := by
  rw [Hw.updChan, Hw.stk_updStk]; split <;> rfl

@[simp] theorem Hw.updChb_chip (h : Hw) (k : Nat) (f : ChBind → ChBind) : (h.updChb k f).chip = h.chip := rfl
@[simp] theorem Hw.updChb_host (h : Hw) (k : Nat) (f : ChBind → ChBind) : (h.updChb k f).host = h.host := rfl
@[simp] theorem Hw.updChb_port (h : Hw) (k : Nat) (f : ChBind → ChBind) (l : Nat) : (h.updChb k f).port l = h.port l := rfl
theorem Hw.chb_updChb (h : Hw) (k : Nat) (f : ChBind → ChBind) (j : Nat) :
    (h.updChb k f).chb j = if k = j ∧ k < 128 then f (h.chb j) else h.chb j := vget_vupd ..

@[simp] theorem Hw.updGroup_links (h : Hw) (g : Nat) (f : Group → Group) : (h.updGroup g f).links = h.links := rfl
@[simp] theorem Hw.updGroup_host (h : Hw) (g : Nat) (f : Group → Group) : (h.updGroup g f).host = h.host := rfl
@[simp] theorem Hw.updGroup_cx (h : Hw) (g : Nat) (f : Group → Group) (n : Nat) : (h.updGroup g f).cx n = h.cx n := rfl
@[simp] theorem Hw.updGroup_stk (h : Hw) (g : Nat) (f : Group → Group) (k : Nat) : (h.updGroup g f).stk k = h.stk k := rfl
theorem Hw.group_updGroup (h : Hw) (g : Nat) (f : Group → Group) (j : Nat) :
    (h.updGroup g f).group j = if g = j ∧ g < 256 then f (h.group j) else h.group j := vget_vupd ..

@[simp] theorem Hw.updCtx_links (h : Hw) (num : BitVec 16) (f : Ctx → Ctx) : (h.updCtx num f).links = h.links := rfl
@[simp] theorem Hw.updCtx_host (h : Hw) (num : BitVec 16) (f : Ctx → Ctx) : (h.updCtx num f).host = h.host := rfl
@[simp] theorem Hw.updCtx_die (h : Hw) (num : BitVec 16) (f : Ctx → Ctx) (n : Nat) : (h.updCtx num f).die n = h.die n := rfl
@[simp] theorem Hw.updCtx_stk (h : Hw) (num : BitVec 16) (f : Ctx → Ctx) (k : Nat) : (h.updCtx num f).stk k = h.stk k := rfl

end Sys2Proof.Machine
end

