-- ==== Sys2Proof/Laws/Ops.lean ====
section
/-! SUPPORT. What the shared operations can do: counters, condition records, completions. -/

namespace Sys2Proof.Machine

/-! ### Counters leave everything but the counters (22:R451) -/

@[simp] theorem Hw.count_chip (h : Hw) (key n : Nat) (p : Priv) (cls m : Nat) (a : Option Nat) : (h.count key n p cls m a).chip = h.chip := rfl
@[simp] theorem Hw.count_links (h : Hw) (key n : Nat) (p : Priv) (cls m : Nat) (a : Option Nat) : (h.count key n p cls m a).links = h.links := rfl
@[simp] theorem Hw.count_host (h : Hw) (key n : Nat) (p : Priv) (cls m : Nat) (a : Option Nat) : (h.count key n p cls m a).host = h.host := rfl
@[simp] theorem Hw.count_die (h : Hw) (key n : Nat) (p : Priv) (cls m : Nat) (a : Option Nat) (d : Nat) : (h.count key n p cls m a).die d = h.die d := rfl
@[simp] theorem Hw.count_cx (h : Hw) (key n : Nat) (p : Priv) (cls m : Nat) (a : Option Nat) (d : Nat) : (h.count key n p cls m a).cx d = h.cx d := rfl
@[simp] theorem Hw.count_stk (h : Hw) (key n : Nat) (p : Priv) (cls m : Nat) (a : Option Nat) (k : Nat) : (h.count key n p cls m a).stk k = h.stk k := rfl
@[simp] theorem Hw.countHub_chip (h : Hw) (e n : Nat) (p : Priv) (g : Nat) : (h.countHub e n p g).chip = h.chip := rfl
@[simp] theorem Hw.countHub_links (h : Hw) (e n : Nat) (p : Priv) (g : Nat) : (h.countHub e n p g).links = h.links := rfl
@[simp] theorem Hw.countHub_host (h : Hw) (e n : Nat) (p : Priv) (g : Nat) : (h.countHub e n p g).host = h.host := rfl

/-! ### A change of the host interface -/

@[simp] theorem Hw.hostEv_chip (h : Hw) (f : HostIf → HostIf) : (h.hostEv f).chip = h.chip := by
  unfold Hw.hostEv; dsimp only; split <;> split <;> rfl
@[simp] theorem Hw.hostEv_links (h : Hw) (f : HostIf → HostIf) : (h.hostEv f).links = h.links := by
  unfold Hw.hostEv; dsimp only; split <;> split <;> rfl
@[simp] theorem Hw.hostEv_host (h : Hw) (f : HostIf → HostIf) : (h.hostEv f).host = f h.host := by
  unfold Hw.hostEv; dsimp only; split <;> split <;> rfl

/-! ### A condition changes the host interface only (20:R418) -/

@[simp] theorem Hw.raise_chip (h : Hw) (c : Cond) : (h.raise c).chip = h.chip := Hw.hostEv_chip ..
@[simp] theorem Hw.raise_links (h : Hw) (c : Cond) : (h.raise c).links = h.links := Hw.hostEv_links ..
@[simp] theorem Hw.raise_host (h : Hw) (c : Cond) : (h.raise c).host = h.host.raise c := Hw.hostEv_host ..
@[simp] theorem Hw.raise_die (h : Hw) (c : Cond) (n : Nat) : (h.raise c).die n = h.die n := by simp [Hw.die]
@[simp] theorem Hw.raise_cx (h : Hw) (c : Cond) (n : Nat) : (h.raise c).cx n = h.cx n := by simp [Hw.cx]
@[simp] theorem Hw.raise_stk (h : Hw) (c : Cond) (k : Nat) : (h.raise c).stk k = h.stk k := by simp [Hw.stk]
@[simp] theorem Hw.raiseHub_chip (h : Hw) (c e a b : Nat) : (h.raiseHub c e a b).chip = h.chip := Hw.raise_chip ..
@[simp] theorem Hw.raiseHub_links (h : Hw) (c e a b : Nat) : (h.raiseHub c e a b).links = h.links := Hw.raise_links ..
@[simp] theorem Hw.raiseDie_chip (h : Hw) (n c k e a b : Nat) : (h.raiseDie n c k e a b).chip = h.chip := Hw.raise_chip ..
@[simp] theorem Hw.raiseDie_links (h : Hw) (n c k e a b : Nat) : (h.raiseDie n c k e a b).links = h.links := Hw.raise_links ..
@[simp] theorem Hw.raiseDie_die (h : Hw) (n c k e a b m : Nat) : (h.raiseDie n c k e a b).die m = h.die m := Hw.raise_die ..
@[simp] theorem Hw.raiseDie_cx (h : Hw) (n c k e a b m : Nat) : (h.raiseDie n c k e a b).cx m = h.cx m := Hw.raise_cx ..
@[simp] theorem Hw.raiseDie_stk (h : Hw) (n c k e a b m : Nat) : (h.raiseDie n c k e a b).stk m = h.stk m := Hw.raise_stk ..

/-- What no ring entry or message reaches: the commands, the readiness and the start-up status of the host interface. -/
def HostIf.steady (x : HostIf) : List Cmd × Nat × Bool × Bool × Bool × Bool × BitVec 4 × Bool :=
  (x.cmds, x.nextCmd, x.bme, x.ready, x.handover, x.perst, x.bootStep, x.d3hot)

@[simp] theorem HostIf.message_steady (x : HostIf) (v : Nat) : (x.message v).steady = x.steady := by
  unfold HostIf.message; split <;> rfl
@[simp] theorem HostIf.ringMessage_steady (x : HostIf) (r : Nat) : (x.ringMessage r).steady = x.steady := by
  unfold HostIf.ringMessage; dsimp only; split
  · rw [HostIf.message_steady]; rfl
  · rfl
@[simp] theorem HostIf.writeEntry_steady (x : HostIf) (r : Nat) (e : HeldEntry) : (x.writeEntry r e).steady = x.steady := by
  unfold HostIf.writeEntry; dsimp only; rw [HostIf.ringMessage_steady]; simp only [HostIf.steady]
@[simp] theorem HostIf.push_steady (x : HostIf) (r : Nat) (e : HeldEntry) : (x.push r e).steady = x.steady := by
  unfold HostIf.push; split
  · simp
  · rfl
@[simp] theorem HostIf.record_steady (x : HostIf) (e : HeldEntry) : (x.record e).steady = x.steady := by
  unfold HostIf.record; split
  · rfl
  · simp
@[simp] theorem HostIf.raise_steady (x : HostIf) (c : Cond) : (x.raise c).steady = x.steady := by
  unfold HostIf.raise; rw [HostIf.record_steady]; unfold HostIf.driveWake; split <;> rfl

/-! ### A condition takes the next sequence number (20:R418) -/

@[simp] theorem HostIf.message_seq (x : HostIf) (v : Nat) : (x.message v).seq = x.seq := by unfold HostIf.message; split <;> rfl
@[simp] theorem HostIf.ringMessage_seq (x : HostIf) (r : Nat) : (x.ringMessage r).seq = x.seq := by
  unfold HostIf.ringMessage; dsimp only; split <;> simp
@[simp] theorem HostIf.writeEntry_seq (x : HostIf) (r : Nat) (e : HeldEntry) : (x.writeEntry r e).seq = x.seq := by
  unfold HostIf.writeEntry; simp
@[simp] theorem HostIf.push_seq (x : HostIf) (r : Nat) (e : HeldEntry) : (x.push r e).seq = x.seq := by
  unfold HostIf.push; split <;> simp
@[simp] theorem HostIf.record_seq (x : HostIf) (e : HeldEntry) : (x.record e).seq = x.seq := by
  unfold HostIf.record; split <;> simp
@[simp] theorem HostIf.raise_seq (x : HostIf) (c : Cond) : (x.raise c).seq = x.seq + 1 := by
  unfold HostIf.raise; rw [HostIf.record_seq]; unfold HostIf.driveWake; split <;> rfl

/-! ### A completion changes the host interface only (18:R384) -/

@[simp] theorem Hw.complete_chip (h : Hw) (id : Nat) (r : Result) : (h.complete id r).chip = h.chip := by
  unfold Hw.complete; split <;> simp
@[simp] theorem Hw.complete_links (h : Hw) (id : Nat) (r : Result) : (h.complete id r).links = h.links := by
  unfold Hw.complete; split <;> simp
@[simp] theorem Hw.complete_die (h : Hw) (id : Nat) (r : Result) (n : Nat) : (h.complete id r).die n = h.die n := by simp [Hw.die]
@[simp] theorem Hw.complete_cx (h : Hw) (id : Nat) (r : Result) (n : Nat) : (h.complete id r).cx n = h.cx n := by simp [Hw.cx]
@[simp] theorem Hw.complete_stk (h : Hw) (id : Nat) (r : Result) (n : Nat) : (h.complete id r).stk n = h.stk n := by simp [Hw.stk]

@[simp] theorem State.raise_pending (s : State) (c : Cond) : (s.raise c).pending = s.pending := rfl
@[simp] theorem State.raise_power (s : State) (c : Cond) : (s.raise c).power = s.power := rfl
@[simp] theorem State.raise_sec (s : State) (c : Cond) : (s.raise c).sec = s.sec := rfl
@[simp] theorem State.complete_pending (s : State) (i : Nat) (r : Result) : (s.complete i r).pending = s.pending := rfl
@[simp] theorem State.complete_power (s : State) (i : Nat) (r : Result) : (s.complete i r).power = s.power := rfl
@[simp] theorem State.complete_sec (s : State) (i : Nat) (r : Result) : (s.complete i r).sec = s.sec := rfl

/-- A command that is not outstanding does not complete twice. -/
theorem Hw.complete_none (h : Hw) (id : Nat) (r : Result) (hn : h.cmd? id = none) : h.complete id r = h := by
  simp [Hw.complete, hn]

/-! ### Conditions raised once -/

theorem Hw.raiseOnce_again (h : Hw) (n code core eng sub a b : Nat) (hr : (h.cx n).raised.contains (code, sub) = true) :
    h.raiseOnce n code core eng sub a b = h := by
  unfold Hw.raiseOnce; rw [if_pos hr]

theorem Hw.raiseOnce_links (h : Hw) (n code core eng sub a b : Nat) : (h.raiseOnce n code core eng sub a b).links = h.links := by
  unfold Hw.raiseOnce; split <;> simp

theorem Hw.raiseOnce_stk (h : Hw) (n code core eng sub a b k : Nat) : (h.raiseOnce n code core eng sub a b).stk k = h.stk k := by
  unfold Hw.raiseOnce; split <;> simp

/-! ### Stack memory (13) -/

/-- A whole burst that is written can be read again, and a byte outside the written range reads as before (13:R285). -/
theorem Stack.store_mem_wf {k : Stack} {off : Nat} {data : List Byte} (h : k.mem.wf = true) : (k.store off data).mem.wf = true :=
  Memory.writeN_wf h

theorem Stack.store_read {k : Stack} {off a : Nat} {data : List Byte} (h : k.mem.wf = true) :
    (k.store off data).mem.read a = if off ≤ a ∧ a < off + data.length then data.getD (a - off) 0 else k.mem.read a :=
  Memory.read_writeN h

/-- An answered read leaves every byte of every stack; an answered write changes one stack. -/
theorem Hw.stkRead_ok {h h' : Hw} {s off n : Nat} {w : Who} {l : List Byte} (hr : h.stkRead s off n w = .ok (l, h')) :
    (h.stk s).badRead off n = none ∧ l = (h.stk s).mem.readN off n := by
  unfold Hw.stkRead at hr
  split at hr
  · cases hr
  · rename_i hb
    injection hr with hr
    injection hr with h1 h2
    exact ⟨hb, h1.symm⟩

/-! ### Translation (14:R293) -/

theorem mem_pagesOf {fuel va n : Nat} {p : Nat × Nat} (h : p ∈ pagesOf fuel va n) : va ≤ p.1 ∧ p.1 < va + n := by
  induction fuel generalizing va n with
  | zero => simp [pagesOf] at h
  | succ f ih =>
    rw [pagesOf] at h
    split at h
    · simp at h
    · rcases List.mem_cons.1 h with rfl | h
      · simp; omega
      · have := ih h
        omega

theorem entryOff_page {level off va va' : Nat} (h1 : natFld va' 38 10 = natFld va 38 10) (h2 : natFld va' 25 13 = natFld va 25 13)
    (h : level = 1 ∨ level = 2) : entryOff level off va' = entryOff level off va := by
  rcases h with rfl | rfl
  · simp [entryOff, h1]
  · simp [entryOff, h2]

/-- A walk that ends at a large page gives its leaf for every address of that page (14:R293). -/
theorem Hw.walkFrom_page {h : Hw} {n va va' access fuel level s off : Nat} {l : Leaf} (h1 : natFld va' 38 10 = natFld va 38 10)
    (h2 : natFld va' 25 13 = natFld va 25 13) (hv : level = 1 ∨ level = 2) (hs : l.size ≠ 2 ^ 16)
    (hw : h.walkFrom n va' access fuel level s off = .ok l) : h.walkFrom n va access fuel level s off = .ok l := by
  induction fuel generalizing level s off with
  | zero => simp [Hw.walkFrom] at hw
  | succ f ih =>
    rw [Hw.walkFrom, entryOff_page h1 h2 hv] at hw
    rw [Hw.walkFrom]
    cases he : h.readEntry s (entryOff level off va) with
    | error x => simp [he, bind, Except.bind] at hw
    | ok e =>
      simp only [he, bind, Except.bind] at hw ⊢
      split at hw
      · simp at hw
      · split at hw
        · rename_i hl
          simpa [hl] using hw
        · rename_i hl
          rw [if_neg hl]
          rcases hv with rfl | rfl
          · exact ih (.inr rfl) hw
          · exfalso
            cases f with
            | zero => simp [Hw.walkFrom] at hw
            | succ f =>
              rw [Hw.walkFrom] at hw
              generalize h.readEntry ((teStackOf n e).getD 0) (entryOff (2 + 1) (teAddr e * 4096) va') = r at hw
              cases r with
              | error x => simp [bind, Except.bind] at hw
              | ok e3 =>
                simp only [bind, Except.bind] at hw
                split at hw
                · simp at hw
                · rename_i hf3
                  split at hw
                  · injection hw with hw; subst hw; simp [mkLeaf] at hs
                  · rename_i hl3
                    have hm : teMalformed 3 e3 = true := by simp [teMalformed, hl3]
                    simp only [Nat.reduceAdd, Hw.entryFault, hm] at hf3
                    split at hf3 <;> simp at hf3

theorem Hw.walk_page {h : Hw} {n va va' access : Nat} {root : Root} {l : Leaf} (h0 : va' / 2 ^ 25 = va / 2 ^ 25) (hs : l.size ≠ 2 ^ 16)
    (hw : h.walk n root va' access = .ok l) : h.walk n root va access = .ok l :=
  Hw.walkFrom_page (by simp only [natFld, Nat.shiftRight_eq_div_pow]; omega) (by simp only [natFld, Nat.shiftRight_eq_div_pow]; omega) (.inl rfl) hs hw

end Sys2Proof.Machine
end

