-- ==== Sys2Proof/Safety.lean ====
section
/-! DEFINITION. What a step may never do, and the conditions and results of commands, in the terms the statements use. -/

namespace Sys2Proof.Machine

/-- A step answers a next state. -/
def Runs (s : State) : Prop := ∃ t, step s = .next t

/-- What a command of the data paths, the links or the host interface leaves: the queue, the power manager, the security root. -/
def SameManaged (s t : State) : Prop := t.pending = s.pending ∧ t.power = s.power ∧ t.sec = s.sec

/-! ### Stack memory (13) -/

/-- No stack holds a latent symbol error, so that no access makes a decoder correct one, report it or take a channel out of use (13:R281, R282). -/
def Hw.clean (h : Hw) : Prop := ∀ k, (h.stk k).errs = []

/-- A core but for its unordered external writes, which signals, acquires and barriers mark or order (02:R48, R51, R52). -/
def Core.plain (c : Core) : Core := { c with unord := [] }

/-- What external writes of a core count as unordered, without the semaphores whose signals cover them. -/
def Core.unordered (c : Core) : List (Nat × Nat) := c.unord.map fun e => (e.unit, e.org)

/-! ### Control words (03) -/

/-- The die of a control-word row; none for every other command. -/
def wordDie : Instr → Option (Fin 16)
  | .nextWord d _ => some d
  | .loopEnd d _ => some d
  | .jump d _ => some d
  | .branchIfSet d _ => some d
  | .branchIfClear d _ => some d
  | .call d _ => some d
  | .returnWord d _ => some d
  | .bankSwitch d _ => some d
  | .endWord d _ => some d
  | .loopCountLoad d _ => some d
  | .vlenLoad d _ => some d
  | .dieBarrier d _ => some d
  | .contextBarrier d _ => some d
  | .semaphoreWait d _ => some d
  | .semaphoreSignal d _ => some d
  | .remoteSignal d _ => some d
  | .streamTrigger d _ => some d
  | .smallTransfer d _ => some d
  | .yield d _ => some d
  | .flagLoadAny d _ => some d
  | .flagLoadAll d _ => some d
  | .counterRead d _ => some d
  | .skipCountRead d _ => some d
  | .mxuCompute d _ => some d
  | .stationaryLoad d _ => some d
  | .stationaryLoadTransposed d _ => some d
  | .transposeRowWrite d _ => some d
  | .accumulatorDrain d _ => some d
  | .vxPass d _ _ => some d
  | .vxMul d _ _ => some d
  | .vxAdd d _ _ => some d
  | .vxSub d _ _ => some d
  | .vxRsub d _ _ => some d
  | .vxFmai d _ _ => some d
  | .vxFnmai d _ _ => some d
  | .vxMin d _ _ => some d
  | .vxMax d _ _ => some d
  | .vxAbs d _ _ => some d
  | .vxNeg d _ _ => some d
  | .vxClamp d _ _ => some d
  | .vxCmpeq d _ _ => some d
  | .vxCmpne d _ _ => some d
  | .vxCmplt d _ _ => some d
  | .vxCmple d _ _ => some d
  | .vxCmpgt d _ _ => some d
  | .vxCmpge d _ _ => some d
  | .vxSelect d _ _ => some d
  | .vxFloor d _ _ => some d
  | .vxCeil d _ _ => some d
  | .vxRint d _ _ => some d
  | .vxTrunc d _ _ => some d
  | .vxFtoi d _ _ => some d
  | .vxItof d _ _ => some d
  | .vxIadd d _ _ => some d
  | .vxIsub d _ _ => some d
  | .vxImul d _ _ => some d
  | .vxAnd d _ _ => some d
  | .vxOr d _ _ => some d
  | .vxXor d _ _ => some d
  | .vxShl d _ _ => some d
  | .vxShr d _ _ => some d
  | .vxSar d _ _ => some d
  | .vxImin d _ _ => some d
  | .vxImax d _ _ => some d
  | .vxGset d _ => some d
  | .scanAdd d _ => some d
  | .scanMax d _ => some d
  | .scanMin d _ => some d
  | .scanMultiply d _ => some d
  | .scanAffinePair d _ => some d
  | .rsuSum d _ => some d
  | .rsuWelford d _ => some d
  | .rsuMaxArgmax d _ => some d
  | .rsuSoftmaxNormaliser d _ => some d
  | .rsuTopk d _ => some d
  | .rsuFinalise d _ => some d
  | .vernierLookup d _ => some d
  | .vernierSwap d _ => some d
  | _ => none

/-- The operand of a command with the bits that name its row. -/
def rowBits (i : Instr) : Word512 := i.fixed.foldl (fun w b => setFld w b.1 b.2.1 b.2.2) i.bits

/-- Helm of die `n` fetches a word of its segment, and no pre-emption is pending (R93). -/
structure Fetches (h : Hw) (n : Nat) : Prop where
  run : h.canIssue n = true
  bank : ((h.cx n).bank (h.cx n).helm.bank.toNat).valid = true
  inside : (h.cx n).helm.index.toNat < ((h.cx n).bank (h.cx n).helm.bank.toNat).words.toNat
  calm : (h.cx n).pre = .none

/-- Word `w` waits for nothing at Helm of die `n`: it is legal (R63, R84), the return stack allows it (R66), the other bank is valid
(R67), the flags it branches on are known (R73), every FIFO has room (R59), a barrier has all its participants (R52, R71), and the
semaphore holds enough (R68). A context barrier is the die's own: its context has no other die. -/
structure Ready (h : Hw) (n : Nat) (w : Word512) : Prop where
  legal : checkWord (h.legalEnv n) w = none
  call : cwClass w = 5 → (h.cx n).helm.stack.length < 8
  ret : cwClass w = 6 → (h.cx n).helm.stack ≠ []
  other : cwClass w = 7 → ((h.cx n).bank (1 - (h.cx n).helm.bank.toNat)).valid = true
  flags : cwClass w = 3 ∨ cwClass w = 4 →
    ∀ q ∈ flagLoads (h.cx n).helm (cwFlag w) (h.cx n).helm.step, h.flagKnown n (h.cx n).helm.step q = true
  room : ∀ i ∈ h.healthyCores n, ((h.cx n).core i).fifo.length < 64
  die : cwBar w = 1 → h.barReady n = true
  ctx : cwBar w = 2 → h.ctxBarReady n = true ∧ ∀ d ∈ h.diesOf n, d = n
  sem : cwSemop w = 1 → cwSemn w + 1 ≤ ((h.cx n).sem (cwSem w)).toNat

/-- Helm of die `n` issues word `w` when it comes to it. -/
structure Issuable (h : Hw) (n : Nat) (w : Word512) : Prop extends Fetches h n, Ready h n w

/-- Helm after a word (R62, R64–R67): `x` before, `y` after. -/
structure HelmMoves (w : Word512) (x y : Helm) : Prop where
  step : y.step = x.step + 1
  held : y.held = none
  skips : y.skips = x.skips
  st : y.st = if cwClass w = 8 then .idle else .issuing
  bank : y.bank = match cwClass w with
    | 6 => BitVec.ofNat 1 ((x.stack.headD 0).toNat / 131072)
    | 7 => 1 - x.bank
    | _ => x.bank
  index : y.index = match cwClass w with
    | 1 => if 1 < (vget x.lc (cwLc w) 0).toNat then BitVec.ofNat 17 (cwTarget w) else x.index + 1
    | 2 => BitVec.ofNat 17 (cwTarget w)
    | 3 => if x.flagNow (cwFlag w) then BitVec.ofNat 17 (cwTarget w) else x.index + 1
    | 4 => if x.flagNow (cwFlag w) then x.index + 1 else BitVec.ofNat 17 (cwTarget w)
    | 5 => BitVec.ofNat 17 (cwTarget w)
    | 6 => BitVec.ofNat 17 ((x.stack.headD 0).toNat % 131072)
    | 7 => BitVec.ofNat 17 (cwTarget w)
    | _ => x.index + 1
  stack : y.stack = match cwClass w with
    | 5 => BitVec.ofNat 18 (131072 * x.bank.toNat + (x.index + 1).toNat) :: x.stack
    | 6 => x.stack.tail
    | _ => x.stack
  lc : ∀ k, k < 8 → vget y.lc k 0 =
    if cwImmuse w = 1 ∧ cwLdlc w = k then BitVec.ofNat 32 (cwImm w)
    else if cwClass w = 1 ∧ cwLc w = k then vget x.lc k 0 - 1
    else vget x.lc k 0
  start : ∀ k, k < 8 → vget y.lcStart k 0 = if cwImmuse w = 1 ∧ cwLdlc w = k then BitVec.ofNat 32 (cwImm w) else vget x.lcStart k 0

/-- What a core does with entry `e` of a word that comes down the tree (03:R59, 02:R37): it waits behind other words; or the core executes
it at once, `x` before and `y` after, and holds it only when a tile that it reads fails verification. `reads` says that the value
of a status read is the core's own (R74); else it is the entry's. -/
def CoreTakes (k : Nat) (reads : Bool) (e : FifoEntry) (x y : Core) : Prop :=
  if x.fifo = [] then
    ∃ v, (reads = false → v = e.status) ∧
      match ({ x with fifo := [e] } : Core).exec k { e with status := v } with
      | none => y = { x with fifo := [e] }
      | some o => y = { o.core with
          fifo := []
          mxuFail := o.core.mxuFail || o.evs.any fun ev => match ev with | .first c _ _ => c == 0x0601 | _ => false }
  else y = { x with fifo := x.fifo ++ [e] }

/-- The entry that Helm `x` sends with word `w`, skipped or not. -/
def entryOf (x : Helm) (w : Word512) (skipped : Bool) : FifoEntry :=
  ⟨w, skipped, BitVec.ofNat 17 (65536 * x.bank.toNat + x.index.toNat % 65536), if skipped then 0 else x.skips.toNat, false⟩

/-- What keeps word `w` at Helm, by what it waits for (R67, R73, R59, R52, R71, R68). -/
def NotYet (h : Hw) (n : Nat) (w : Word512) : HeldWhy → Prop
  | .bank => cwClass w = 7 ∧ ((h.cx n).bank (1 - (h.cx n).helm.bank.toNat)).valid = false
  | .flag => (cwClass w = 3 ∨ cwClass w = 4) ∧ ∃ q ∈ flagLoads (h.cx n).helm (cwFlag w) (h.cx n).helm.step, h.flagKnown n (h.cx n).helm.step q = false
  | .fifo => ∃ i ∈ h.healthyCores n, 64 ≤ ((h.cx n).core i).fifo.length
  | .dieBar => cwBar w = 1 ∧ h.barReady n = false
  | .ctxBar => cwBar w = 2 ∧ h.ctxBarReady n = false
  | .sem => cwSemop w = 1 ∧ ((h.cx n).sem (cwSem w)).toNat < cwSemn w + 1

/-- The order in which Helm looks at its waits. -/
def HeldWhy.rank : HeldWhy → Nat
  | .bank => 0
  | .flag => 1
  | .fifo => 2
  | .dieBar => 3
  | .ctxBar => 4
  | .sem => 5

/-- STATE of CD_HELM_STAT while Helm holds a word (03 Table 3-1). -/
def HeldWhy.shown : HeldWhy → HelmSt
  | .bank => .waitBank
  | .flag => .waitFlag
  | .fifo => .fifoFull
  | _ => .issuing

/-- Helm of die `n` no longer holds its word. -/
def Hw.letGo (h : Hw) (n : Nat) : Hw := h.updHelm n fun y => { y with held := none, st := .issuing }

/-- The command that ends a wait (02:R52, 03:R68, R73). -/
def waitEnd (d : Fin 16) : HeldWhy → Option Instr
  | .dieBar | .ctxBar => some (.barrierResolve d)
  | .sem => some (.semWaitResolve d)
  | .flag => some (.flagResolution d)
  | .bank | .fifo => none

/-- Helm after a skipped word (R85, R86). -/
structure HelmSkips (x y : Helm) : Prop where
  step : y.step = x.step + 1
  index : y.index = x.index + 1
  skips : y.skips = x.skips + 1
  st : y.st = if x.skips.toNat + 1 = 256 then .stopped else .issuing
  held : y.held = none
  bank : y.bank = x.bank
  lc : y.lc = x.lc
  stack : y.stack = x.stack

/-! ### Links (16) -/

/-- A command that changes link port `l` alone: the port becomes `p`; the dies, the stacks and every other port are as before. -/
structure PortBecomes (s t : State) (l : Nat) (p : Port) : Prop where
  port : t.hw.port l = p
  others : ∀ m, m < 48 → m ≠ l → t.hw.port m = s.hw.port m
  chip : t.hw.chip = s.hw.chip

/-- Flits of ordered channel `k` that stand unacknowledged in the replay buffers. -/
def Hw.standing (h : Hw) (k : Nat) : Nat := (h.links.ports.toList.map fun p => p.unacked k).foldl (· + ·) 0

/-- A channel's end once it is abandoned, with `n` flits of it still to be acknowledged (16:R336). -/
def ChBind.lost (b : ChBind) (n : Nat) : ChBind := { b with abandoned := true, opened := false, acked := b.sent, stale := n, owed := [] }

/-- Channel `k` has been emptied: its buffers are free and their credits due; every other port is as before (16:R333). -/
def Drained (s t : State) (k : Nat) : Prop :=
  t.hw.links.chb = s.hw.links.chb ∧ ∀ l, l < 48 → t.hw.port l =
    if (s.hw.port l).dirNow.toNat = k / 64 then (s.hw.port l).drained (k % 64) else s.hw.port l

/-- A port that has discarded a flit: one NAK leaves, with the last flit accepted, until the next is accepted (16:R332). -/
def Port.discarded (p : Port) : Port := if p.nakSent then p else { p.sendIdle true with nakSent := true }

/-- A port that has accepted flit `f`: the sequence moves, its credits count, and its acknowledgement leaves (16:R332). -/
def Port.accepted (p : Port) (f : Flit) : Port :=
  ({ p with rxNext := p.rxNext + 1, nakSent := false }.credited (flCredit f)).sendIdle false

/-- A flit that carries what its sender put into it: its code and CRC hold and it asks for nothing to be sent again. -/
def flSound (f : Flit) (codeOk : Bool) : Prop := codeOk = true ∧ flCrc f = flitCrc f ∧ flNak f = false

/-- Nothing waits for a link: no held bulk or reduction flit, no take that copies to a buddy. -/
def Hw.linksCalm (h : Hw) : Prop := h.links.bulkHeld = [] ∧ h.chip.takes = []

/-! ### Reductions (17) -/

/-- Neither direction of the fleet dimension W is lost (17:R367). -/
def Hw.fleetAlive (h : Hw) : Prop := h.links.alive 6 = true ∧ h.links.alive 7 = true

/-- CSEM of group record `x` has taken 1 on each of the dies `ds`, and no other semaphore has changed (17:R365, R366). -/
def RedSignalled (x : Word512) (ds : List Nat) (s t : State) : Prop :=
  ∀ n, n < 16 → ∀ k, k < 64 → (t.hw.cx n).sem k =
    if n ∈ ds ∧ k = grCsem x then (semPlus ((s.hw.cx n).sem k) 1).1 else (s.hw.cx n).sem k

/-- The one issue of group `g` has aborted with a code (17:R366, R367). -/
structure RedAborted (g code : Nat) (c : Ctx) (s t : State) : Prop where
  issues : (t.hw.group g).issues = []
  aborted : (t.hw.group g).aborted.toNat = min 65535 ((s.hw.group g).aborted.toNat + 1)
  last : (t.hw.group g).last = BitVec.ofNat 8 (code % 256)
  signal : RedSignalled (s.hw.group g).rcd (grDies (s.hw.group g).rcd c) s t
  queue : t.hw.chip.redq = []
  mem : t.hw.chip.stk = s.hw.chip.stk

/-- Group `g` has one issue in flight, alone on its channel; its contributing dies are on their dies. -/
structure RedAlone (h : Hw) (g : Nat) (c : Ctx) (i : RedIssue) : Prop where
  valid : grValid (h.group g).rcd = true
  ctx : h.redCtx g = some c
  issues : (h.group g).issues = [i]
  queue : h.chip.redq = [(h.redChan g, g)]
  distinct : (grDies (h.group g).rcd c).Nodup
  here : ∀ n ∈ grDies (h.group g).rcd c, h.resident n c.num = true

/-- A reduction flit for group `g` and issue `k` of this module. -/
structure RedFor (h : Hw) (f : Flit) (g : Nat) (k : Word32) : Prop where
  here : flDst f = h.links.lpos
  slot : rfSlot f = g
  idx : rfIdx f = k.toNat % 256

/-! ### Host commands (18) -/

/-- The submission ring of a host-command row; none for every other command. -/
def ringOf : Instr → Option (Fin 64)
  | .launch q _ => some q
  | .segmentLoad q _ => some q
  | .preemptImmediate q _ => some q
  | .preemptAtYield q _ => some q
  | .resume q _ => some q
  | .dmaFlat q _ => some q
  | .dmaTransferRecord q _ => some q
  | .mapLeaves q _ => some q
  | .mapTablePointer q _ => some q
  | .unmap q _ => some q
  | .descCreate q _ => some q
  | .descDestroy q _ => some q
  | .redSetup q _ => some q
  | .wpTake q _ => some q
  | .wpReserve q _ => some q
  | .wpRelease q _ => some q
  | .wpRestoreHost q _ => some q
  | .wpRestoreBuddy q _ => some q
  | .latTolDevice q _ => some q
  | .latTolRole q _ => some q
  | .latTolContext q _ => some q
  | .pwrGrant q _ => some q
  | .fwBlock q _ => some q
  | .fwCommit q _ => some q
  | .fwAbort q _ => some q
  | .attestSpdm q _ => some q
  | .attestDebugUnlock q _ => some q
  | .ctrCfg q _ => some q
  | .configApply q _ => some q
  | .resetWarm q _ => some q
  | .resetDie q _ => some q
  | .resetLinkPort q _ => some q
  | _ => none

/-- The argument block of a command as it is read, once (18:R383). -/
def State.argOf (s : State) (w : Word512) : List Byte :=
  let n := ((cmShape w).map (·.arg)).getD 0
  if n = 0 then [] else s.hw.host.mem.readN (cmArg w) n

/-- The command that ring `q` brings next, when it starts at once. -/
def State.nextCmd (s : State) (q : Fin 64) (w : Word512) : Cmd := ⟨s.hw.host.nextCmd, q, w, .running, s.argOf w, .none⟩

/-- The state with one more command outstanding. -/
def State.outstanding (s : State) (c : Cmd) : State :=
  s.onHw fun h => (h.onHost fun x => { x with cmds := x.cmds ++ [c], nextCmd := x.nextCmd + 1 }).countHub 16 1 .driver 0x67

/-- The state in which the next command acts. -/
def State.taken (s : State) (q : Fin 64) (w : Word512) : State := s.outstanding (s.nextCmd q w)

/-- Every outstanding command has a number below the next one. -/
def State.numbered (s : State) : Prop := ∀ c ∈ s.hw.host.cmds, c.id < s.hw.host.nextCmd

/-- Command `w` of ring `q` starts and acts as it is fetched: nothing of its ring is outstanding, it is valid (18:R386), its argument block can be read
(R374), and the management cores are at work (21:R441, R446, R447). -/
structure Starts (s : State) (q : Fin 64) (w : Word512) : Prop where
  numbered : s.numbered
  alone : ∀ c ∈ s.hw.host.cmds, c.q ≠ q
  settled : ∀ c ∈ s.hw.host.cmds, c.wait = .running
  bus : s.hw.host.bme = true
  static : cmStatic w = 0
  valid : s.hw.cmReason w (s.argOf w) = 0
  serving : s.hw.host.handover = false
  normal : s.sec.recovery = false
  still : s.sec.stage ≠ 3 ∧ s.sec.stage ≠ 4

/-- Nothing of ring `q` keeps a command with or without FENCE from starting (18:R382). -/
def State.unfenced (s : State) (q : Fin 64) (w : Word512) : Prop :=
  (∀ c ∈ s.hw.host.cmds, c.q = q → c.wait ≠ .fence) ∧ (cmFence w = true → ∀ c ∈ s.hw.host.cmds, c.q ≠ q)

/-- State `u` is `s` with the command of ring `q` outstanding and nothing else done but a number `n` of conditions raised. -/
structure OnlyTaken (s u : State) (q : Fin 64) (w : Word512) (n : Nat) : Prop where
  same : SameManaged s u
  cmds : u.hw.host.cmds.map (fun c => (c.id, c.q, c.w)) = s.hw.host.cmds.map (fun c => (c.id, c.q, c.w)) ++ [(s.hw.host.nextCmd, q, w)]
  chip : u.hw.chip = s.hw.chip
  links : u.hw.links = s.hw.links
  seq : u.hw.host.seq = s.hw.host.seq + BitVec.ofNat 64 n

/-- The command acts: it completes with result `r`, and the state that its completion entry is added to has the property. -/
def Acts (i : Instr) (q : Fin 64) (s : State) (r : Result) (P : State → Prop) : Prop :=
  ∃ u, exec i s = .next (u.complete s.hw.host.nextCmd r) ∧
    u.hw.host.cmds.map (fun c => (c.id, c.q, c.w)) = s.hw.host.cmds.map (fun c => (c.id, c.q, c.w)) ++ [(s.hw.host.nextCmd, q, rowBits i)] ∧ P u

/-- The command ends with result `r`, and nothing else happens but `n` conditions. -/
def Refuses (i : Instr) (q : Fin 64) (s : State) (r : Result) (n : Nat) : Prop :=
  ∃ u, exec i s = .next (u.complete s.hw.host.nextCmd r) ∧ OnlyTaken s u q (rowBits i) n

/-- What a command reads leaves alone: every byte of the stacks, the contexts and what runs on each die, and the links (13:R281-R284, R288). -/
structure ReadOnly (h r : Hw) : Prop where
  mem : ∀ k, (r.stk k).mem = (h.stk k).mem
  ctxs : r.chip.ctxs = h.chip.ctxs
  dies : ∀ n, r.cx n = h.cx n ∧ (r.die n).owner = (h.die n).owner ∧ (r.die n).phase = (h.die n).phase
  links : r.links = h.links
  cmds : r.host.cmds = h.host.cmds

/-- The command, whose reads have left `r`, ends with a result, and nothing else happens but `n` conditions. -/
def RefusesFrom (i : Instr) (s : State) (r : Hw) (res : Result) (n : Nat) : Prop :=
  ∃ u, exec i s = .next (u.complete s.hw.host.nextCmd res) ∧ SameManaged s u ∧ u.hw.chip = r.chip ∧ u.hw.links = r.links ∧
    u.hw.host.cmds.map (fun c => (c.id, c.q, c.w)) = r.host.cmds.map (fun c => (c.id, c.q, c.w)) ∧
    u.hw.host.seq = r.host.seq + BitVec.ofNat 64 n

/-- No context and no take is to end the command with this number. -/
def Hw.unclaimed (h : Hw) (id : Nat) : Prop :=
  (∀ c ∈ h.chip.ctxs, c.cmd ≠ some id ∧ id ∉ c.pre ∧ id ∉ h.segCmds c) ∧ ∀ t ∈ h.chip.takes, t.cmd ≠ id

/-! ### Waypoints (20) -/

/-- Stack and address of an offset of a region that lies in extents, one after the other (20:R424, R427). -/
def regionAt : List Word64 → Nat → Option (Nat × Nat)
  | [], _ => none
  | e :: r, o => if o < 65536 * exLen e then some (exStack e, 65536 * exOff e + o) else regionAt r (o - 65536 * exLen e)

/-- Every burst of stack memory can be read, and memories keep their canonical form. -/
def Hw.soundMem (h : Hw) : Prop :=
  (∀ k, (h.stk k).bad = [] ∧ (h.stk k).mem.wf = true ∧ ∀ c ∈ (h.stk k).chans.toList, c.st ≠ .failed) ∧
    (∀ n c, ((h.cx n).core c).spad.wf = true) ∧ h.host.mem.wf = true ∧ ∀ e ∈ h.chip.remote, e.2.wf = true

/-! ### The responder (21) -/

/-- The request code of an SPDM row, its transport and its bytes (21:R436). -/
def spdmRowOf : Instr → Option (Nat × Transport × List Byte)
  | .getVersion t r => some (0x84, t, r)
  | .getCapabilities t r => some (0xE1, t, r)
  | .negotiateAlgorithms t r => some (0xE3, t, r)
  | .getDigests t r => some (0x81, t, r)
  | .getCertificate t r => some (0x82, t, r)
  | .challenge t r => some (0x83, t, r)
  | .getMeasurements t r => some (0xE0, t, r)
  | .keyExchange t r => some (0xE4, t, r)
  | .finish t r => some (0xE5, t, r)
  | .heartbeat t r => some (0xE8, t, r)
  | .keyUpdate t r => some (0xE9, t, r)
  | .endSession t r => some (0xEC, t, r)
  | .ideKmRequest t r => some (0xFE, t, r)
  | _ => none

/-- The power manager once a message has woken a module in standby (19:R412). -/
def State.awake (s : State) : Power :=
  if s.power.standby then { s.power with standby := false, ldon := s.linkDies, idleOff := 0 } else s.power

/-- The security root after it has answered a request with code `code` on a connection (21:R436, R439). -/
def Sec.served (x : Sec) (code : Nat) (t : Transport) : Sec :=
  let conn := vget x.spdm (connOf t) ⟨0, false, false⟩
  { x with
    spdm := vupd x.spdm (connOf t) fun c =>
      ⟨c.served + 1, (c.negotiated && code != 0x84) || code == 0xE3, (c.session && code != 0x84 && code != 0xEC) || code == 0xE5⟩
    draws := x.draws + 1
    ideKeyed := x.ideKeyed || (code == 0xFE && conn.session) }

/-- What a change of the host interface leaves of everything else. -/
def HostOnly (s t : State) : Prop := SameManaged s t ∧ t.hw.chip = s.hw.chip ∧ t.hw.links = s.hw.links

/-- A command of the security root changes that alone. -/
def SecOnly (s t : State) : Prop := t.pending = s.pending ∧ t.power = s.power ∧ t.hw.chip = s.hw.chip ∧ t.hw.links = s.hw.links

/-! ### What every step keeps -/

/-- The power manager's configuration lies in the ranges of 19 Table 19-3, its grants from 800 to 4,200 W (19:R395, R396) and its setpoints at or below VMAX
(R399); the staging state is one of 21 Table 21-4, and a staged image's SVN fits the fuses (21:R442). -/
structure State.Inv (s : State) : Prop where
  fsgrant : 800 ≤ s.power.cfg.fsgrant.toNat ∧ s.power.cfg.fsgrant.toNat ≤ 4200
  gtmo : s.power.cfg.gtmo.toNat ≤ 60000
  vmax : s.power.cfg.vmax.toNat ≤ 60
  gsrc : s.power.cfg.gsrc.toNat ≤ 2
  grant : 800 ≤ s.power.grant.grant.toNat ∧ s.power.grant.grant.toNat ≤ 4200
  next : ∀ g, s.power.grant.next = some g → 800 ≤ g.1.toNat ∧ g.1.toNat ≤ 4200
  ceil : s.power.grant.ceil.toNat ≤ 4200
  vset : ∀ n, n < 16 → (s.power.die n).vset.toNat ≤ s.power.cfg.vmax.toNat
  stage : s.sec.stage.toNat ≤ 5
  svn : ∀ i b, (s.sec.bankAt i).block 0 = some b → fhSvn b ≤ 63

end Sys2Proof.Machine
end

