-- ==== Sys2Proof/Laws/Fronts.lean ====
section
/-! SUPPORT. Accesses, faults, triggers and signals leave Helm, the cores and the banks of every die as they are, where no latent error meets the decoder. -/

namespace Sys2Proof.Machine

/-- Helm, cores, banks, loads, pre-emption, owner, phase and healthy cores of a die. -/
def Die.front (d : Die) : Helm × Vector Core 32 × Vector IBank 2 × List LoadReq × Pre × Option (BitVec 16) × DPhase × BitVec 32 :=
  (d.cx.helm, d.cx.cores.map Core.plain, d.cx.banks, d.cx.loads, d.cx.pre, d.owner, d.phase, d.healthy)

/-- Numbers and dies of the contexts. -/
def Chip.lists (c : Chip) : List (BitVec 16 × List DieEnt) := c.ctxs.map fun x => (x.num, x.ents)

/-- The front of every die, and what contexts there are. -/
def Hw.front (h : Hw) (n : Nat) :
    (Helm × Vector Core 32 × Vector IBank 2 × List LoadReq × Pre × Option (BitVec 16) × DPhase × BitVec 32) ×
      List (BitVec 16 × List DieEnt) :=
  ((h.die n).front, h.chip.lists)

theorem Hw.front_eq {h h' : Hw} (e : h'.chip = h.chip) : h'.front = h.front := by
  funext n; simp only [Hw.front, Hw.die, e]

theorem Hw.front_updDie {h : Hw} {n : Nat} {f : Die → Die} (hf : ∀ d, (f d).front = d.front) : (h.updDie n f).front = h.front := by
  funext m
  have e : (h.updDie n f).chip.lists = h.chip.lists := rfl
  simp only [Hw.front, Hw.die_updDie, e]; split <;> simp [hf]

theorem Hw.front_updCtx {h : Hw} {c : BitVec 16} {f : Ctx → Ctx} (hf : ∀ x, (f x).num = x.num ∧ (f x).ents = x.ents) :
    (h.updCtx c f).front = h.front := by
  funext m
  have e : (h.updCtx c f).chip.lists = h.chip.lists := by
    simp only [Chip.lists, Hw.updCtx, Hw.onChip, List.map_map]
    apply List.map_congr_left
    intro x _
    simp only [Function.comp]
    split
    · rw [(hf x).1, (hf x).2]
    · rfl
  simp only [Hw.front, e]; rfl

theorem Hw.front_updCx {h : Hw} {n : Nat} {f : DieCtx → DieCtx}
    (hf : ∀ x, (f x).helm = x.helm ∧ (f x).cores.map Core.plain = x.cores.map Core.plain ∧ (f x).banks = x.banks ∧ (f x).loads = x.loads ∧ (f x).pre = x.pre) :
    (h.updCx n f).front = h.front :=
  Hw.front_updDie fun d => by obtain ⟨a, b, c, e, g⟩ := hf d.cx; simp only [Die.front, a, b, c, e, g]

@[simp] theorem Hw.front_count (h : Hw) (key n : Nat) (p : Priv) (cls m : Nat) (a : Option Nat) : (h.count key n p cls m a).front = h.front := rfl
@[simp] theorem Hw.front_updStk (h : Hw) (n : Nat) (f : Stack → Stack) : (h.updStk n f).front = h.front := rfl
@[simp] theorem Hw.front_onHost (h : Hw) (f : HostIf → HostIf) : (h.onHost f).front = h.front := rfl
@[simp] theorem Hw.front_onLinks (h : Hw) (f : Links → Links) : (h.onLinks f).front = h.front := rfl
@[simp] theorem Hw.front_hostEv (h : Hw) (f : HostIf → HostIf) : (h.hostEv f).front = h.front := Hw.front_eq (by simp)

/-! ### What an operation keeps -/

/-- From `h` to `h'` no latent error appears, and the fronts stay; said where `h` has none. -/
structure Hw.Keeps (h h' : Hw) : Prop where
  keeps : h.clean → h'.clean ∧ h'.front = h.front

theorem Hw.Keeps.refl (h : Hw) : h.Keeps h := ⟨fun c => ⟨c, rfl⟩⟩
theorem Hw.Keeps.trans {a b c : Hw} (x : a.Keeps b) (y : b.Keeps c) : a.Keeps c :=
  ⟨fun h => ⟨(y.keeps (x.keeps h).1).1, (y.keeps (x.keeps h).1).2.trans (x.keeps h).2⟩⟩

/-- The same, the later part first: its functions fix the state between. -/
theorem Hw.Keeps.after {a b c : Hw} (y : b.Keeps c) (x : a.Keeps b) : a.Keeps c := x.trans y

theorem Hw.keeps_of {h h' : Hw} (e : h'.front = h.front) (s : ∀ k, (h'.stk k).errs = (h.stk k).errs) : h.Keeps h' :=
  ⟨fun c => ⟨fun k => (s k).trans (c k), e⟩⟩

theorem keeps_ite {c : Prop} [Decidable c] {a b h : Hw} (ha : h.Keeps a) (hb : h.Keeps b) : h.Keeps (if c then a else b) := by
  split <;> assumption

theorem keeps_foldl {α : Type} {f : Hw → α → Hw} (hf : ∀ (h : Hw) a, h.Keeps (f h a)) (l : List α) (h : Hw) : h.Keeps (l.foldl f h) := by
  induction l generalizing h with
  | nil => exact .refl h
  | cons a r ih => exact (hf h a).trans (ih _)

theorem Hw.keeps_count (h : Hw) (key n : Nat) (p : Priv) (cls m : Nat) (a : Option Nat) : h.Keeps (h.count key n p cls m a) :=
  Hw.keeps_of rfl fun _ => rfl
theorem Hw.keeps_onHost (h : Hw) (f : HostIf → HostIf) : h.Keeps (h.onHost f) := Hw.keeps_of rfl fun _ => rfl
theorem Hw.keeps_onLinks (h : Hw) (f : Links → Links) : h.Keeps (h.onLinks f) := Hw.keeps_of rfl fun _ => rfl
theorem Hw.keeps_updPort (h : Hw) (l : Nat) (f : Port → Port) : h.Keeps (h.updPort l f) := Hw.keeps_of rfl fun _ => rfl
theorem Hw.keeps_hostEv (h : Hw) (f : HostIf → HostIf) : h.Keeps (h.hostEv f) := Hw.keeps_of (by simp) fun k => by simp [Hw.stk]
theorem Hw.keeps_raise (h : Hw) (c : Cond) : h.Keeps (h.raise c) := Hw.keeps_hostEv ..
theorem Hw.keeps_raiseHub (h : Hw) (c e a b : Nat) : h.Keeps (h.raiseHub c e a b) := Hw.keeps_raise ..
theorem Hw.keeps_raiseDie (h : Hw) (n c k e a b : Nat) : h.Keeps (h.raiseDie n c k e a b) := by
  unfold Hw.raiseDie; exact Hw.keeps_raise ..

theorem Hw.keeps_updDie {h : Hw} {n : Nat} {f : Die → Die} (hf : ∀ d, (f d).front = d.front) : h.Keeps (h.updDie n f) :=
  Hw.keeps_of (Hw.front_updDie hf) fun _ => rfl
theorem Hw.keeps_updCtx {h : Hw} {c : BitVec 16} {f : Ctx → Ctx} (hf : ∀ x, (f x).num = x.num ∧ (f x).ents = x.ents) :
    h.Keeps (h.updCtx c f) := Hw.keeps_of (Hw.front_updCtx hf) fun _ => rfl
theorem Hw.keeps_updCx {h : Hw} {n : Nat} {f : DieCtx → DieCtx}
    (hf : ∀ x, (f x).helm = x.helm ∧ (f x).cores.map Core.plain = x.cores.map Core.plain ∧ (f x).banks = x.banks ∧ (f x).loads = x.loads ∧
      (f x).pre = x.pre) : h.Keeps (h.updCx n f) := Hw.keeps_of (Hw.front_updCx hf) fun _ => rfl
theorem Hw.keeps_updSaved (h : Hw) (c : BitVec 16) (n : Nat) (f : DieCtx → DieCtx) : h.Keeps (h.updSaved c n f) :=
  Hw.keeps_updCtx fun _ => ⟨rfl, rfl⟩

/-- A stack that keeps its latent errors. -/
theorem Hw.keeps_updStk {h : Hw} {n : Nat} {f : Stack → Stack} (hf : ∀ k : Stack, k.errs = [] → (f k).errs = []) : h.Keeps (h.updStk n f) :=
  ⟨fun c => ⟨fun k => by rw [Hw.stk_updStk]; split <;> first | exact hf _ (c k) | exact c k, rfl⟩⟩

theorem Hw.keeps_raiseOnce (h : Hw) (n c k e s a b : Nat) : h.Keeps (h.raiseOnce n c k e s a b) := by
  unfold Hw.raiseOnce
  exact keeps_ite (.refl h) (Hw.Keeps.after (Hw.keeps_raiseDie ..) (Hw.keeps_updCx fun x => ⟨rfl, rfl, rfl, rfl, rfl⟩))

theorem Hw.keeps_raiseLaunch (h : Hw) (n c e : Nat) : h.Keeps (h.raiseLaunch n c e) := by
  unfold Hw.raiseLaunch
  split
  · exact keeps_ite (.refl h) (Hw.Keeps.after (Hw.keeps_raiseDie ..) (Hw.keeps_updCtx fun x => ⟨rfl, rfl⟩))
  · exact .refl h

/-! ### Memory accesses (13, 14) -/

theorem Hw.keeps_carry (h : Hw) (a b n : Nat) (w : Who) (x : Option Nat) : h.Keeps (h.carry a b n w x) := by
  unfold Hw.carry
  exact keeps_ite (.refl h) (keeps_foldl (fun h d => Hw.keeps_count ..) _ _)

theorem Hw.keeps_wakeStk (h : Hw) (k : Nat) (w : Who) : h.Keeps (h.wakeStk k w) := by
  unfold Hw.wakeStk
  exact keeps_ite (Hw.Keeps.after (Hw.keeps_count ..) (Hw.keeps_updStk fun _ e => e)) (.refl h)

/-- With no latent error the decoder only counts. -/
theorem Hw.keeps_decodeBursts (h : Hw) (s : Nat) (bs : List Nat) (w : Who) : h.Keeps (h.decodeBursts s bs w) := .mk fun c => by
  unfold Hw.decodeBursts
  rw [if_pos (by rw [c s]; rfl)]
  exact (Hw.keeps_updStk (f := fun k => k.decoded bs) fun _ e => e).keeps c

theorem Hw.keeps_stkTouch (h : Hw) (s off n : Nat) (w : Who) : h.Keeps (h.stkTouch s off n w) :=
  Hw.Keeps.after (Hw.Keeps.after (Hw.keeps_count ..) (Hw.keeps_decodeBursts ..)) (Hw.keeps_wakeStk ..)

theorem Hw.keeps_stkPut (h : Hw) (s off : Nat) (d : List Byte) (w : Who) : h.Keeps (h.stkPut s off d w) :=
  Hw.Keeps.after (Hw.Keeps.after (Hw.Keeps.after (Hw.keeps_count ..) (Hw.keeps_updStk fun k e => by simp [Stack.store, e])) (Hw.keeps_decodeBursts ..)) (Hw.keeps_wakeStk ..)

theorem Hw.keeps_stkRead {h : Hw} {k off n : Nat} {w : Who} {x : List Byte × Hw} (e : h.stkRead k off n w = .ok x) : h.Keeps x.2 := by
  unfold Hw.stkRead at e; split at e
  · cases e
  · injection e with e; subst e; exact Hw.keeps_stkTouch ..

theorem Hw.keeps_stkWrite {h h' : Hw} {k off : Nat} {d : List Byte} {w : Who} (e : h.stkWrite k off d w = .ok h') : h.Keeps h' := by
  unfold Hw.stkWrite at e; split at e
  · cases e
  · injection e with e; subst e; exact Hw.keeps_stkPut ..

theorem Hw.keeps_walkTouch (h : Hw) (n : Nat) (root : Root) (va : Nat) (p : Priv) : h.Keeps (h.walkTouch n root va p) :=
  keeps_foldl (fun _ _ => Hw.Keeps.after (Hw.keeps_carry ..) (Hw.keeps_stkTouch ..)) _ _

theorem Hw.keeps_setD (h : Hw) (n : Nat) (l : Leaf) (a : Nat) (p : Priv) : h.Keeps (h.setD n l a p) := by
  unfold Hw.setD
  exact keeps_ite (Hw.Keeps.after (Hw.keeps_carry ..) (Hw.keeps_stkPut ..)) (.refl h)

theorem Hw.keeps_translate {h : Hw} {n : Nat} {root : Root} {va a : Nat} {w : Who} {x : Leaf × Hw}
    (e : h.translate n root va a w = .ok x) : h.Keeps x.2 := by
  unfold Hw.translate at e
  simp only [bind, Except.bind] at e
  split at e
  · cases e
  · injection e with e; subst e
    exact Hw.Keeps.after (Hw.Keeps.after (Hw.Keeps.after (Hw.keeps_count ..) (Hw.keeps_updDie fun d => rfl)) (Hw.keeps_setD ..)) (keeps_ite (.refl h) (Hw.keeps_walkTouch ..))

theorem Hw.keeps_leafRead {h : Hw} {l : Leaf} {va n : Nat} {w : Who} {x : List Byte × Hw} (e : h.leafRead l va n w = .ok x) :
    h.Keeps x.2 := by
  unfold Hw.leafRead at e; dsimp only at e
  split at e
  · split at e
    · injection e with e; subst e; exact Hw.keeps_carry ..
    · cases e
  · simp only [bind, Except.bind] at e
    split at e
    · cases e
    · rename_i r hr
      injection e with e; subst e
      exact Hw.Keeps.after (Hw.keeps_carry ..) (Hw.keeps_stkRead hr)

theorem Hw.keeps_leafWrite {h h' : Hw} {l : Leaf} {va : Nat} {d : List Byte} {w : Who} (e : h.leafWrite l va d w = .ok h') :
    h.Keeps h' := by
  unfold Hw.leafWrite at e; dsimp only at e
  split at e
  · split at e
    · injection e with e; subst e; exact Hw.Keeps.after (Hw.keeps_carry ..) (Hw.keeps_onHost ..)
    · cases e
  · simp only [bind, Except.bind] at e
    split at e
    · cases e
    · rename_i r hr
      injection e with e; subst e
      exact Hw.Keeps.after (Hw.keeps_carry ..) (Hw.keeps_stkWrite hr)

theorem Hw.keeps_readPieces {n : Nat} {root : Root} {a : Nat} {w : Who} {ps : List (Nat × Nat)} {h : Hw} {x : List Byte × Hw}
    (e : Hw.readPieces n root a w ps h = .ok x) : h.Keeps x.2 := by
  induction ps generalizing h x with
  | nil => injection e with e; subst e; exact .refl h
  | cons p r ih =>
    simp only [Hw.readPieces, bind, Except.bind] at e
    split at e
    · cases e
    · rename_i t ht
      split at e
      · cases e
      · rename_i y hy
        split at e
        · cases e
        · rename_i z hz
          injection e with e; subst e
          exact Hw.Keeps.after (Hw.Keeps.after (ih (x := z) hz) (Hw.keeps_leafRead hy)) (Hw.keeps_translate ht)

theorem Hw.keeps_writePieces {n : Nat} {root : Root} {a : Nat} {w : Who} {ps : List (Nat × Nat)} {d : List Byte} {h h' : Hw}
    (e : Hw.writePieces n root a w ps d h = .ok h') : h.Keeps h' := by
  induction ps generalizing h d with
  | nil => injection e with e; subst e; exact .refl h
  | cons p r ih =>
    simp only [Hw.writePieces, bind, Except.bind] at e
    split at e
    · cases e
    · rename_i t ht
      split at e
      · cases e
      · rename_i y hy
        exact Hw.Keeps.after (Hw.Keeps.after (ih e) (Hw.keeps_leafWrite hy)) (Hw.keeps_translate ht)

theorem Hw.keeps_vaRead {h : Hw} {n va len : Nat} {w : Who} {x : List Byte × Hw} (e : h.vaRead n va len w = .ok x) : h.Keeps x.2 :=
  Hw.keeps_readPieces e
theorem Hw.keeps_vaWrite {h h' : Hw} {n va a : Nat} {d : List Byte} {w : Who} (e : h.vaWrite n va d w a = .ok h') : h.Keeps h' :=
  Hw.keeps_writePieces e

/-! ### Logs of a die -/

theorem Hw.keeps_logHazard (h : Hw) (n c : Nat) (t : BitVec 48) (wa : BitVec 17) (k a s l : Nat) : h.Keeps (h.logHazard n c t wa k a s l) := by
  have drop : ∀ (f : Die → Die), (∀ d, (f d).front = d.front) → h.Keeps ((h.updDie n f).count (ctrDie n 225) 1 .program 0
      (srcBytes n c 0x08)) := fun f hf => Hw.Keeps.after (Hw.keeps_count ..) (Hw.keeps_updDie hf)
  unfold Hw.logHazard
  dsimp only
  generalize (if k = 2 then _ else _ : Bool) = b
  split
  · exact .refl h
  · split
    · exact drop _ fun d => rfl
    · split
      · exact drop _ fun d => rfl
      · rename_i h' e
        exact Hw.Keeps.after (Hw.Keeps.after (Hw.keeps_count ..) (Hw.keeps_updDie fun d => rfl)) (Hw.keeps_vaWrite e)

theorem Hw.keeps_logSkip (h : Hw) (n : Nat) (wa : BitVec 17) (f r : Nat) : h.Keeps (h.logSkip n wa f r) := by
  unfold Hw.logSkip
  dsimp only
  split
  · rename_i h' e; exact Hw.keeps_vaWrite e
  · exact .refl h

/-! ### Faults (14:R299, R300) -/

theorem Hw.keeps_pushFault (h : Hw) (n : Nat) (e : Word512) : h.Keeps (h.pushFault n e) := by
  unfold Hw.pushFault; dsimp only
  exact keeps_ite (Hw.Keeps.after (Hw.keeps_raiseLaunch ..) (Hw.keeps_hostEv ..)) (Hw.keeps_hostEv ..)

theorem Hw.keeps_saveWrite (h : Hw) (n off : Nat) (d : List Byte) : h.Keeps (h.saveWrite n off d) := by
  unfold Hw.saveWrite; exact Hw.keeps_updStk fun k e => by simp [Stack.store, e]

theorem Hw.keeps_writeProgress (h : Hw) (n : Nat) (i : AgentInfo) (s f v : Nat) : h.Keeps (h.writeProgress n i s f v) := by
  unfold Hw.writeProgress
  exact Hw.keeps_saveWrite ..

theorem Hw.keeps_fileFault (h : Hw) (n : Nat) (i : AgentInfo) (va k l acc : Nat) (s : Fin 64) (w : Bool) :
    h.Keeps (h.fileFault n i va k l acc s w).2 := by
  unfold Hw.fileFault; dsimp only
  exact Hw.Keeps.after (Hw.Keeps.after (Hw.keeps_pushFault ..) (Hw.keeps_updCx fun x => ⟨rfl, rfl, rfl, rfl, rfl⟩)) (Hw.keeps_writeProgress ..)

theorem Hw.keeps_takeFault (h : Hw) (n : Nat) (a : Agent) (i : AgentInfo) (old : Stall) (va k l acc : Nat) :
    h.Keeps (h.takeFault n a i old va k l acc).2 := by
  unfold Hw.takeFault
  dsimp only
  split
  · exact Hw.Keeps.after (Hw.keeps_fileFault ..) (Hw.keeps_count ..)
  · exact Hw.Keeps.after (Hw.keeps_writeProgress ..) (Hw.keeps_count ..)
  · split
    · exact Hw.keeps_count ..
    · split
      · exact Hw.Keeps.after (Hw.Keeps.after (Hw.keeps_fileFault ..) (Hw.keeps_updCx fun x => ⟨rfl, rfl, rfl, rfl, rfl⟩)) (Hw.keeps_count ..)
      · exact Hw.Keeps.after (Hw.Keeps.after (Hw.Keeps.after (Hw.keeps_raiseLaunch ..) (Hw.keeps_updCx fun x => ⟨rfl, rfl, rfl, rfl, rfl⟩)) (Hw.keeps_writeProgress ..)) (Hw.keeps_count ..)

theorem Hw.keeps_faultPast (h : Hw) (n : Nat) (a : Agent) (i : AgentInfo) (old : Stall) : h.Keeps (h.faultPast n a i old) := by
  unfold Hw.faultPast
  split
  · exact Hw.Keeps.after (Hw.keeps_updCx fun x => ⟨rfl, rfl, rfl, rfl, rfl⟩) (Hw.keeps_writeProgress ..)
  · exact .refl h

theorem Hw.keeps_stopAgent (h : Hw) (n : Nat) (a : Agent) (i : AgentInfo) (old : Stall) (s : Stop) : h.Keeps (h.stopAgent n a i old s).2 := by
  cases s with
  | fault va k l acc => exact Hw.keeps_takeFault ..
  | burst st b => exact Hw.keeps_faultPast ..
  | tile k t f => exact Hw.keeps_faultPast ..
  | wait => exact .refl h

/-! ### Streams and triggers (15:R316-R321) -/

theorem Hw.keeps_updStream (h : Hw) (n k : Nat) (f : StreamSt → StreamSt) : h.Keeps (h.updStream n k f) :=
  Hw.keeps_updCx fun _ => ⟨rfl, rfl, rfl, rfl, rfl⟩

theorem Hw.keeps_itemDone (h : Hw) (n k c : Nat) (o : Bool) : h.Keeps (h.itemDone n k c o) := by
  unfold Hw.itemDone
  split
  · exact .refl h
  · exact Hw.keeps_updStream ..

theorem Hw.keeps_settle (n k fuel : Nat) (h : Hw) : h.Keeps (Hw.settle n k fuel h) := by
  induction fuel generalizing h with
  | zero => exact .refl h
  | succ f ih =>
    unfold Hw.settle
    split
    · exact .refl h
    · exact Hw.Keeps.after (ih _) (Hw.Keeps.after (Hw.keeps_itemDone ..) (Hw.keeps_updCx fun x => ⟨rfl, rfl, rfl, rfl, rfl⟩))

theorem Hw.keeps_countBanks (h : Hw) (n c a l : Nat) (w : Who) : h.Keeps (h.countBanks n c a l w) := by
  unfold Hw.countBanks; exact keeps_ite (.refl h) (Hw.keeps_count ..)

theorem Hw.keeps_delivered (h : Hw) (n : Nat) (p : Priv) (c s : Nat) : h.Keeps (h.delivered n p c s) := by
  unfold Hw.delivered
  exact keeps_ite (Hw.Keeps.after (Hw.keeps_updDie fun d => rfl) (Hw.keeps_count ..)) (Hw.keeps_count ..)

theorem Hw.keeps_issueItem (h : Hw) (n : Nat) (s : StreamSt) (c k : Nat) (t : BitVec 48) (p : Core) : h.Keeps (h.issueItem n s c k t p) := by
  unfold Hw.issueItem
  dsimp only
  split
  · refine Hw.Keeps.after (Hw.keeps_settle ..) (Hw.Keeps.after (Hw.keeps_updCx fun x => ⟨rfl, rfl, rfl, rfl, rfl⟩) ?_)
    exact Hw.Keeps.after (Hw.keeps_count ..) (Hw.Keeps.after (Hw.keeps_raiseDie ..)
      (Hw.Keeps.after (Hw.keeps_updStream ..) (Hw.keeps_count ..)))
  · refine Hw.Keeps.after (Hw.keeps_updCx fun x => ⟨rfl, rfl, rfl, rfl, rfl⟩) ?_
    refine keeps_ite ?_ (Hw.Keeps.after (keeps_foldl (fun _ _ => Hw.keeps_countBanks ..) _ _) ?_) <;>
      exact keeps_ite (Hw.Keeps.after (Hw.keeps_delivered ..) (Hw.Keeps.after (Hw.keeps_updStream ..) (Hw.keeps_count ..)))
        (Hw.Keeps.after (Hw.keeps_updStream ..) (Hw.keeps_count ..))

theorem Hw.keeps_issueUpTo (h : Hw) (n k c lim : Nat) (t : BitVec 48) (p : Core) : h.Keeps (h.issueUpTo n k c lim t p) := by
  unfold Hw.issueUpTo
  split
  · exact .refl h
  · exact keeps_foldl (fun h i => Hw.keeps_issueItem ..) _ _

theorem Hw.keeps_updGme (h : Hw) (n cl : Nat) (f : Gme → Gme) : h.Keeps (h.updGme n cl f) :=
  Hw.keeps_updCx fun _ => ⟨rfl, rfl, rfl, rfl, rfl⟩

theorem Hw.keeps_gmeRead {h : Hw} {n cl : Nat} {j : GJob} {x : GJob × Hw} (e : h.gmeRead n cl j = .ok x) : h.Keeps x.2 := by
  unfold Hw.gmeRead at e
  simp only [bind, Except.bind] at e
  split at e
  · cases e
  · split at e
    · injection e with e; subst e; exact .refl h
    · split at e
      · cases e
      · split at e
        · cases e
        · rename_i r hr
          injection e with e; subst e
          exact Hw.keeps_vaRead hr

theorem Hw.keeps_gmeFetch (h : Hw) (n cl : Nat) (j : GJob) : h.Keeps (h.gmeFetch n cl j) := by
  unfold Hw.gmeFetch
  split
  · rename_i r e; exact Hw.Keeps.after (Hw.Keeps.after (Hw.keeps_updGme ..) (Hw.keeps_faultPast ..)) (Hw.keeps_gmeRead e)
  · exact Hw.Keeps.after (Hw.keeps_updGme ..) (Hw.keeps_stopAgent ..)

theorem Hw.keeps_gmeTrigger (h : Hw) (n : Nat) (s : StreamSt) (c : Nat) (t : BitVec 48) (p : Core) : h.Keeps (h.gmeTrigger n s c t p) := by
  unfold Hw.gmeTrigger
  dsimp only
  split
  · exact Hw.keeps_updCx fun _ => ⟨rfl, rfl, rfl, rfl, rfl⟩
  · refine keeps_ite (.refl h) ?_
    exact Hw.Keeps.after (Hw.Keeps.after (Hw.Keeps.after (Hw.keeps_updCx fun _ => ⟨rfl, rfl, rfl, rfl, rfl⟩) (Hw.keeps_gmeFetch ..)) (Hw.keeps_updStream ..)) (Hw.keeps_updCx fun _ => ⟨rfl, rfl, rfl, rfl, rfl⟩)

theorem Hw.keeps_closeIfDone (h : Hw) (n k : Nat) : h.Keeps (h.closeIfDone n k) := by
  unfold Hw.closeIfDone
  split
  · exact .refl h
  · exact keeps_ite (Hw.keeps_updStream ..) (.refl h)

/-- A trigger leaves Helm and the cores of every die. -/
theorem Hw.keeps_trigger (h : Hw) (n c k : Nat) (t : BitVec 48) (p : Core) : h.Keeps (h.trigger n c k t p) := by
  unfold Hw.trigger
  split
  · exact Hw.keeps_raiseOnce ..
  · split
    · exact .refl h
    · split
      · exact Hw.keeps_raiseOnce ..
      · dsimp only
        refine Hw.Keeps.after (Hw.keeps_closeIfDone ..) ?_
        have up : ∀ (b : Bool) (x l : Nat) (w : Who) (f : StreamSt → StreamSt),
            h.Keeps ((if b then h.countBanks n c x l w else h).updStream n k f) := fun b x l w f =>
          Hw.Keeps.after (Hw.keeps_updStream ..) (keeps_ite (Hw.keeps_countBanks ..) (.refl h))
        split
        · exact Hw.Keeps.after (Hw.keeps_issueUpTo ..) (up ..)
        · exact Hw.Keeps.after (Hw.keeps_issueUpTo ..) (up ..)
        · exact Hw.Keeps.after (Hw.keeps_gmeTrigger ..) (up ..)
        · split
          · exact Hw.Keeps.after (Hw.keeps_updCx fun _ => ⟨rfl, rfl, rfl, rfl, rfl⟩) (Hw.Keeps.after (Hw.keeps_updStream ..) (up ..))
          · exact up ..

theorem Hw.keeps_smallIssue (h : Hw) (n c i : Nat) (t : BitVec 48) (p : Core) : h.Keeps (h.smallIssue n c i t p) := by
  unfold Hw.smallIssue
  dsimp only
  split
  · exact Hw.Keeps.after (Hw.keeps_count ..) (Hw.keeps_raiseDie ..)
  · split
    · exact .refl h
    · split <;> exact Hw.Keeps.after (Hw.keeps_updCx fun _ => ⟨rfl, rfl, rfl, rfl, rfl⟩) (Hw.keeps_count ..)

/-! ### Signals (02:R51, 03:R69, R70) -/

theorem DieCtx.signalled_plain (x : DieCtx) (k n org : Nat) : (x.signalled k n org).cores.map Core.plain = x.cores.map Core.plain := by
  ext i hi; simp [DieCtx.signalled, DieCtx.addSem, Core.signalled, Core.plain]

theorem Hw.keeps_semAdd (h : Hw) (num : BitVec 16) (n k a org : Nat) : h.Keeps (h.semAdd num n k a org) := by
  unfold Hw.semAdd
  split
  · dsimp only
    have e : h.Keeps (h.updCx n fun x => x.signalled k a org) :=
      Hw.keeps_updCx fun x => ⟨rfl, DieCtx.signalled_plain .., rfl, rfl, rfl⟩
    exact keeps_ite (e.trans (Hw.keeps_raiseDie ..)) e
  · split
    · dsimp only
      exact keeps_ite (Hw.Keeps.after (Hw.keeps_raise ..) (Hw.keeps_updSaved ..)) (Hw.keeps_updSaved ..)
    · exact .refl h

theorem Hw.keeps_semAddDie (h : Hw) (n k a : Nat) : h.Keeps (h.semAddDie n k a) := by
  unfold Hw.semAddDie
  split
  · exact Hw.keeps_semAdd ..
  · exact .refl h

theorem Hw.keeps_sendOn (h : Hw) (l : Nat) (f : Flit) : h.Keeps (h.sendOn l f) := Hw.Keeps.after (Hw.keeps_count ..) (Hw.keeps_updPort ..)

theorem Hw.keeps_abandon (h : Hw) (k : Nat) : h.Keeps (h.abandon k) := by
  unfold Hw.abandon
  exact keeps_ite (.refl h) (Hw.Keeps.after (Hw.Keeps.after (keeps_foldl (fun h o => Hw.keeps_raiseDie ..) _ _) (Hw.keeps_raiseHub ..)) (Hw.keeps_onLinks ..))

theorem Hw.keeps_sendOrdered (h : Hw) (d c : Nat) (x : BitVec 16) (fs : List Flit) (w : Owed) : h.Keeps (h.sendOrdered d c x fs w).1 := by
  have lost : ∀ h : Hw, h.Keeps (h.raiseDie w.die w.code 0xFF w.eng) := fun h => Hw.keeps_raiseDie ..
  unfold Hw.sendOrdered
  dsimp only
  split
  · exact lost h
  · split
    · split
      · exact Hw.Keeps.after (keeps_foldl (fun h f => Hw.keeps_sendOn ..) _ _) (Hw.keeps_onLinks ..)
      · exact Hw.Keeps.after (lost _) (Hw.keeps_abandon ..)
    · exact Hw.Keeps.after (lost _) (Hw.keeps_abandon ..)

theorem Hw.keeps_fireSignal (h : Hw) (n : Nat) (g : PendSig) : h.Keeps (h.fireSignal n g) := by
  unfold Hw.fireSignal
  split
  · exact .refl h
  · split
    · exact Hw.keeps_semAdd ..
    · exact Hw.keeps_sendOrdered ..

theorem Hw.keeps_releaseFrom (n : Nat) (l : List PendSig) (h : Hw) : h.Keeps (Hw.releaseFrom n l h) := by
  induction l generalizing h with
  | nil => exact .refl h
  | cons g r ih =>
    unfold Hw.releaseFrom
    split
    · exact Hw.Keeps.after (ih _) (Hw.Keeps.after (Hw.keeps_fireSignal ..) (Hw.keeps_updCx fun x => ⟨rfl, rfl, rfl, rfl, rfl⟩))
    · exact ih h

/-- Signals that take effect leave Helm and the cores of every die. -/
theorem Hw.keeps_release (h : Hw) (n : Nat) : h.Keeps (h.release n) := Hw.keeps_releaseFrom ..

end Sys2Proof.Machine
end

