-- ==== Sys2Proof/Laws/Helm.lean ====
section
/-! SUPPORT. Cores that execute a word leave Helm but for the votes of its flag loads, and the rest of every die's front. -/

namespace Sys2Proof.Machine

/-- The front of a die without its cores and the flag loads of Helm, and what contexts there are. -/
def Hw.side (h : Hw) (n : Nat) :
    Helm × Vector IBank 2 × List LoadReq × Pre × Option (BitVec 16) × DPhase × BitVec 32 × List (BitVec 16 × List DieEnt) :=
  ({ (h.cx n).helm with flags := [] }, (h.cx n).banks, (h.cx n).loads, (h.cx n).pre, (h.die n).owner, (h.die n).phase,
    (h.die n).healthy, h.chip.lists)

theorem Hw.side_of_front {h h' : Hw} (e : h'.front = h.front) : h'.side = h.side := by
  funext n
  have := congrFun e n
  simp only [Hw.front, Die.front, Prod.mk.injEq] at this
  obtain ⟨⟨a, -, b, c, d, f, g, i⟩, j⟩ := this
  simp only [Hw.side, Hw.cx, a, b, c, d, f, g, i, j]

theorem Hw.side_updCx {h : Hw} {n : Nat} {f : DieCtx → DieCtx}
    (hf : ∀ x, ({ (f x).helm with flags := [] } : Helm) = { x.helm with flags := [] } ∧ (f x).banks = x.banks ∧
      (f x).loads = x.loads ∧ (f x).pre = x.pre) : (h.updCx n f).side = h.side := by
  funext m
  have e : (h.updCx n f).chip.lists = h.chip.lists := rfl
  simp only [Hw.side, Hw.cx_updCx, Hw.updCx_owner, Hw.updCx_phase, Hw.updCx_healthy, e]
  split
  · obtain ⟨a, b, c, d⟩ := hf (h.cx m); simp only [a, b, c, d]
  · rfl

/-- From `h` to `h'` no latent error appears, and the sides stay; said where `h` has none. -/
structure Hw.Sides (h h' : Hw) : Prop where
  sides : h.clean → h'.clean ∧ h'.side = h.side

theorem Hw.Sides.refl (h : Hw) : h.Sides h := ⟨fun c => ⟨c, rfl⟩⟩
theorem Hw.Sides.after {a b c : Hw} (y : b.Sides c) (x : a.Sides b) : a.Sides c :=
  ⟨fun h => ⟨(y.sides (x.sides h).1).1, (y.sides (x.sides h).1).2.trans (x.sides h).2⟩⟩
theorem Hw.Keeps.sides {h h' : Hw} (e : h.Keeps h') : h.Sides h' := ⟨fun c => ⟨(e.keeps c).1, Hw.side_of_front (e.keeps c).2⟩⟩

theorem sides_ite {c : Prop} [Decidable c] {a b h : Hw} (ha : h.Sides a) (hb : h.Sides b) : h.Sides (if c then a else b) := by
  split <;> assumption

theorem sides_foldl {α : Type} {f : Hw → α → Hw} (hf : ∀ (h : Hw) a, h.Sides (f h a)) (l : List α) (h : Hw) : h.Sides (l.foldl f h) := by
  induction l generalizing h with
  | nil => exact .refl h
  | cons a r ih => exact Hw.Sides.after (ih _) (hf h a)

theorem Hw.sides_updCx {h : Hw} {n : Nat} {f : DieCtx → DieCtx}
    (hf : ∀ x, ({ (f x).helm with flags := [] } : Helm) = { x.helm with flags := [] } ∧ (f x).banks = x.banks ∧
      (f x).loads = x.loads ∧ (f x).pre = x.pre) : h.Sides (h.updCx n f) := ⟨fun c => ⟨c, Hw.side_updCx hf⟩⟩

theorem Hw.sides_updCore (h : Hw) (n i : Nat) (f : Core → Core) : h.Sides (h.updCore n i f) :=
  Hw.sides_updCx fun _ => ⟨rfl, rfl, rfl, rfl⟩

theorem Hw.sides_countCore (h : Hw) (n c e k : Nat) : h.Sides (h.countCore n c e k) := by
  unfold Hw.countCore; exact sides_ite (.refl h) (Hw.keeps_count ..).sides

theorem Hw.sides_coreEvent (h : Hw) (n c : Nat) (t : BitVec 48) (wa : BitVec 17) (e : CoreEv) : h.Sides (h.coreEvent n c t wa e) := by
  cases e with
  | first code eng sub =>
    simp only [Hw.coreEvent]
    exact Hw.Sides.after (Hw.keeps_raiseOnce ..).sides (sides_ite (Hw.sides_updCore ..) (.refl h))
  | cond code eng a b => exact (Hw.keeps_raiseDie ..).sides
  | hazard k ag a s => exact (Hw.keeps_logHazard ..).sides
  | count ev k => exact Hw.sides_countCore ..

theorem Hw.sides_countWord (h : Hw) (n i : Nat) (e : FifoEntry) : h.Sides (h.countWord n i e) := by
  unfold Hw.countWord
  dsimp only
  repeat' first | exact Hw.Sides.refl _ | (refine Hw.Sides.after (Hw.sides_countCore ..) ?_) | (refine sides_ite ?_ ?_)

/-- One word on one core. -/
theorem Hw.sides_coreStep {h h' : Hw} {n i : Nat} {e : FifoEntry} (hs : h.coreStep n i e = some h') : h.Sides h' := by
  unfold Hw.coreStep at hs
  dsimp only at hs
  generalize (if (!e.skipped && decide (cwSrd e.w = 1)) = true then _ else _ : Nat × Bool) = cv at hs
  split at hs
  · cases hs
  · rename_i o ho
    injection hs with hs
    subst hs
    refine sides_ite (Hw.Sides.after (Hw.keeps_smallIssue ..).sides ?_) ?_ <;>
      refine sides_ite (Hw.Sides.after (Hw.keeps_trigger ..).sides ?_) ?_ <;>
      split <;>
      first
        | (refine Hw.Sides.after (Hw.sides_updCx fun _ => ⟨rfl, rfl, rfl, rfl⟩) ?_
           refine sides_ite (Hw.Sides.after (Hw.keeps_raiseOnce ..).sides ?_) ?_ <;>
             exact Hw.Sides.after (sides_foldl (fun _ _ => Hw.sides_coreEvent ..) _ _)
               (Hw.Sides.after (Hw.sides_countWord ..) (Hw.sides_updCore ..)))
        | (refine sides_ite (Hw.Sides.after (Hw.keeps_raiseOnce ..).sides ?_) ?_ <;>
             exact Hw.Sides.after (sides_foldl (fun _ _ => Hw.sides_coreEvent ..) _ _)
               (Hw.Sides.after (Hw.sides_countWord ..) (Hw.sides_updCore ..)))

theorem Hw.sides_parityFound (h : Hw) (n i : Nat) : h.Sides (h.parityFound n i) := by
  unfold Hw.parityFound
  exact sides_ite (.refl h) (Hw.Sides.after (Hw.sides_countCore ..) (Hw.Sides.after (Hw.keeps_raiseDie ..).sides (Hw.sides_updCore ..)))

theorem Hw.sides_runCore (n i fuel : Nat) (h : Hw) : h.Sides (Hw.runCore n i fuel h) := by
  induction fuel generalizing h with
  | zero => exact .refl h
  | succ k ih =>
    unfold Hw.runCore
    split
    · exact .refl h
    · split
      · exact Hw.sides_parityFound ..
      · split
        · exact (Hw.keeps_count ..).sides
        · rename_i hs
          exact Hw.Sides.after (ih _) (Hw.Sides.after (Hw.sides_updCore ..) (Hw.sides_coreStep hs))

theorem Hw.sides_takeWord (h : Hw) (n i : Nat) (t : BitVec 48) (e : FifoEntry) : h.Sides (h.takeWord n i t e) := by
  unfold Hw.takeWord
  dsimp only
  exact sides_ite (.refl h) (sides_ite (Hw.Sides.after (Hw.sides_runCore ..) (Hw.sides_updCore ..)) (Hw.sides_updCore ..))

/-- A word that goes down the tree changes cores, not Helm. -/
theorem Hw.sides_broadcast (h : Hw) (n : Nat) (t : BitVec 48) (e : FifoEntry) : h.Sides (h.broadcast n t e) :=
  sides_foldl (fun _ _ => Hw.sides_takeWord ..) _ _

theorem Hw.sides_release (h : Hw) (n : Nat) : h.Sides (h.release n) := (Hw.keeps_release ..).sides

/-- What the dies of a context are depends on the owner of the die and on the contexts. -/
theorem Hw.diesOf_side {h h' : Hw} (e : h'.side = h.side) (n : Nat) : h'.diesOf n = h.diesOf n := by
  have hn := congrFun e n
  simp only [Hw.side, Prod.mk.injEq] at hn
  obtain ⟨-, -, -, -, ho, -, -, hl⟩ := hn
  have hf : ∀ k, (h'.ctx? k).map (fun c => c.ents.map fun e => e.die.val) = (h.ctx? k).map fun c => c.ents.map fun e => e.die.val := by
    intro k
    have H : ∀ l : List Ctx, (l.find? fun x => x.num == k).map (fun c => c.ents.map fun e => e.die.val) =
        ((l.map fun x => (x.num, x.ents)).find? fun x => x.1 == k).map fun c => c.2.map fun e => e.die.val := by
      intro l
      rw [List.find?_map, Option.map_map]
      rfl
    unfold Hw.ctx?
    rw [H, H]
    unfold Chip.lists at hl
    rw [hl]
  unfold Hw.diesOf
  rw [ho, Option.map_bind, Option.map_bind]
  simp only [Function.comp_def, hf]

@[simp] theorem Hw.diesOf_updCx (h : Hw) (n : Nat) (f : DieCtx → DieCtx) (m : Nat) : (h.updCx n f).diesOf m = h.diesOf m := by
  unfold Hw.diesOf; rw [Hw.updCx_owner]; rfl

@[simp] theorem Hw.diesOf_count (h : Hw) (key n : Nat) (p : Priv) (cls m : Nat) (a : Option Nat) (d : Nat) :
    (h.count key n p cls m a).diesOf d = h.diesOf d := rfl

end Sys2Proof.Machine
end

