-- ==== Sys2Proof/Certificates/Slice0/Obligations.lean ====
section
/-! DEFINITION. The statements for the provers. -/

open Sys2Proof Sys2Proof.Machine

/-- A step takes the command at the front of the queue and runs it with the queue's rest.
It rests on the model's choices of log 1. -/
def Obligations.FrontCommandRuns : Prop :=
  ∀ (c : Instr) (s : State), step { s with pending := c :: s.pending } = exec c s

/-- A control-word row puts one word to Helm: its operand with the row's field in it and every other bit as it is (03 Tables 3-3 to 3-9, 08 Table 8-3).
It completes where its word may be issued: Helm moves as the word says.
It rests on the model's choices of logs 3, 46, 95. -/
def Obligations.WordsIssue : Prop :=
  (∀ (i : Instr) (d : Fin 16) (s : State), wordDie i = some d →
     exec i s = .next ((s.wakeFor d.val (rowBits i)).onHw fun h => h.issueWord d.val (rowBits i)) ∧
       (∀ b ∈ i.fixed, fld (rowBits i) b.1 b.2.1 = b.2.2) ∧
       ∀ k, k < 512 → (∀ b ∈ i.fixed, k < b.2.1 ∨ b.1 < k) → (rowBits i).getLsbD k = i.bits.getLsbD k) ∧
  (∀ (i : Instr) (d : Fin 16) (s : State), wordDie i = some d → s.hw.clean → Issuable s.hw d.val (rowBits i) →
     ∃ t, exec i s = .next t ∧ SameManaged (s.wakeFor d.val (rowBits i)) t ∧ HelmMoves (rowBits i) (s.hw.cx d.val).helm (t.hw.cx d.val).helm)

/-- LOOP_END, JUMP, the branches, CALL and RETURN (03:R65, R66). -/
def Obligations.Sequencing : Prop :=
  ∀ (i : Instr) (d : Fin 16) (s : State), wordDie i = some d →
    let w := rowBits i
    let x := s.hw.cx d.val
    let there := BitVec.ofNat 17 (cwTarget w)
    let next := x.helm.index + 1
    let v := (vget x.helm.lc (cwLc w) 0).toNat
    (s.hw.clean → Issuable s.hw d.val w → ∃ t, exec i s = .next t ∧
      let y := (t.hw.cx d.val).helm
      let at_ (index : BitVec 17) : Prop := y.bank = x.helm.bank ∧ y.index = index
      (cwClass w = 1 → 1 ≤ v ∧ (vget y.lc (cwLc w) 0).toNat = v - 1 ∧ at_ (if 1 < v then there else next)) ∧
      (cwClass w = 2 → at_ there) ∧
      (cwClass w = 3 → at_ (if x.helm.flagNow (cwFlag w) then there else next)) ∧
      (cwClass w = 4 → at_ (if x.helm.flagNow (cwFlag w) then next else there)) ∧
      (cwClass w = 5 → at_ there ∧ y.stack = BitVec.ofNat 18 (131072 * x.helm.bank.toNat + next.toNat) :: x.helm.stack) ∧
      (cwClass w = 6 → ∃ a, x.helm.stack = a :: y.stack ∧ y.bank = BitVec.ofNat 1 (a.toNat / 131072) ∧ y.index = BitVec.ofNat 17 (a.toNat % 131072))) ∧
    (cwClass w = 1 → v = 0 → checkWord (s.hw.legalEnv d.val) w ≠ none) ∧
    (∀ num, s.hw.canIssue d.val = true → (s.hw.die d.val).owner = some num → (x.bank x.helm.bank.toNat).valid = true →
      x.helm.index.toNat < (x.bank x.helm.bank.toNat).words.toNat → checkWord (s.hw.legalEnv d.val) w = none →
      (cwClass w = 5 ∧ 8 ≤ x.helm.stack.length ∨ cwClass w = 6 ∧ x.helm.stack = []) →
      ∃ t, exec i s = .next t ∧ (t.hw.cx d.val).stop = 0x0303 ∧ (t.hw.cx d.val).helm = { x.helm with st := .stopped, held := none } ∧
        (t.hw.cx d.val).cores = x.cores)

/-- Every control-word row acts on the cores: each healthy core takes the word once, and every other core and every other die's cores and Helm are
as before. A barrier that has not been passed orders the external writes of its participants' dies, and an acquire those that the signals to its semaphore
cover (02:R51, R52); nothing else changes what counts as unordered, but signals mark what they cover.
It rests on the model's choices of logs 3, 71. -/
def Obligations.WordsOnCores : Prop :=
  ∀ (i : Instr) (d : Fin 16) (s : State), wordDie i = some d → s.hw.clean → Issuable s.hw d.val (rowBits i) →
    (s.hw.cx d.val).helm.redo = none →
    let w := rowBits i
    ∃ t, exec i s = .next t ∧
      (∀ m, m ≠ d.val → (t.hw.cx m).cores.map Core.plain = (s.hw.cx m).cores.map Core.plain ∧ (t.hw.cx m).helm = (s.hw.cx m).helm) ∧
      ∀ k : Fin 32,
        let x := (s.hw.cx d.val).core k.val
        let y := (t.hw.cx d.val).core k.val
        let behind : Core := if cwBar w ≠ 0 ∧ (s.hw.cx d.val).helm.resolved ≠ some (s.hw.cx d.val).helm.step then
          x.fenced (if cwBar w = 1 then [d.val] else s.hw.diesOf d.val) else x
        let x' : Core := if cwSemop w = 1 then behind.acquired (cwSem w) else behind
        (if bit (s.hw.die d.val).healthy k.val then
          x.split = none → CoreTakes k.val (cwSrd w == 1) (entryOf (s.hw.cx d.val).helm w false) x' { y with unord := x'.unord }
        else y.plain = x.plain) ∧
        (x.split = none → y.unordered = x'.unordered)

/-- A word that fails a check is a whole-step no-op: Helm counts the skip and goes on to the next word, or stops after the 256th, and
every healthy core executes it as skipped.
It rests on the model's choices of logs 3, 46, 71, 90, 91, 92, 93. -/
def Obligations.BadWordSkipped : Prop :=
  ∀ (i : Instr) (d : Fin 16) (s : State) (why : Nat × Nat), wordDie i = some d → s.hw.clean → Fetches s.hw d.val →
    checkWord (s.hw.legalEnv d.val) (rowBits i) = some why → (∀ k ∈ s.hw.healthyCores d.val, ((s.hw.cx d.val).core k).fifo.length < 64) →
    ∃ t, exec i s = .next t ∧ SameManaged (s.wakeFor d.val (rowBits i)) t ∧ HelmSkips (s.hw.cx d.val).helm (t.hw.cx d.val).helm ∧
      ∀ k : Fin 32, let x := (s.hw.cx d.val).core k.val
        let y := (t.hw.cx d.val).core k.val
        if bit (s.hw.die d.val).healthy k.val then
          x.split = none → CoreTakes k.val false (entryOf (s.hw.cx d.val).helm (rowBits i) true) x { y with unord := x.unord }
        else y.plain = x.plain

/-- A legal word that has to wait is held with its reason; no core executes it and Helm stays at it. A wait that has ended lets the word go on, and its
command does nothing for a die that stands at no such wait (02:R52, 03:R59, R67, R68, R71, R73).
It rests on the model's choices of logs 3, 46, 73. -/
def Obligations.WordsWait : Prop :=
  (∀ (i : Instr) (d : Fin 16) (s : State) (why : HeldWhy), wordDie i = some d → Fetches s.hw d.val →
     checkWord (s.hw.legalEnv d.val) (rowBits i) = none → cwClass (rowBits i) ≠ 5 → cwClass (rowBits i) ≠ 6 →
     (s.hw.cx d.val).helm.redo = none → (s.hw.cx d.val).helm.resolved ≠ some (s.hw.cx d.val).helm.step →
     (cwClass (rowBits i) = 7 → ((s.hw.cx d.val).bank (1 - (s.hw.cx d.val).helm.bank.toNat)).valid = true ∨
       (s.hw.cx d.val).loadOf (1 - (s.hw.cx d.val).helm.bank.toNat) = true) →
     NotYet s.hw d.val (rowBits i) why → (∀ y, y.rank < why.rank → ¬ NotYet s.hw d.val (rowBits i) y) →
     (why = .sem → cwBar (rowBits i) ≠ 2) →
     ∃ t, exec i s = .next t ∧ SameManaged (s.wakeFor d.val (rowBits i)) t ∧ (∀ m, (t.hw.cx m).cores.map Core.plain = (s.hw.cx m).cores.map Core.plain) ∧
       ∃ r, (t.hw.cx d.val).helm =
         { (s.hw.cx d.val).helm with held := some (rowBits i, why), st := why.shown, resolved := r }) ∧
  (∀ (d : Fin 16) (s : State),
     (∀ w why i, s.hw.clean → (s.hw.cx d.val).helm.held = some (w, why) → (s.hw.cx d.val).helm.st = why.shown → waitEnd d why = some i →
       Issuable (s.hw.letGo d.val) d.val w → (why = .dieBar → cwBar w = 1) → (why = .ctxBar → cwBar w = 2 ∧ d.val ∈ s.hw.diesOf d.val) →
       ∃ t, exec i s = .next t ∧ SameManaged s t ∧ HelmMoves w (s.hw.cx d.val).helm (t.hw.cx d.val).helm) ∧
     (s.hw.heldFor d.val ≠ some .dieBar → s.hw.heldFor d.val ≠ some .ctxBar → exec (.barrierResolve d) s = .next s) ∧
     (s.hw.barReady d.val = false → (s.hw.heldFor d.val = some .ctxBar → d.val ∈ s.hw.diesOf d.val) →
       exec (.barrierResolve d) s = .next s) ∧
     (s.hw.heldFor d.val ≠ some .sem → exec (.semWaitResolve d) s = .next s) ∧
     (s.hw.heldFor d.val ≠ some .flag → exec (.flagResolution d) s = .next s))

/-- What stops a program as Helm comes to a word: a call beyond eight levels or a return with none (R66), a switch to a bank with no load (R67), a fetch beyond
the segment (R93). The die holds the code and the condition's sequence number, Helm stops before the word, and the context is to end with status 3. The 256th skip
ends the program with 0x0302 (R86), and a pre-emption at yield that has waited 16,384 words takes effect (R75).
It rests on the model's choices of logs 16, 25, 46, 95. -/
def Obligations.ProgramStops : Prop :=
  (∀ (i : Instr) (d : Fin 16) (s : State) (num : BitVec 16) (code : Nat), wordDie i = some d → s.hw.canIssue d.val = true →
     (s.hw.die d.val).owner = some num →
     let w := rowBits i
     let x := s.hw.cx d.val
     let ok := checkWord (s.hw.legalEnv d.val) w = none
     let inside := x.helm.index.toNat < (x.bank x.helm.bank.toNat).words.toNat
     (x.bank x.helm.bank.toNat).valid = true →
     (code = 0x0407 ∧ ¬ inside ∨
       code = 0x0303 ∧ inside ∧ ok ∧ (cwClass w = 5 ∧ 8 ≤ x.helm.stack.length ∨ cwClass w = 6 ∧ x.helm.stack = []) ∨
       code = 0x0405 ∧ inside ∧ ok ∧ cwClass w = 7 ∧ (x.bank (1 - x.helm.bank.toNat)).valid = false ∧ x.loadOf (1 - x.helm.bank.toNat) = false) →
     ∃ t, exec i s = .next t ∧ SameManaged (s.wakeFor d.val (rowBits i)) t ∧ (t.hw.cx d.val).stop = BitVec.ofNat 16 code ∧ (t.hw.cx d.val).stopSeq = s.hw.host.seq ∧
       t.hw.host.seq = s.hw.host.seq + 1 ∧ (t.hw.cx d.val).helm = { x.helm with st := .stopped, held := none } ∧
       (t.hw.die d.val).phase = .draining ∧ (∀ c ∈ t.hw.chip.ctxs, c.num = num → 3 ≤ c.ending)) ∧
  (∀ (d : Fin 16) (s : State) (num : BitVec 16), (s.hw.die d.val).owner = some num →
     ((s.hw.cx d.val).helm.st = .stopped → (s.hw.cx d.val).helm.skips = 256 → (s.hw.cx d.val).stop = 0 →
       ∃ t, exec (.skipLimitReached d) s = .next t ∧ SameManaged s t ∧ (t.hw.cx d.val).stop = 0x0302 ∧ (t.hw.cx d.val).stopSeq = s.hw.host.seq ∧
         ∀ c ∈ t.hw.chip.ctxs, c.num = num → 3 ≤ c.ending) ∧
     ((s.hw.cx d.val).pre = .atYield 0 → (s.hw.die d.val).phase = .running →
       ∃ t, exec (.preemptYieldTimeout d) s = .next t ∧ SameManaged s t ∧ (t.hw.die d.val).phase = .draining ∧ (t.hw.cx d.val).pre = .now ∧
         (t.hw.cx d.val).ymode = true ∧ (t.hw.cx d.val).helm.held = none ∧ (t.hw.cx d.val).helm.step = (s.hw.cx d.val).helm.step) ∧
     ((s.hw.cx d.val).helm.skips ≠ 256 → exec (.skipLimitReached d) s = .next s) ∧
     ((s.hw.cx d.val).pre ≠ .atYield 0 → exec (.preemptYieldTimeout d) s = .next s))

/-- A core that finds bad parity awaits the word again while Helm and the other cores go on; the word re-delivered is executed, and one
that cannot be read leaves the core before it, at a split boundary, and pre-empts the context; a core that awaits none is left as it is (R60, R76).
It rests on the model's choices of logs 3, 27, 71, 74. -/
def Obligations.WordParity : Prop :=
  ∀ (d : Fin 16) (c : Fin 32) (s : State),
    let x := (s.hw.cx d.val).core c.val
    (∀ w, s.hw.clean → Issuable s.hw d.val w → (s.hw.cx d.val).helm.redo = none → cwBar w = 0 → cwSemop w ≠ 1 →
      bit (s.hw.die d.val).healthy c.val = true → x.fifo = [] → x.split = none →
      ∃ t, exec (.controlWordParityError d c ⟨w, []⟩) s = .next t ∧ SameManaged s t ∧ HelmMoves w (s.hw.cx d.val).helm (t.hw.cx d.val).helm ∧
        (let e := entryOf (s.hw.cx d.val).helm w false
         ((t.hw.cx d.val).core c.val).plain = { x.plain with fifo := [{ e with bad := true }], await := true }) ∧
        ∀ k : Fin 32, k ≠ c → bit (s.hw.die d.val).healthy k.val = true → ((s.hw.cx d.val).core k.val).split = none →
          CoreTakes k.val (cwSrd w == 1) (entryOf (s.hw.cx d.val).helm w false) ((s.hw.cx d.val).core k.val)
            { (t.hw.cx d.val).core k.val with unord := ((s.hw.cx d.val).core k.val).unord }) ∧
    (∀ e, s.hw.clean → x.await = true → x.fifo = [e] → (s.hw.die d.val).owner.isSome = true → (s.hw.cx d.val).helm.held = none →
      ∃ t, exec (.wordRedelivered d c true) s = .next t ∧ SameManaged s t ∧
        CoreTakes c.val (cwSrd e.w == 1) { e with bad := false } { x with fifo := [], await := false }
          { (t.hw.cx d.val).core c.val with unord := x.unord }) ∧
    (∀ num, x.await = true → (s.hw.die d.val).owner = some num → (s.hw.die d.val).phase = .running →
      ∃ t, exec (.wordRedelivered d c false) s = .next t ∧ SameManaged s t ∧ t.hw.host.seq = s.hw.host.seq + 1 ∧
        ((t.hw.cx d.val).core c.val).split = some ((t.hw.cx d.val).core c.val).step ∧ ((t.hw.cx d.val).core c.val).step = x.step ∧
        ((t.hw.cx d.val).core c.val).await = false ∧ (t.hw.die d.val).phase = .draining ∧ (t.hw.cx d.val).pre = .now) ∧
    (∀ ok, x.await = false → exec (.wordRedelivered d c ok) s = .next s)

/-! ### One word on one core (02, 07-10) -/

/-- A core that executes a word counts one step; its scratchpad and accumulator change by what becomes visible in this step, and each
unit's own state only by a word that uses the unit.
It rests on the model's choices of log 83. -/
def Obligations.CoreFrame : Prop :=
  ∀ (k : Core) (i : Nat) (e : FifoEntry) (o : CoreOut), k.exec i e = some o →
    let c := k.commit.commitPred
    let w := e.w
    let on := e.skipped = false ∧ coreActive w i = true
    o.core.step = k.step + 1 ∧ o.core.fifo = k.fifo ∧ o.core.split = k.split ∧ o.core.unord = k.unord ∧ o.core.spad = k.commit.spad ∧
    o.core.pred = c.pred ∧ o.core.carry = c.carry ∧ o.core.genSeed = c.genSeed ∧
    (o.core.lc, o.core.lcStart) = (if e.skipped then (k.lc, k.lcStart) else lcAfter w k.lc k.lcStart) ∧
    (o.core.vlen = if on ∧ cwImmuse w = 3 then BitVec.ofNat 17 (cwImm w) else k.vlen) ∧
    (on → cwImmuse w = 3 → o.core.pos = 0) ∧
    (¬ (on ∧ cwImmuse w = 3) → ¬ (on ∧ vxN w ≠ 0) → o.core.pos = k.pos) ∧
    (¬ (on ∧ vxN w ≠ 0) → o.core.genCtr = c.genCtr) ∧
    (¬ (on ∧ 2 ≤ mxMode w) → o.core.stat = k.stat ∧ o.core.statScale = k.statScale ∧ o.core.statFmt = k.statFmt) ∧
    (¬ (on ∧ mxTwr w = 1) → o.core.ttile = k.ttile) ∧
    (¬ (on ∧ mxDrn w = 1 ∧ mxDzero w = 1) → o.core.acc = c.acc) ∧
    (¬ (on ∧ mxMode w = 1) → o.core.abuf = k.abuf ∧ o.core.accPend = c.accPend.map fun u => { u with age := u.age + 1 }) ∧
    (¬ (on ∧ scOp w ≠ 0) → o.core.carryPend = c.carryPend.map fun p => (p.1 + 1, p.2)) ∧
    (¬ (on ∧ rsuOp w ≠ 0) → o.core.rsu = k.rsu) ∧
    (¬ (on ∧ vfSwap w = 1) → o.core.vtab = k.vtab)

/-- A core executes a word unless it reads a tile that fails verification (05:R126, R127). Distances of one core: a scratchpad write is
read six steps after its word and no earlier, an accumulator update enters its row ten steps after, in each of the row's 128 lanes, and no other row changes
(02:R47, 07:R169).
It rests on the model's choices of log 82. -/
def Obligations.CoreTiming : Prop :=
  (∀ (k : Core) (i : Nat) (e : FifoEntry), k.exec i e = none ↔
     e.skipped = false ∧ coreActive e.w i = true ∧ ∃ g ∈ k.commit.commitPred.guards, g.st = .unverified ∧
       (∃ a ∈ [0, 1, 3], agReads e.w a = true ∧
         overlaps g.base g.size (agAddr e.w a k.commit.commitPred.iter) (agBytes (agBits e.w a)) = true) ∧
       k.commit.commitPred.guardOk g = false) ∧
  ((∀ (k : Core) (a : Nat) (cells : List Host.Cell), k.spadPend = [⟨a, cells⟩] →
     (a < 6 → k.commit.spad = k.spad ∧ k.commit.spadPend = k.spadPend) ∧
     (6 ≤ a → k.commit.spadPend = [] ∧ k.commit.spad = cells.foldl (fun m x => m.write x.1 x.2) k.spad)) ∧
   (∀ (k : Core) (u : AccUpd), (k.accPend = [u] → u.age < 10 → k.commit.acc = k.acc) ∧
     (smWf (0 : Word32) none k.acc = true → k.accPend = [u] → 10 ≤ u.age → k.bad = [] → ∀ r l, l < 128 →
       smGet (0 : Word32) k.commit.acc (128 * r + l) =
         if r = u.row then
           BitVec.ofNat 32 (if u.add then fadd (smGet (0 : Word32) k.acc (128 * r + l)).toNat (u.vals.getD l 0) else u.vals.getD l 0)
         else smGet (0 : Word32) k.acc (128 * r + l))))

/-- What the matrix unit does in one word (07:R161, R163-R166): a compute issues the update of one row, a row write fills one row of the transpose tile, a drain
presents one accumulator row and may zero it; a stationary load puts its element of each lane into row STROW of the stationary columns and leaves every other row.
A core whose unit fails its test, after its context has ended, is retired (07:R172, 01:R25).
It rests on the model's choices of log 83. -/
def Obligations.MatrixWords : Prop :=
  ((∀ (w : Word512) (a0 a1 a3 : Option (List Byte)) (c : Core), c.bad = [] →
      let rows := mxRows w c.iter
      let r := mxWord w a0 a1 a3 c
      (mxMode w = 1 → ∃ vals, r.1.accPend = c.accPend ++ [⟨0, rows.acc, mxAcc w == 1, vals⟩] ∧ vals.length = 128 ∧
        (mxIsMx (mxFmta w) = false → ∀ l, l < 128 → vals.getD l 0 =
          mxDot w rows (if mxDrn w = 1 then (mxDrain w rows c).1 else c) (a0.getD []) l)) ∧
      (mxTwr w = 1 → c.ttile.wf = true → ∀ a, r.1.ttile.read a =
        if 64 * rows.tr ≤ a ∧ a < 64 * rows.tr + 64 then (bytesAt (a3.getD []) 0 64).getD (a - 64 * rows.tr) 0 else c.ttile.read a) ∧
      (mxDrn w = 1 → ∃ l, r.2.1 = some l ∧ l.length = 128 ∧ ∀ j, j < 128 →
        l.getD j Lane.zero = ⟨(smGet (0 : Word32) c.acc (128 * rows.dr + j)).toNat, false, true, (smGet (0 : Word32) c.acc (128 * rows.dr + j)).toNat⟩) ∧
      (mxDrn w = 0 → r.2.1 = none ∧ r.1.acc = c.acc) ∧
      (mxDrn w = 1 → mxDzero w = 1 → smWf (0 : Word32) none c.acc = true → ∀ q j, j < 128 →
        smGet (0 : Word32) r.1.acc (128 * q + j) = if q = rows.dr then 0 else smGet (0 : Word32) c.acc (128 * q + j)) ∧
      (mxMode w = 2 → r.1.statFmt = BitVec.ofNat 3 (mxFmts w)) ∧ (mxMode w = 3 → r.1.statFmt = BitVec.ofNat 3 (mxFmts w))) ∧
   (∀ (w : Word512) (rows : MxRows) (a0 a1 a3 : Option (List Byte)) (c : Core), c.stat.wf = true → c.bad = [] →
      mxFmts w ≤ 5 → rows.st < mxK (mxFmts w) →
      let bits := fmtBits (mxFmtCode (mxFmts w))
      ∀ l r, l < 128 → r < mxK (mxFmts w) →
        lineElem (mxLoad w rows a0 a1 a3 c).stat (64 * l) bits r =
          (if r = rows.st then
            (match a1 with
              | some b => if l < 64 then elemAt (a3.getD []) bits l else elemAt b bits (l - 64)
              | none => elemAt (a3.getD []) bits l) % 2 ^ bits
          else lineElem c.stat (64 * l) bits r) ∧
        (mxAcc w ≤ 1 → lineElem (mxLoadT w rows a0 c).stat (64 * l) bits r =
          if r = rows.st ∧ 64 * mxAcc w ≤ l ∧ l < 64 * mxAcc w + 64 then lineElem c.ttile (64 * (l - 64 * mxAcc w)) bits r % 2 ^ bits
          else lineElem c.stat (64 * l) bits r))) ∧
  (∀ (d : Fin 16) (c : Fin 32) (pass : Bool) (s : State),
     (((s.hw.cx d.val).core c.val).mxuFail = true → (s.hw.die d.val).owner = none →
       ∃ t, exec (.mxuSelfTestDone d c pass) s = .next t ∧ SameManaged s t ∧ ((t.hw.cx d.val).core c.val).mxuFail = false ∧
         (∀ k, bit (t.hw.die d.val).healthy k = if pass = false ∧ k = c.val then false else bit (s.hw.die d.val).healthy k) ∧
         t.hw.host.seq = s.hw.host.seq + (if pass then 0 else 1)) ∧
     (((s.hw.cx d.val).core c.val).mxuFail = false ∨ (s.hw.die d.val).owner ≠ none → exec (.mxuSelfTestDone d c pass) s = .next s))

/-! ### Stacks (13) -/

/-- The operations of the vector engine (08:R179, R180). The I operations are those of 32-bit words, and SELECT takes B where the predicate bit is 1. With a NaN
operand MIN and MAX give the canonical NaN and only CMPNE is true; the comparisons give 1.0 or +0, take −0 and +0 as equal and agree with one another; RSUB is SUB
with its operands exchanged; ABS and NEG of a number set and flip its sign; FTOI saturates and gives 0 for NaN. -/
def Obligations.VxeOperations : Prop :=
  (∀ (a b : Word32) (ti tj p : Bool) (imm : Nat),
     let v : LV := ⟨a.toNat, ti⟩
     let u : LV := ⟨b.toNat, tj⟩
     let op (k : Nat) : LV := (vxOp k v u imm p).1
     op 0x01 = v.canon ∧ op 0x16 = (if p then u else v).canon ∧
     op 0x20 = ⟨(a + b).toNat, true⟩ ∧ op 0x21 = ⟨(a - b).toNat, true⟩ ∧ op 0x22 = ⟨(a * b).toNat, true⟩ ∧
     op 0x23 = ⟨(a &&& b).toNat, true⟩ ∧ op 0x24 = ⟨(a ||| b).toNat, true⟩ ∧ op 0x25 = ⟨(a ^^^ b).toNat, true⟩ ∧
     op 0x26 = ⟨(a <<< (b.toNat % 32)).toNat, true⟩ ∧ op 0x27 = ⟨(a >>> (b.toNat % 32)).toNat, true⟩ ∧
     op 0x28 = ⟨(a.sshiftRight (b.toNat % 32)).toNat, true⟩ ∧
     op 0x29 = ⟨(if b.slt a then b else a).toNat, true⟩ ∧ op 0x2A = ⟨(if a.slt b then b else a).toNat, true⟩) ∧
  (∀ (a b : Word32) (ti tj p : Bool) (imm : Nat),
     let v : LV := ⟨a.toNat, ti⟩
     let u : LV := ⟨b.toNat, tj⟩
     let op (k : Nat) (x y : LV) : LV := (vxOp k x y imm p).1
     let one : LV := .f one32
     let zero : LV := .f 0
     ((isNan32 a.toNat || isNan32 b.toNat) = true →
       op 0x08 v u = .f nan32 ∧ op 0x09 v u = .f nan32 ∧ op 0x10 v u = zero ∧ op 0x11 v u = one ∧ op 0x12 v u = zero ∧ op 0x13 v u = zero ∧
         op 0x14 v u = zero ∧ op 0x15 v u = zero) ∧
     ((isNan32 a.toNat || isNan32 b.toNat) = false →
       (op 0x08 v u = .f a.toNat ∨ op 0x08 v u = .f b.toNat) ∧ (op 0x09 v u = .f a.toNat ∨ op 0x09 v u = .f b.toNat) ∧
       (op 0x10 v u = one ↔ op 0x11 v u = zero) ∧ (op 0x12 v u = one ↔ op 0x15 v u = zero) ∧ (op 0x14 v u = one ↔ op 0x13 v u = zero) ∧
       ¬ (op 0x12 v u = one ∧ op 0x10 v u = one) ∧ ¬ (op 0x12 v u = one ∧ op 0x14 v u = one)) ∧
     (isZero32 a.toNat = true → isZero32 b.toNat = true → op 0x10 v u = one ∧ op 0x12 v u = zero ∧ op 0x14 v u = zero) ∧
     op 0x14 v u = op 0x12 u v ∧ op 0x15 v u = op 0x13 u v ∧ op 0x05 v u = op 0x04 u v ∧
     (isNan32 a.toNat = false → op 0x0A v u = .f (a &&& 0x7FFFFFFF).toNat ∧ op 0x0B v u = .f (a ^^^ 0x80000000).toNat) ∧
     (isNan32 a.toNat = true → op 0x0A v u = .f nan32 ∧ op 0x0B v u = .f nan32 ∧ vxOp 0x1C v u imm p = (⟨0, true⟩, false)) ∧
     (a = 0x7F800000 → vxOp 0x1C v u imm p = (⟨0x7FFFFFFF, true⟩, true)) ∧ (a = 0xFF800000 → vxOp 0x1C v u imm p = (⟨0x80000000, true⟩, true)))

/-- A word with IMMUSE = 0b011 loads VLEN from IMM and sets P to 0 on every healthy core, for the words after it; a VLEN of 0 is no legal word (08:R183). -/
def Obligations.StreamLengths : Prop :=
  (∀ (k : Core) (i : Nat) (e : FifoEntry) (o : CoreOut), k.exec i e = some o → e.skipped = false → cwImmuse e.w = 3 →
    o.core.vlen = BitVec.ofNat 17 (cwImm e.w) ∧ o.core.pos = 0) ∧
  (∀ (d : Fin 16) (w0 : Word512) (s : State), let w := rowBits (.vlenLoad d w0)
    s.hw.clean → Issuable s.hw d.val w → (s.hw.cx d.val).helm.redo = none →
    ∃ t, exec (.vlenLoad d w0) s = .next t ∧ ∀ k : Fin 32, let x := (s.hw.cx d.val).core k.val
      bit (s.hw.die d.val).healthy k.val = true → x.fifo = [] → x.split = none → (∀ g ∈ x.commit.commitPred.guards, g.st ≠ .unverified) →
        ((t.hw.cx d.val).core k.val).vlen = BitVec.ofNat 17 (cwImm w) ∧ ((t.hw.cx d.val).core k.val).pos = 0) ∧
  ∀ (e : LegalEnv) (w : Word512), cwImmuse w = 3 → cwImm w = 0 → checkWord e w ≠ none

/-- A chain of n slots presents 512 lanes 4 + 5n steps after its word; without compress or expand a lane is valid where VLEN and the predicate
allow it; a word under VLEN moves the stream position by 512; a word that draws moves every lane generator by 512; GSET is in force five
steps later (08:R175, R182, R183, R189, R190).
It rests on the model's choices of logs 82, 88, 89, 94. -/
def Obligations.VxeWords : Prop :=
  ∀ (w : Word512) (rd : Reads) (p : Pres) (c : Core),
    let r := vxWord w rd p c
    (vxN w = 0 → r = (c, none, [])) ∧
    (vxN w ≠ 0 → slotOp (vxSlot w 0) ≠ 0x3F → ∃ f, r.2.1 = some f ∧ f.unit = .chain ∧ f.left = 4 + 5 * vxN w ∧ f.lanes.length = 512 ∧
      (vxCx w = 0 → ∀ j, j < 512 → (f.lanes.getD j Lane.zero).valid = (vxValid w rd c).testBit j) ∧
      r.1.pos = (if vxVlu w = 1 ∧ c.pos.toNat < c.vlen.toNat then c.pos + 512 else c.pos) ∧
      (CoreEv.first 0x0702 4 0 ∈ r.2.2 ↔ vxVlu w = 1 ∧ c.vlen.toNat ≤ c.pos.toNat) ∧
      (∀ j, j < 512 → vget r.1.genCtr j 0 = if vxDraws w then vget c.genCtr j 0 + 512 else vget c.genCtr j 0)) ∧
    (vxN w ≠ 0 → slotOp (vxSlot w 0) = 0x3F → ∃ sd b, r.1 = { c with gsetPend := c.gsetPend ++ [(5, sd, b)] }) ∧
    (∀ j, j < 512 → (vxValid w rd c).testBit j = true → (vxVlu w = 1 → j < c.vlen.toNat - c.pos.toNat) ∧ (vxPsrc w = 3 → c.pred.getLsbD j = true))

/-- A scan presents 512 lanes 16 steps after its word, valid where its source is; the first three lanes of an unsegmented scan show the order of
its levels, and a carry enters every lane of the first segment (09:R200-R203).
A fold word adds its valid elements to its slot, which it first empties if another operation or k stands in it; it counts them and moves the
index base; a finalise presents the statistics eight steps later and empties the slot, and raises 0x0706 where none is recorded (09:R205, R206). -/
def Obligations.ScanAndReduceWords : Prop :=
  (∀ (w : Word512) (rd : Reads) (p : Pres) (c : Core), scOp w ≠ 0 →
     let r := scanWord w rd p c
     let src := scSource (scSrc w) rd p
     let b (j : Nat) : Nat := if (rd.a3.getD []).length < 4 * (j + 1) then 0 else leAt (rd.a3.getD []) (4 * j) 4
     let x (j : Nat) : ScanV := if (src.getD j ⟨0, false⟩).ok then ((src.getD j ⟨0, false⟩).v, if scOp w = 5 then b j else 0) else scanId (scOp w)
     ∃ f, r.2.1 = some f ∧ f.unit = .scan ∧ f.left = 16 ∧ f.lanes.length = 512 ∧
       (∀ j, j < 512 → (f.lanes.getD j Lane.zero).valid = (src.getD j ⟨0, false⟩).ok ∧
         ((src.getD j ⟨0, false⟩).ok = false → f.lanes.getD j Lane.zero = Lane.zero)) ∧
       (scSeg w = 0 → scCarry w = 0 →
         ((src.getD 0 ⟨0, false⟩).ok = true → (f.lanes.getD 0 Lane.zero).v = canon32 (scanPlain (scOp w) (x 0))) ∧
         ((src.getD 1 ⟨0, false⟩).ok = true → (f.lanes.getD 1 Lane.zero).v = canon32 (scanPlain (scOp w) (scanOp (scOp w) (x 0) (x 1)))) ∧
         ((src.getD 2 ⟨0, false⟩).ok = true → (f.lanes.getD 2 Lane.zero).v =
           canon32 (scanPlain (scOp w) (scanOp (scOp w) (x 0) (scanOp (scOp w) (x 1) (x 2)))))) ∧
       (scSeg w = 0 → scCarry w = 1 → c.isBad .carry = false → (src.getD 0 ⟨0, false⟩).ok = true →
         (f.lanes.getD 0 Lane.zero).v = canon32 (scanCarryOp (scOp w) c.carry.toNat (x 0))) ∧
       ((src.any (·.ok) = true) → ∃ v, r.1 = { c with carryPend := c.carryPend ++ [(0, v)] }) ∧
       (src.any (·.ok) = false → scSeg w = 0 → r.1 = c)) ∧
  (∀ (w : Word512) (rd : Reads) (p : Pres) (c : Core), rsuOp w < 7 →
     let r := rsuWord w rd p c
     let i := rsuSlot w
     let src := scSource (rsuSrc w) rd p
     let k := if rsuOp w = 5 then rsuTopk w + 1 else 0
     let cnt := (src.filter (·.ok)).length
     (∀ j, j < 4 → j ≠ i → r.1.slot j = c.slot j) ∧
     (1 ≤ rsuOp w → rsuOp w ≤ 5 → r.2.1 = none ∧
       ∃ s0, s0 = (if (c.slot i).op.toNat = rsuOp w ∧ (c.slot i).k.toNat = k then c.slot i
           else { RsuSlot.init with op := BitVec.ofNat 3 (rsuOp w), k := BitVec.ofNat 7 k }) ∧
         (r.1.slot i).op = s0.op ∧ (r.1.slot i).k = s0.k ∧ (r.1.slot i).n.toNat = min 0xFFFFFFFF (s0.n.toNat + cnt) ∧
         (r.1.slot i).q = s0.q + BitVec.ofNat 32 (srcWidth (rsuSrc w)) ∧ (cnt = 0 → (r.1.slot i).part = s0.part)) ∧
     (rsuOp w = 6 → (c.slot i).op = 0 → r = (c, none, [.cond 0x0706 6 0 0])) ∧
     (rsuOp w = 6 → (c.slot i).op ≠ 0 → (r.1.slot i) = { RsuSlot.init with op := (c.slot i).op, k := (c.slot i).k } ∧
       ∃ f, r.2.1 = some f ∧ f.unit = .rsu ∧ f.left = 8 ∧ f.lanes.length = 512))

/-- A lookup presents 256 lanes 18 steps after its word, read from the bank's live image; SWAP exchanges a Ready shadow with it and otherwise
raises 0x0803 and changes nothing (10:R214, R226).
It rests on the model's choices of logs 12, 83, 98. -/
def Obligations.VernierWords : Prop :=
  ∀ (w : Word512) (rd : Reads) (p : Pres) (c : Core), vfBank w < 2 →
    let r := vfWord w rd p c
    let k := c.bank (vfBank w)
    (vfEn w = 1 → ∃ f, r.2.1 = some f ∧ f.unit = .vernier ∧ f.left = 18 ∧ f.lanes.length = 256 ∧
      ∀ j, j < 256 → f.lanes.getD j Lane.zero = ⟨vLane w c (vInput w rd p j), false, true, vLane w c (vInput w rd p j)⟩) ∧
    (vfEn w ≠ 1 → r.2.1 = none) ∧ (vfSwap w ≠ 1 → r.1 = c) ∧
    (vfSwap w = 1 → k.sst = .ready →
      let n := r.1.bank (vfBank w)
      n.live = k.shadow ∧ n.liveOk = true ∧ n.shadow = k.live ∧ n.gen = k.gen + 1 ∧ n.sst = (if k.liveOk then .ready else .empty) ∧
        r.1.bank (1 - vfBank w) = c.bank (1 - vfBank w) ∧ CoreEv.first 0x0803 7 0 ∉ r.2.2) ∧
    (vfSwap w = 1 → k.sst ≠ .ready → r.1 = c ∧ CoreEv.first 0x0803 7 0 ∈ r.2.2)

/-! ### Loads of tables and banks, and the matrix unit's test (04, 07, 10) -/

/-- A table load that has arrived is validated, after one re-read where its checksum fails, and is Ready or Rejected with the first failing check;
a load that was Held becomes the shadow once no lookup of the old generation is under way (10:R223, R227).
A segment read whole whose checksum holds makes its bank valid with the segment's words; a mismatch is read again once and then leaves the
bank invalid (04:R94, R97).
It rests on the model's choices of logs 84, 96. -/
def Obligations.LoadsOfTablesAndBanks : Prop :=
  (∀ (d : Fin 16) (c : Fin 32) (b : Fin 2) (s : State),
     let k := (s.hw.cx d.val).core c.val
     (∀ reread, k.vtab[b].sst = .loading → s.hw.tableArrived d.val c.val b.val = true → s.hw.chip.hostX = [] →
       (∀ x ∈ s.hw.host.cmds, ∀ g, x.work ≠ .flat g) →
       let again := !pkgCrcOk k.vtab[b].shadow
       let img := if again then bytesAt reread 0 k.vtab[b].shadow.length else k.vtab[b].shadow
       ∃ t, exec (.tableLoadValidate d c b reread) s = .next t ∧ SameManaged s t ∧
         (let n := ((t.hw.cx d.val).core c.val).vtab[b]
          n.sst = (if vValidate img = 0 then .ready else .rejected) ∧ n.shadow = img ∧ n.live = k.vtab[b].live ∧ n.gen = k.vtab[b].gen ∧
            n.reason = (if vValidate img = 0 then k.vtab[b].reason else BitVec.ofNat 8 (vValidate img))) ∧
         t.hw.host.seq = s.hw.host.seq + (if again then 1 else 0) + (if vValidate img = 0 then 0 else 1) ∧
         (∀ c' : Fin 32, c' ≠ c → (t.hw.cx d.val).core c'.val = (s.hw.cx d.val).core c'.val)) ∧
     (k.vtab[b].sst = .held → k.oldLookups k.vtab[b] = false →
       ∃ t, exec (.tableLoadHeldRelease d c b) s = .next t ∧ SameManaged s t ∧
         ((t.hw.cx d.val).core c.val).vtab[b] = { k.vtab[b] with sst := .loading, shadow := k.vtab[b].arrived, arrived := [] } ∧
         (∀ c' : Fin 32, c' ≠ c → (t.hw.cx d.val).core c'.val = (s.hw.cx d.val).core c'.val)) ∧
     (k.vtab[b].sst ≠ .held → exec (.tableLoadHeldRelease d c b) s = .next s)) ∧
  (∀ (d : Fin 16) (s : State) (l : LoadReq), s.hw.clean → s.hw.agentsRun d.val = true → (s.hw.cx d.val).loads = [l] → l.started = true →
     l.stall = .run → l.after = none → (s.hw.cx d.val).helm.held = none →
     let w : Who := ⟨.program, 1, srcBytes d.val 0xFF 0x09⟩
     let img := (s.hw.cx d.val).imgBase.toNat
     ∀ t0 t1 t2, Hw.loadPages d.val w (pagesOfRange (img + 112) 4) [] s.hw = .ok t0 →
       Hw.loadPages d.val w (pagesOfRange (img + leNat t0.1 + 16 * l.seg.toNat) 16) [] t0.2 = .ok t1 →
       let e := segEntry (leNat t1.1)
       Hw.loadPages d.val w (pagesOfRange (img + e.offset) (64 * e.words)) [] t1.2 = .ok t2 →
       ∃ t, exec (.bankLoadComplete d) s = .next t ∧ SameManaged s t ∧
         let k := (t.hw.cx d.val).bank l.bank.toNat
         if crc32c t2.1 = e.crc then
           (t.hw.cx d.val).loads = [] ∧ k.valid = true ∧ k.loading = false ∧ k.seg = l.seg ∧ k.words = BitVec.ofNat 17 e.words ∧
             k.code = codeOf e.words 0 t2.1 ∧
             (t.hw.cx d.val).helm.st = (if (s.hw.cx d.val).helm.st = .waitBank ∧ (s.hw.cx d.val).helm.bank = l.bank then .issuing else (s.hw.cx d.val).helm.st)
         else if l.retried then (t.hw.cx d.val).loads = [] ∧ k.loading = false ∧ k.valid = ((s.hw.cx d.val).bank l.bank.toNat).valid
         else (t.hw.cx d.val).loads = [{ l with retried := true, next := 0 }] ∧ k.loaded = 0 ∧ t.hw.host.seq = s.hw.host.seq + 1)

/-- A stack that leaves Off holds zeros, with no channel state but what its via test finds; one in retention wakes with its contents (13:R280, R287,
R288).
A scrub read of a burst: what cannot be decoded is uncorrectable and stays as it is; what is decoded is written back, symbol by symbol, and a
correction counts in its channel (13:R278, R281, R286).
It rests on the model's choices of logs 7, 28, 68. -/
def Obligations.Stacks : Prop :=
  (∀ (k : Fin 16) (s : State),
     (∀ vias, (s.hw.stk k.val).mst = .off → (s.hw.die k.val).unpowered = false → (s.hw.die k.val).idFail = false →
       (∀ v ∈ vias, v.stack = k → v.dead = []) →
       ∃ t, exec (.stackOffExit k vias) s = .next t ∧ SameManaged s t ∧ (t.hw.stk k.val).mst = .on ∧ (t.hw.stk k.val).mem = [] ∧ (t.hw.stk k.val).bad = [] ∧
         (∀ c, c < 256 → vget (t.hw.stk k.val).chans c Chan.init = Chan.init) ∧ (t.hw.die k.val).chFail = false) ∧
     (∀ v : ViaResult, v.stack = k → (v.dead.map (·.val)).Nodup → (∀ x ∈ v.dead, x.val < 68) → v.dead.length ≤ 4 →
       (s.hw.stk k.val).mst = .off → (s.hw.die k.val).unpowered = false → (s.hw.die k.val).idFail = false →
       ∃ t, exec (.stackOffExit k [v]) s = .next t ∧ SameManaged s t ∧ (t.hw.stk k.val).mst = .on ∧
         (vget (t.hw.stk k.val).chans v.chan.val Chan.init).st = (if v.dead.length ≤ 2 then .healthy else .degraded) ∧
         (vget (t.hw.stk k.val).chans v.chan.val Chan.init).eras.length = v.dead.length - 2) ∧
     (∀ vias, (s.hw.stk k.val).mst ≠ .off → exec (.stackOffExit k vias) s = .next s) ∧
     ((s.hw.stk k.val).mst = .retention →
       ∃ t, exec (.stackWakeComplete k) s = .next t ∧ SameManaged s t ∧ (t.hw.stk k.val).mst = .on ∧ (t.hw.stk k.val).mem = (s.hw.stk k.val).mem) ∧
     ((s.hw.stk k.val).mst ≠ .retention → exec (.stackWakeComplete k) s = .next s)) ∧
  (∀ (k : Fin 16) (b : Fin 67108864) (errs : List (Fin 68 × Byte)) (s : State),
     let x := s.hw.stk k.val
     let c := chanOf (64 * b.val)
     let ch := vget x.chans c Chan.init
     let err := x.errsWith b.val (symErrs errs)
     let got := if x.bad.contains b.val || x.chanFailed (64 * b.val) then none else rsDecode (x.erasOf b.val) err
     x.mst = .on → x.scrub ≠ 0 → x.mem.wf = true →
     ∃ t, exec (.patrolScrubRead k b ⟨errs, []⟩) s = .next t ∧ SameManaged s t ∧
       match got with
       | none => (t.hw.stk k.val).mem = x.mem ∧ t.hw.host.seq = s.hw.host.seq + 1 ∧ (err ≠ [] → b.val ∈ (t.hw.stk k.val).bad)
       | some fix =>
         (∀ a, 64 * b.val ≤ a → a < 64 * b.val + 64 → (t.hw.stk k.val).mem.read a =
           x.mem.read a ^^^ BitVec.ofNat 8 (alGet 0 err (a - 64 * b.val) ^^^ alGet 0 fix (a - 64 * b.val))) ∧
         (x.errs = [] → ∀ a, ¬ (64 * b.val ≤ a ∧ a < 64 * b.val + 64) → (t.hw.stk k.val).mem.read a = x.mem.read a) ∧
         (t.hw.stk k.val).bad = x.bad ∧ (t.hw.stk k.val).errsOf b.val = [] ∧
         (vget (t.hw.stk k.val).chans c Chan.init).corr = (if fix = [] then ch.corr else BitVec.ofNat 24 (satInc (2 ^ 24 - 1) ch.corr.toNat)))

/-- An agent that waits for the re-read of a burst or of a tile goes on when the re-read is good, and otherwise fails for good with its code in the
context's completion, which is pre-empted (13:R284, 05:R127).
It rests on the model's choices of logs 26, 70. -/
def Obligations.Rereads : Prop :=
  ∀ (d k : Fin 16) (b : Fin 67108864) (id : Nat) (s : State) (num : BitVec 16), (s.hw.die d.val).owner = some num →
    ((s.hw.cx d.val).stallOf (.xfer id) = .burst k.val b.val → (s.hw.stk k.val).chanFailed (64 * b.val) = false →
      ∃ t, exec (.burstReread d k b (.xfer id) true) s = .next t ∧ SameManaged s t ∧ (t.hw.cx d.val).stallOf (.xfer id) = .run ∧
        b.val ∉ (t.hw.stk k.val).bad ∧ (t.hw.stk k.val).mem = (s.hw.stk k.val).mem ∧ t.hw.host.seq = s.hw.host.seq + 1) ∧
    ((s.hw.cx d.val).stallOf (.xfer id) = .burst k.val b.val →
      ∃ t, exec (.burstReread d k b (.xfer id) false) s = .next t ∧ SameManaged s t ∧ (t.hw.cx d.val).stallOf (.xfer id) = .failed ∧
        (t.hw.stk k.val).ueBurst = BitVec.ofNat 26 b.val ∧ t.hw.host.seq = s.hw.host.seq + 1 ∧
        ((s.hw.die d.val).phase = .running → (t.hw.die d.val).phase = .draining)) ∧
    (∀ at_ addr fmt got data, (s.hw.cx d.val).stallOf (.xfer id) = .tile at_ addr fmt got →
      ∃ t, exec (.tileReread d (.xfer id) addr data) s = .next t ∧ SameManaged s t ∧ t.hw.host.seq = s.hw.host.seq + 1 ∧
        if rereadOk at_ fmt data then (t.hw.cx d.val).stallOf (.xfer id) = .passed (got ++ [⟨at_, addr, data⟩])
        else (t.hw.cx d.val).stallOf (.xfer id) = .failed ∧ ((s.hw.die d.val).phase = .running → (t.hw.die d.val).phase = .draining)) ∧
    (∀ (c : Fin 32) (addr : Nat) (data : List Byte), let x := (s.hw.cx d.val).core c.val
      s.hw.coreAtTile d.val c.val addr = true → (s.hw.die d.val).phase = .running →
      (∀ g ∈ x.guards, g.base = addr → (data.length == g.size && tileVerify g.fmt data) = false) →
      ∃ t, exec (.tileReread d (.core c) addr data) s = .next t ∧ SameManaged s t ∧
        ((t.hw.cx d.val).core c.val).split = some x.step ∧ (t.hw.die d.val).phase = .draining)

/-! ### Movement of data (14, 15) -/

/-- A granule of the transfer that its engine performs next moves what it moves, and the transfer stands before its next granule; a granule that stops
leaves the cores as they are, and at a translation fault its agent takes the lowest free fault slot and writes its fault record, or waits for a slot; an
item whose agent stands at another item's fault waits behind it. A granule that a map has put right frees its slot as it passes; one that faults again
writes its record anew in the slot that it has (14:R299-R301, 15:R311, R314).
It rests on the model's choices of logs 76, 77, 78. -/
def Obligations.DmaGranules : Prop :=
  ∀ (d : Fin 16) (id : Nat) (s : State) (x : Xfer), (s.hw.cx d.val).xfers.find? (fun t => t.id == id) = some x → s.hw.agentsRun d.val = true →
    (s.hw.engineNext d.val (x.stream.val % 8)).map (·.id) = some id →
    let g := (x.granule ⟨d.val, (s.hw.cx d.val).root, x.who d.val, x.stall.rereadsOf⟩).run { h := s.hw }
    let i := xferInfo (s.hw.cx d.val) (s.hw.die d.val).healthy x
    let stopped (st : Stall) : List Xfer := (s.hw.cx d.val).xfers.map fun y => if y.id = id then { y with stall := st } else y
    let rcd (va k l a : Nat) (f : Fin 64) : Word512 := faultRecord k a d.val i.eng f.val l va (s.hw.cx d.val).saveBase.toNat i.idx
      false false s.hw.host.seq s.hw.host.stamp.hubTime
    (x.stall.ready = true →
      (∀ r, g = .ok r → ∃ t, exec (.dmaGranule d id) s = .next t ∧ SameManaged s t ∧ (∀ k, t.hw.stk k = r.2.h.stk k) ∧
        (∀ m, (t.hw.cx m).cores = (r.2.h.cx m).cores) ∧
        (t.hw.cx d.val).xfers = (r.2.h.cx d.val).xfers.map fun y => if y.id = id then { y with
          next := if r.2.h.storeLost x then y.total else y.next + 1, stall := .run, ack := r.2.h.storeAck x } else y) ∧
      (g = .error .wait → ∃ t, exec (.dmaGranule d id) s = .next t ∧ SameManaged s t ∧
        (t.hw.cx d.val).xfers = stopped x.stall ∧ (∀ m, (t.hw.cx m).cores = (s.hw.cx m).cores) ∧ ∀ k, t.hw.stk k = s.hw.stk k) ∧
      (∀ va k l a, g = .error (.fault va k l a) → ∃ t, exec (.dmaGranule d id) s = .next t ∧ SameManaged s t ∧
        (∀ m, (t.hw.cx m).cores = (s.hw.cx m).cores) ∧
        if (s.hw.die d.val).faultAt i.idx then (t.hw.cx d.val).xfers = stopped .behind ∧ (t.hw.cx d.val).fslots = (s.hw.cx d.val).fslots
        else match (s.hw.cx d.val).freeSlot with
        | some f => (t.hw.cx d.val).fslots = (s.hw.cx d.val).fslots ++ [f] ∧ (t.hw.cx d.val).xfers = stopped (.fault va k l a (some f)) ∧
          alGet 0 (t.hw.cx d.val).frecs f.val = rcd va k l a f
        | none => (t.hw.cx d.val).waitq = (s.hw.cx d.val).waitq ++ [.xfer id] ∧ (t.hw.cx d.val).xfers = stopped (.fault va k l a none)) ∧
      (∀ st b, g = .error (.burst st b) → ∃ t, exec (.dmaGranule d id) s = .next t ∧ SameManaged s t ∧
        (t.hw.cx d.val).xfers = stopped (.burst st b) ∧ (∀ m, (t.hw.cx m).cores = (s.hw.cx m).cores) ∧ ∀ k, t.hw.stk k = s.hw.stk k) ∧
      (∀ k a f, g = .error (.tile k a f) → ∃ t, exec (.dmaGranule d id) s = .next t ∧ SameManaged s t ∧
        (t.hw.cx d.val).xfers = stopped (.tile k a f x.stall.rereadsOf) ∧ (∀ m, (t.hw.cx m).cores = (s.hw.cx m).cores) ∧
        ∀ k, t.hw.stk k = s.hw.stk k)) ∧
    (∀ va0 k0 l0 a0 f, x.stall = .retry va0 k0 l0 a0 (some f) →
      (∀ r, g = .ok r → ∃ t, exec (.dmaGranule d id) s = .next t ∧ SameManaged s t ∧ (∀ m, (t.hw.cx m).cores = (r.2.h.cx m).cores) ∧
        (t.hw.cx d.val).fslots = (r.2.h.cx d.val).fslots.erase f ∧
        (t.hw.cx d.val).xfers = (r.2.h.cx d.val).xfers.map fun y => if y.id = id then { y with
          next := if r.2.h.storeLost x then y.total else y.next + 1, stall := .run, ack := r.2.h.storeAck x } else y) ∧
      (∀ va k l a, g = .error (.fault va k l a) → ∃ t, exec (.dmaGranule d id) s = .next t ∧ SameManaged s t ∧
        (∀ m, (t.hw.cx m).cores = (s.hw.cx m).cores) ∧ (t.hw.cx d.val).fslots = (s.hw.cx d.val).fslots ∧
        (t.hw.cx d.val).xfers = stopped (.fault va k l a (some f)) ∧ alGet 0 (t.hw.cx d.val).frecs f.val = rcd va k l a f))

/-- Where a transfer ends: it leaves its engine and counts for its stream, its semaphore takes one; a stream signals its own semaphore for the next
item that has landed everywhere; a small transfer is written and signals; a freed fault slot goes to the agent that has waited longest, whose record
says so (15:R313, R318, R321, 14:R300).
It rests on the model's choices of log 76. -/
def Obligations.TransferEnds : Prop :=
  ∀ (d : Fin 16) (s : State) (num : BitVec 16), (s.hw.die d.val).owner = some num → (s.hw.die d.val).phase = .running →
    (∀ id x, (s.hw.cx d.val).xfers.find? (fun t => t.id == id) = some x → (∀ y ∈ (s.hw.cx d.val).xfers, y.dropped = false) →
      x.total ≤ x.next → s.hw.validated d.val x = true → s.hw.ackedUpTo x.ack = true → (s.hw.cx d.val).earlier x = false →
      ∃ t, exec (.dmaTransferComplete d id) s = .next t ∧ SameManaged s t ∧
        (t.hw.cx d.val).xfers = (s.hw.cx d.val).xfers.filter (fun y => y.id != id) ∧
        (∀ k st, (s.hw.cx d.val).stream? k = some st → (t.hw.cx d.val).stream? k = some (if k = x.stream.val then
          { st with landed := (if tfOnce x.rcd then s.hw.served d.val st else [x.core]).foldl bump st.landed } else st)) ∧
        ((s.hw.cx d.val).sigs = [] → ∀ k, k < 64 → (t.hw.cx d.val).sem k =
          if tfDsemen x.rcd = true ∧ k = tfDsem x.rcd then (semPlus ((s.hw.cx d.val).sem k) 1).1 else (s.hw.cx d.val).sem k)) ∧
    (∀ (k : Fin 64) st, (s.hw.cx d.val).stream? k.val = some st → st.signalled < s.hw.leastLanded d.val st →
      ∃ t, exec (.streamItemLanded d k) s = .next t ∧ SameManaged s t ∧ (t.hw.cx d.val).stream? k.val = some { st with signalled := st.signalled + 1 } ∧
        ∀ j, j < 64 → (t.hw.cx d.val).sem j =
          if stSemen st.rcd = true ∧ j = stSem st.rcd then (semPlus ((s.hw.cx d.val).sem j) 1).1 else (s.hw.cx d.val).sem j) ∧
    (∀ (k : Fin 64) st, (s.hw.cx d.val).stream? k.val = some st → s.hw.leastLanded d.val st ≤ st.signalled → exec (.streamItemLanded d k) s = .next s) ∧
    (∀ m rest h, (s.hw.cx d.val).smalls = m :: rest → (∀ y ∈ rest, y.id ≠ m.id) → m.stall = .run → m.sent = false →
      (s.hw.smallServed d.val m).length ≤ m.parts.length → Hw.smallParts d.val m m.parts s.hw = .ok h → h.ackedUpTo (h.smallAck m) = true →
      (s.hw.cx d.val).sigs = [] →
      ∃ t, exec (.smallTransferComplete d) s = .next t ∧ SameManaged s t ∧ (t.hw.cx d.val).smalls = rest ∧ (∀ k, t.hw.stk k = h.stk k) ∧
        ∀ k, k < 64 → (t.hw.cx d.val).sem k =
          if smSemen m.rcd = true ∧ k = smSem m.rcd then (semPlus ((s.hw.cx d.val).sem k) 1).1 else (s.hw.cx d.val).sem k) ∧
    (∀ a r (f : Fin 64) va k l acc, (s.hw.cx d.val).waitq = a :: r → (s.hw.cx d.val).freeSlot = some f → (s.hw.cx d.val).stallOf a = .fault va k l acc none →
      ∃ t, exec (.faultSlotAcquire d) s = .next t ∧ SameManaged s t ∧ (t.hw.cx d.val).fslots = (s.hw.cx d.val).fslots ++ [f] ∧
        (t.hw.cx d.val).waitq = r ∧ (t.hw.cx d.val).stallOf a = .fault va k l acc (some f) ∧
        ∃ e i, alGet 0 (t.hw.cx d.val).frecs f.val = faultRecord k acc d.val e f.val l va (s.hw.cx d.val).saveBase.toNat i true false
          s.hw.host.seq s.hw.host.stamp.hubTime) ∧
    ((s.hw.cx d.val).waitq = [] → exec (.faultSlotAcquire d) s = .next s)

/-- What arrives on an ordered channel lands in the core or semaphore it names, waits while a Waypoint take copies, and abandons a channel whose end here
is not open or has no context (15:R324, 03:R70, 16:R335, R336).
The multicast tree of a die, once faulted by a parity failure or by software, delivers in chain form: what is under way goes on so and is counted,
and that is reported once (15:R325).
It rests on the model's choices of log 20. -/
def Obligations.ArrivalsAndTree : Prop :=
  (∀ (l : Fin 48) (ch : Fin 64) (s : State) (k : Nat), s.hw.linkChan l.val ch.val = some k →
     let b := s.hw.chb k
     (∀ c (st : RingStore), b.opened = true → s.hw.ctx? b.ctx = some c → c.holding = false → c.arrivals = [] →
       (s.hw.die st.die.val).owner = some c.num → (s.hw.die st.die.val).phase = .running → bit (s.hw.die st.die.val).healthy st.core.val = true →
       ∃ t, exec (.ringStoreArrive l ch st) s = .next t ∧ SameManaged s t ∧
         let x := (s.hw.cx st.die.val).core st.core.val
         let r := x.landStore (16 + k) st
         (t.hw.cx st.die.val).core st.core.val = (if r.2 then r.1 else x) ∧
         (∀ n j, ¬ (n = st.die.val ∧ j = st.core.val) → (t.hw.cx n).core j = (s.hw.cx n).core j) ∧ Drained s t k ∧
         t.hw.host.seq = s.hw.host.seq + (if r.2 then 0 else 1) ∧ (r.2 = false → (t.hw.die st.die.val).phase = .draining)) ∧
     (∀ c (die : Fin 128) (sem : Fin 64) (amount : Fin 16), b.opened = true → s.hw.ctx? b.ctx = some c → c.holding = false → c.arrivals = [] →
       s.hw.resident die.val c.num = true →
       ∃ t, exec (.remoteSignalArrive l ch die sem amount) s = .next t ∧ SameManaged s t ∧
         (∀ j, j < 64 → (t.hw.cx die.val).sem j =
           if j = sem.val then (semPlus ((s.hw.cx die.val).sem j) (amount.val + 1)).1 else (s.hw.cx die.val).sem j) ∧ Drained s t k ∧
         t.hw.host.seq = s.hw.host.seq + (if (semPlus ((s.hw.cx die.val).sem sem.val) (amount.val + 1)).2 then 1 else 0)) ∧
     (∀ c (i : Instr) (a : Arrival), (∃ st, i = .ringStoreArrive l ch st ∧ a = .store st) ∨
         (∃ die sem amount, i = .remoteSignalArrive l ch die sem amount ∧ a = .signal die.val sem (amount.val + 1)) →
       b.opened = true → s.hw.ctx? b.ctx = some c → c.holding = true →
       ∃ t, exec i s = .next t ∧ SameManaged s t ∧ t.hw.ctx? b.ctx = some { c with arrivals := c.arrivals ++ [(k, a)] } ∧ t.hw.chip.dies = s.hw.chip.dies) ∧
     (∀ i, (∃ st, i = .ringStoreArrive l ch st) ∨ (∃ die sem amount, i = .remoteSignalArrive l ch die sem amount) →
       (b.opened = false ∨ s.hw.ctx? b.ctx = none) → b.abandoned = false →
       ∃ t, exec i s = .next t ∧ SameManaged s t ∧ t.hw.chb k = b.lost (s.hw.standing k) ∧ t.hw.links.notices = s.hw.links.notices ++ [k] ∧
         t.hw.host.seq = s.hw.host.seq + 1 + BitVec.ofNat 64 b.owed.length ∧ t.hw.chip = s.hw.chip)) ∧
  (∀ (d : Fin 16) (s : State) (i : Instr), i = .mcastTreeFault d ∨ i = .mcastForceChain d →
     let tree (x : Xfer) : Bool := (tfDkind x.rcd == 2 || tfDkind x.rcd == 4) && decide (x.next < x.total)
     let host (e : HostX) : Bool := e.die == d && tree e.x
     ((s.hw.die d.val).mcFault = false → ∃ t, exec i s = .next t ∧ SameManaged s t ∧ t.hw.host.seq = s.hw.host.seq + 1 ∧
       t.hw.die d.val = { s.hw.die d.val with
         mcFault := true
         mcChained := BitVec.ofNat 24 (min (2 ^ 24 - 1) ((s.hw.die d.val).mcChained.toNat + ((s.hw.cx d.val).xfers.filter tree).length +
           (s.hw.chip.hostX.filter host).length))
         cx := { s.hw.cx d.val with xfers := (s.hw.cx d.val).xfers.map fun x => if tree x then { x with chained := true } else x } } ∧
       t.hw.chip.hostX = (s.hw.chip.hostX.map fun e => if host e then { e with x := { e.x with chained := true } } else e) ∧
       (∀ n, n ≠ d.val → t.hw.die n = s.hw.die n) ∧ t.hw.chip.stk = s.hw.chip.stk) ∧
     ((s.hw.die d.val).mcFault = true → exec i s = .next s))

/-! ### Links (16) -/

/-- Hop retry: a flit that fails its code or CRC, or is out of sequence, is discarded with one NAK, which asks for what follows the last flit accepted, until
the next flit is accepted; an accepted flit moves the sequence and is acknowledged at once, and an ordered one takes a receive buffer of its channel; an idle
flit brings credits and acknowledgements, which count for the channels of the flits that they name; a NAK has everything after it replayed, and the ninth
replay or a hop timeout puts the link into recovery (16:R332, R333, R336, R344).
It rests on the model's choices of logs 8, 9, 22, 72. -/
def Obligations.HopRetry : Prop :=
  ∀ (l : Fin 48) (s : State),
    let p := s.hw.port l.val
    (∀ f ok, p.st = .up → (ok = false ∨ flCrc f ≠ flitCrc f) →
      ∃ t, exec (.flitReceive l f ok) s = .next t ∧ SameManaged s t ∧ PortBecomes s t l.val p.discarded ∧
        t.hw.links.delivered = s.hw.links.delivered ∧ t.hw.host = s.hw.host) ∧
    (∀ f ok, p.st = .up → flSound f ok → flClass f ≠ 4 → flSeq f ≠ p.rxNext → flAckv f = false →
      ∃ t, exec (.flitReceive l f ok) s = .next t ∧ SameManaged s t ∧ PortBecomes s t l.val p.discarded ∧
        t.hw.links.delivered = s.hw.links.delivered ∧ t.hw.host = s.hw.host) ∧
    (p.nakSent = false → ∃ f, p.discarded.idle = some f ∧ flNak f = true ∧ flAckseq f = p.rxNext - 1) ∧
    (∀ f ok, p.st = .up → s.power.standby = false → flSound f ok → flClass f = 3 → flSeq f = p.rxNext → flAckv f = false →
      ∃ t, exec (.flitReceive l f ok) s = .next t ∧ SameManaged s t ∧ PortBecomes s t l.val (p.accepted f) ∧
        t.hw.links.delivered = s.hw.links.delivered ++ [f]) ∧
    (∀ f ok k, p.st = .up → s.hw.links.spare = false → flSound f ok → flClass f = 0 → flSeq f = p.rxNext → flAckv f = false →
      s.hw.linkChan l.val (flChan f) = some k → (s.hw.chb k).opened = true →
      ∃ t, exec (.flitReceive l f ok) s = .next t ∧ SameManaged s t ∧ PortBecomes s t l.val ((p.accepted f).taken (flChan f)) ∧
        t.hw.links.delivered = s.hw.links.delivered ∧ t.hw.host = s.hw.host) ∧
    (∀ f ok, p.st = .up → flSound f ok → flClass f = 4 →
      (flAckv f = false → ∃ t, exec (.flitReceive l f ok) s = .next t ∧ SameManaged s t ∧ PortBecomes s t l.val (p.credited (flCredit f)) ∧
        t.hw.host = s.hw.host) ∧
      (∀ g r, flAckv f = true → p.replay = g :: r → (flAckseq f - flSeq g).toNat ≤ r.length →
        let gone := p.replay.take ((flAckseq f - flSeq g).toNat + 1)
        ∃ t, exec (.flitReceive l f ok) s = .next t ∧ SameManaged s t ∧ PortBecomes s t l.val ((p.acked (flAckseq f)).credited (flCredit f)) ∧
          t.hw.host = s.hw.host ∧ ∀ k, k < 128 → (s.hw.chb k).stale = 0 → (t.hw.chb k).acked = (s.hw.chb k).acked +
            (if p.dirNow.toNat = k / 64 then (gone.filter fun x => flClass x == 0 && flChan x == k % 64).length else 0))) ∧
    (∀ f ok, p.st ≠ .up → p.st ≠ .identity → p.st ≠ .miswired → p.st ≠ .sleep → exec (.flitReceive l f ok) s = .next s) ∧
    (∀ ack g r, p.st = .up → p.waiting = [] → p.replay = g :: r → (ack - flSeq g).toNat < r.length → p.reps.length = p.replay.length →
      let left := p.replay.drop ((ack - flSeq g).toNat + 1)
      let reps := p.reps.drop ((ack - flSeq g).toNat + 1)
      ∃ t, exec (.nakReceive l ack) s = .next t ∧ SameManaged s t ∧ PortBecomes s t l.val
        (let q := { p with replay := left, reps := reps.map (· + 1), retry := BitVec.ofNat 32 (min (2 ^ 32 - 1) (p.retry.toNat + left.length)) }
        if ∃ n ∈ reps, 8 ≤ n then { q with st := .recovering, suspect := none, quiet := false } else q) ∧ t.hw.host = s.hw.host) ∧
    (p.st = .up → p.replay ≠ [] →
      ∃ t, exec (.hopTimeout l) s = .next t ∧ SameManaged s t ∧ PortBecomes s t l.val { p with st := .recovering, suspect := none, quiet := false } ∧
        t.hw.host.seq = s.hw.host.seq + 1) ∧
    (p.st ≠ .up ∨ p.replay = [] → exec (.hopTimeout l) s = .next s)

/-- The way of a port to Up: a signal or a retry starts training with the configured direction; at least four lanes lead to Identity, with the one bad
lane spared; fewer fail; the neighbour's identity makes the port Up with a fresh sequence, or Miswired with the first failed check (16:R342, R343).
It rests on the model's choices of logs 8, 62. -/
def Obligations.LinkTraining : Prop :=
  ∀ (l : Fin 48) (s : State),
    let p := s.hw.port l.val
    let started : Port := { p with
      dirNow := p.dir, mwreason := 0, nakSent := false
      st := if s.hw.host.handover then .down else if p.dir = 0xF then .disabled else .training }
    (p.locked = false → bit s.power.ldon (l.val / 16) = true → p.st = .down ∨ p.st = .failed ∨ p.st = .miswired →
      ∃ t, exec (.linkSignalFound l) s = .next t ∧ SameManaged s t ∧ PortBecomes s t l.val started ∧ t.hw.host = s.hw.host) ∧
    (p.locked = false → p.st = .failed ∨ p.st = .miswired →
      ∃ t, exec (.linkTrainingRetry l) s = .next t ∧ SameManaged s t ∧ PortBecomes s t l.val started ∧ t.hw.host = s.hw.host) ∧
    (p.st = .down → exec (.linkTrainingRetry l) s = .next s) ∧
    (∀ good shorted : BitVec 5, p.st = .training → 4 ≤ popCount (good &&& ~~~shorted).toNat 5 →
      ∃ t, exec (.linkTrainingDone l good shorted) s = .next t ∧ SameManaged s t ∧ t.hw.chip = s.hw.chip ∧
        ∃ k, PortBecomes s t l.val { p with st := .identity, laneok := good &&& ~~~shorted, shorted := shorted, spared := k } ∧
          (∀ j, j < 4 → bit (good &&& ~~~shorted) j = false → k = BitVec.ofNat 3 j) ∧
          ((∀ j, j < 4 → bit (good &&& ~~~shorted) j = true) → k = 7) ∧
          t.hw.host.seq = s.hw.host.seq + (if shorted = 0 then 0 else 1) + (if k = 7 then 0 else 1)) ∧
    (∀ good shorted : BitVec 5, p.st = .training → popCount (good &&& ~~~shorted).toNat 5 < 4 → good ≠ 0 → p.resets = [] →
      ∃ t, exec (.linkTrainingDone l good shorted) s = .next t ∧ SameManaged s t ∧ PortBecomes s t l.val
        { p with st := .failed, laneok := good &&& ~~~shorted, shorted := shorted, spared := 7, leftSince := true }) ∧
    (p.st = .training → bit s.power.mod.cpres (l.val / 4) = false →
      ∃ t, exec (.linkTrainingDone l 0 0) s = .next t ∧ SameManaged s t ∧ PortBecomes s t l.val
        { p with st := .down, laneok := 0, shorted := 0, spared := 7, leftSince := true }) ∧
    (p.st ≠ .training → ∀ good shorted, exec (.linkTrainingDone l good shorted) s = .next s) ∧
    (∀ id : Identity, p.st = .identity → p.resets = [] → s.hw.links.bulkHeld = [] → p.waiting = [] →
      let named : Port := if id.ok then { p with
        nbrValid := true, ndir := id.dir, nspare := id.spare, nlink := id.link, npos := id.lpos, nphysid := id.physid } else p
      let r := s.hw.links.identityReason l.val id
      (id.ok = true → s.hw.links.idValid = false ∨ id.idValid = false →
        ∃ t, exec (.linkIdentityReceived l id) s = .next t ∧ SameManaged s t ∧ PortBecomes s t l.val named ∧ t.hw.host = s.hw.host) ∧
      (id.ok = false ∨ (s.hw.links.idValid = true ∧ id.idValid = true) → r = 0 →
        ∃ t, exec (.linkIdentityReceived l id) s = .next t ∧ SameManaged s t ∧ PortBecomes s t l.val
          { named with
            st := .up, txSeq := 0, rxNext := 0, replay := [], reps := [], nakSent := false, used := [], rxHeld := [], due := [], leftSince := true }) ∧
      (id.ok = false ∨ (s.hw.links.idValid = true ∧ id.idValid = true) → r ≠ 0 →
        ∃ t, exec (.linkIdentityReceived l id) s = .next t ∧ SameManaged s t ∧ PortBecomes s t l.val
          { named with st := .miswired, mwreason := BitVec.ofNat 4 r, leftSince := true } ∧ t.hw.host.seq = s.hw.host.seq + 1))

/-- Faults in service: a lane over its bound puts the link into recovery; the lane test leads back to Up, with one bad lane replaced by a free spare, or to
Failed; the last link of a ring direction takes its open channels with it; bulk flits held too long are dropped (16:R338, R342, R344, R345, 21:R446).
It rests on the model's choices of log 62. -/
def Obligations.LinkFaults : Prop :=
  ∀ (l : Fin 48) (s : State),
    let p := s.hw.port l.val
    let again (q : Port) : Port := { q with
      st := .up, suspect := none, reps := q.reps.map (fun _ => 0), nakSent := false
      retry := BitVec.ofNat 32 (min (2 ^ 32 - 1) (q.retry.toNat + q.replay.length)) }
    let bad (good : BitVec 5) : List Nat := p.active.filter fun k => !bit good k || (p.spared == 7 && bit good 4 && p.suspect.map (·.val) == some k)
    (∀ lane count, p.st = .up → 2 ^ (p.lanethr.toNat + 10) < count →
      ∃ t, exec (.laneErrorThreshold l lane count) s = .next t ∧ SameManaged s t ∧
        PortBecomes s t l.val { p with st := .recovering, suspect := some lane, quiet := false }) ∧
    (∀ lane count, count ≤ 2 ^ (p.lanethr.toNat + 10) → exec (.laneErrorThreshold l lane count) s = .next s) ∧
    (∀ good, p.st = .recovering → s.hw.linksCalm → p.waiting = [] → bad good = [] →
      ∃ t, exec (.linkRecoveryTest l good) s = .next t ∧ SameManaged s t ∧ PortBecomes s t l.val (again { p with laneok := good }) ∧ t.hw.host = s.hw.host) ∧
    (∀ good k, p.st = .recovering → s.hw.linksCalm → p.waiting = [] → bad good = [k] → p.spared = 7 → bit good 4 = true →
      ∃ t, exec (.linkRecoveryTest l good) s = .next t ∧ SameManaged s t ∧
        PortBecomes s t l.val (again { p with laneok := good, spared := BitVec.ofNat 3 k }) ∧ t.hw.host.seq = s.hw.host.seq + 1) ∧
    (∀ good, p.st = .recovering → s.hw.linksCalm → p.waiting = [] → p.replay = [] → bad good ≠ [] → (p.spared ≠ 7 ∨ bit good 4 = false ∨ 2 ≤ (bad good).length) →
      ((∃ m, m < 48 ∧ m ≠ l.val ∧ (s.hw.port m).dirNow = p.dirNow ∧ (s.hw.port m).st = .recovering) ∨ 8 ≤ p.dirNow.toNat →
        ∃ t, exec (.linkRecoveryTest l good) s = .next t ∧ SameManaged s t ∧ PortBecomes s t l.val
          { p with
            laneok := good, st := .failed, reps := [], nakSent := false, suspect := none, quiet := false, used := [], rxHeld := [], due := [] } ∧ t.hw.host.seq = s.hw.host.seq + 1) ∧
      (p.dirNow.toNat < 2 → (∀ m, m < 48 → m ≠ l.val → (s.hw.port m).dirNow ≠ p.dirNow) →
        ∃ t, exec (.linkRecoveryTest l good) s = .next t ∧ SameManaged s t ∧ (t.hw.port l.val).st = .failed ∧
          ∀ c, c < 64 → let k := chIndex p.dirNow.toNat c
            t.hw.chb k = if (s.hw.chb k).opened = true ∧ (s.hw.chb k).abandoned = false then (s.hw.chb k).lost 0 else s.hw.chb k)) ∧
    (p.st ≠ .recovering → ∀ good, exec (.linkRecoveryTest l good) s = .next s)

/-- Ordered channels and held traffic: binding a channel opens it unless it is abandoned, clearing the bit leaves it closed, a far end's notice abandons it
here; bulk flits that waited 100 ms for a direction are dropped, and a spare takeover ends (16:R335, R336, R345, 21:R446).
It rests on the model's choices of logs 14, 62, 72. -/
def Obligations.Channels : Prop :=
  ∀ (k : Fin 128) (s : State),
    let b := s.hw.chb k.val
    (∀ v : BitVec 32, ∃ t, exec (.channelBind k v) s = .next t ∧ SameManaged s t ∧ t.hw.chip = s.hw.chip ∧ t.hw.host = s.hw.host ∧
      t.hw.chb k.val =
        { b with bound := true, opened := !b.abandoned, abandoned := b.abandoned && !bit v 30, ctx := BitVec.ofNat 16 (fld v 23 8) } ∧
      ∀ j, j < 128 → j ≠ k.val → t.hw.chb j = s.hw.chb j) ∧
    (∃ t, exec (.channelAbandonClear k) s = .next t ∧ SameManaged s t ∧ t.hw.chip = s.hw.chip ∧ t.hw.host = s.hw.host ∧
      t.hw.chb k.val = { b with abandoned := false } ∧ ∀ j, j < 128 → j ≠ k.val → t.hw.chb j = s.hw.chb j) ∧
    (b.abandoned = false → ∃ t, exec (.channelAbandonNotice k) s = .next t ∧ SameManaged s t ∧ t.hw.chip = s.hw.chip ∧
      t.hw.chb k.val = b.lost (s.hw.standing k.val) ∧ (∀ j, j < 128 → j ≠ k.val → t.hw.chb j = s.hw.chb j) ∧
      t.hw.links.notices = s.hw.links.notices ∧ t.hw.host.seq = s.hw.host.seq + 1 + BitVec.ofNat 64 b.owed.length) ∧
    (b.abandoned = true → exec (.channelAbandonNotice k) s = .next s) ∧
    (∀ dir : Fin 16, let gone (e : Nat × Flit) : Bool := e.1 == dir.val && flClass e.2 == 2
      (s.hw.links.bulkHeld.any gone = true → ∃ t, exec (.bulkHoldExpire dir) s = .next t ∧ SameManaged s t ∧ t.hw.chip = s.hw.chip ∧
        t.hw.links = { s.hw.links with bulkHeld := s.hw.links.bulkHeld.filter fun e => !gone e } ∧ t.hw.host.seq = s.hw.host.seq + 1) ∧
      (s.hw.links.bulkHeld.any gone = false → exec (.bulkHoldExpire dir) s = .next s)) ∧
    (∃ t, exec .spareTakeoverEnd s = .next t ∧ SameManaged s t ∧ t.hw.links = { s.hw.links with takeover := false } ∧ t.hw.chip = s.hw.chip ∧
      t.hw.host = s.hw.host)

/-! ### Gather-and-merge and parameter update (11, 12) -/

/-- The job at the head of a GME queue, known and not refused: it takes its slots as they stand; a product sets its window and deals its rounds, in turn to
its cores, the last of each core marked; a banked drain that has written every tile zeroes the window; a scatter-add that has taken every entry, and a hash
drain that has gone through every entry, leave their queue. A refused job says so and changes neither accumulator (06:R136, 11:R235-R237, R245, R246, R249).
It rests on the model's choices of logs 31, 35, 79. -/
def Obligations.GmeJobs : Prop :=
  ∀ (d : Fin 16) (cl : Fin 4) (s : State) (j : GJob), s.hw.agentsRun d.val = true → j.known = true → j.foreign = false → j.started = false → j.dealt = false →
    j.stall = .run →
    let g := s.hw.gme d.val cl.val
    let j1 : GJob := { (s.hw.cx d.val).jobSlots j with started := true }
    let h1 := s.hw.updJob d.val cl.val j.id fun _ => j1
    let hd := s.hw.updJob d.val cl.val j.id fun _ => { j1 with dealt := true }
    (g.bjobs = [j] → gjOp j.rcd = 1 → (∀ k ∈ g.hjobs, k.id ≠ j.id) → s.hw.gjReason d.val cl.val j1 = 0 → ∀ rounds x,
      (productRounds (h1.gmeEnv d.val cl.val j1) cl.val j1).run { h := h1 } = .ok (rounds, x) →
      ∃ t, exec (.gmeProductJob d cl) s = .next t ∧ SameManaged s t ∧ t.hw.gme d.val cl.val = { g with
        bjobs := [{ j1 with dealt := true, todo := rounds }], win := some (gjWindow j.rcd), contrib := BitVec.ofNat 9 (g.contrib.toNat + gjSlices j1) }) ∧
    (∀ (cores : List Nat) (cuts : List (Nat × Nat × List Nat)), cores ≠ [] →
      let a := cores.length
      let per := max 1 ((cuts.length + a - 1) / a)
      (dealRounds j cores cuts).length = per * a ∧ ∀ i, i < per * a → ∃ r, (dealRounds j cores cuts)[i]? = some r ∧ r.core = cores.getD (i % a) 0 ∧
        (r.last = true ↔ i / a + 1 = per) ∧ r.strips = (cuts.getD i (0, 0, [])).2.2 ∧ r.job = j.id) ∧
    (g.bjobs = [j] → gjOp j.rcd = 1 → ∀ r, s.hw.gjReason d.val cl.val j1 = r → r ≠ 0 → r < 8 →
      ∃ t, exec (.gmeProductJob d cl) s = .next t ∧ SameManaged s t ∧ (t.hw.gme d.val cl.val).lastref = BitVec.ofNat 8 r ∧
        (t.hw.gme d.val cl.val).elems = g.elems ∧ (t.hw.gme d.val cl.val).win = g.win ∧ ∀ k, t.hw.stk k = s.hw.stk k) ∧
    (g.bjobs = [j] → gjOp j.rcd = 2 → g.back = [] → g.adding = [] → g.badElems = [] → s.hw.gjReason d.val cl.val j1 = 0 →
      (g.win = none → ∃ t, exec (.gmeBankedDrain d cl) s = .next t ∧ SameManaged s t ∧ (t.hw.gme d.val cl.val).bjobs = [] ∧
        (t.hw.gme d.val cl.val).elems = [] ∧ ∀ k, t.hw.stk k = s.hw.stk k) ∧
      (∀ w, g.win = some w → let h2 := Hw.drainFrom d.val cl.val j.id w (winTiles w) h1
        (∃ k, (h2.gme d.val cl.val).bjobs = [k] ∧ k.id = j.id ∧ winTiles w ≤ k.next) →
        ∃ t, exec (.gmeBankedDrain d cl) s = .next t ∧ SameManaged s t ∧ (t.hw.gme d.val cl.val).bjobs = [] ∧ (t.hw.gme d.val cl.val).win = none ∧
          (t.hw.gme d.val cl.val).elems = [] ∧ (t.hw.gme d.val cl.val).contrib = 0 ∧ ∀ k, t.hw.stk k = h2.stk k)) ∧
    (g.hjobs = [j] → gjOp j.rcd = 3 → (∀ k ∈ g.bjobs, k.known = true) → gjInit j.rcd = false → s.hw.gjReason d.val cl.val j1 = 0 →
      let h2 := Hw.scatterFrom d.val cl.val j.id (dsSize j1.slotA 0) hd
      (∃ k, (h2.gme d.val cl.val).hjobs = [k] ∧ k.id = j.id ∧ dsSize j1.slotA 0 ≤ k.next) →
      ∃ t, exec (.gmeRowScatterAdd d cl) s = .next t ∧ SameManaged s t ∧ (t.hw.gme d.val cl.val).hjobs = [] ∧
        (t.hw.gme d.val cl.val).hash = (h2.gme d.val cl.val).hash ∧ (t.hw.gme d.val cl.val).elems = (h2.gme d.val cl.val).elems ∧
        ∀ k, t.hw.stk k = h2.stk k) ∧
    (g.hjobs = [j] → gjOp j.rcd = 4 → (∀ k ∈ g.bjobs, k.known = true) → s.hw.gjReason d.val cl.val j1 = 0 →
      let h2 := Hw.hashDrainFrom d.val cl.val j.id (g.drainTotal - j.next) h1
      ∀ k x, (h2.gme d.val cl.val).hjobs = [k] → k.id = j.id → k.stall = .run → g.drainTotal ≤ k.next → h2.agentsRun d.val = true →
      (hashEmpty (h2.gmeEnv d.val cl.val k) d.val cl.val).run { h := h2 } = .ok ((), x) →
      ∃ t, exec (.gmeHashDrain d cl) s = .next t ∧ SameManaged s t ∧ (t.hw.gme d.val cl.val).hjobs = [] ∧ (t.hw.gme d.val cl.val).hash = [] ∧
        (t.hw.gme d.val cl.val).spilled = [] ∧ (t.hw.gme d.val cl.val).ovBase = (x.h.gme d.val cl.val).ovBase ∧ ∀ k, t.hw.stk k = x.h.stk k)

/-- Rounds and rows of the GME: a round goes into the free slot of its core, an empty one as zeros; a hand-back gives its partial rows to the banks of
the window, and the last of a job ends it; a segment whose bank already queues one for the same place is merged into it, and a head entry that retires is
added into its bank; a row is added to its resident entry, or takes the lowest free way of its bucket (11:R238, R239, R241-R243, R247).
It rests on the model's choices of logs 35, 80. -/
def Obligations.GmeRounds : Prop :=
  (∀ (d : Fin 16) (c : Fin 32) (s : State) (j : GJob) (r : Round) (st : StreamSt), s.hw.agentsRun d.val = true → j.known = true → j.stall = .run →
    let cl := c.val / 8
    let g := s.hw.gme d.val cl
    let q := if gjQ j.rcd = 0 then st.q.getD 1 else gjQ j.rcd
    let base := 64 * stSpbase st.rcd + alGet 0 st.landed c.val % stDepth st.rcd * roundPitch (st.q.getD 1)
    let put (k : Core) (x : Nat × List Byte) : Core := k.extLocal (base + x.1) (x.2.take (2 ^ 22 - (base + x.1))) d.val
    g.bjobs = [j] → g.extra.find? (fun r => r.core == c.val) = none → j.todo.find? (fun r => r.core == c.val) = some r →
      (s.hw.cx d.val).stream? j.stream.val = some st → g.occupied j.stream.val c.val < stDepth st.rcd →
      (∀ p x, (roundPieces (s.hw.gmeEnv d.val cl j) j q r).run { h := s.hw } = .ok (p, x) →
        ∃ t, exec (.gmeRoundDeliver d c) s = .next t ∧ SameManaged s t ∧ (t.hw.cx d.val).core c.val = p.foldl put ((s.hw.cx d.val).core c.val) ∧
          (t.hw.gme d.val cl).rounds = g.rounds ++ [r] ∧ (t.hw.gme d.val cl).bjobs = [{ j with todo := j.todo.erase r }] ∧
          (t.hw.cx d.val).stream? j.stream.val = some { st with landed := bump st.landed c.val }) ∧
      (r.strips = [] → (roundPieces (s.hw.gmeEnv d.val cl j) j q r).run { h := s.hw } =
        .ok ([(0, roundHeader r), (0x400, List.replicate 8192 0), (0x2800, List.replicate (1024 * q) 0)], { h := s.hw }))) ∧
  (∀ (d : Fin 16) (c : Fin 32) (s : State) (j : GJob) (b : Back) (w : GWin) (x : Nat), s.hw.agentsRun d.val = true →
    let cl := c.val / 8
    let g := s.hw.gme d.val cl
    let key (i l : Nat) : Nat := winKey w (16 * (x - w.r0) + i) (128 * b.round.cgroup + l)
    g.back = [b] → b.round.core = c.val → b.round.strips = [x] → b.row = 0 → g.win = some w → gjShapeOk w.rb = true → gjShapeOk w.cb = true →
      w.rb * w.cb ≤ 256 →
      w.r0 ≤ x → x < w.r0 + w.rb → 8 * b.round.cgroup < w.cb → g.adding = [] → (∀ k, k < 32 → vget g.queues k [] = [] ∧ vget g.waits k [] = []) →
      g.badElems = [] → smWf (0 : Word64) none g.elems = true → g.bjobs = [j] → j.id = b.round.job → (∀ k ∈ g.hjobs, k.id ≠ j.id) →
      ∃ t, exec (.gmeRoundHandback d c) s = .next t ∧ SameManaged s t ∧ (t.hw.gme d.val cl).back = [] ∧
        (∀ i l, i < 16 → l < 128 → smGet (0 : Word64) (t.hw.gme d.val cl).elems (key i l) =
          winSum (smGet (0 : Word64) g.elems (key i l)) (winEncode w.e (leAt b.data (512 * i + 4 * l) 4)).1) ∧
        (∀ k, (∀ i l, i < 16 → l < 128 → key i l ≠ k) → smGet (0 : Word64) (t.hw.gme d.val cl).elems k = smGet (0 : Word64) g.elems k) ∧
        (b.round.last = true → (∀ y ∈ gjCores cl j.rcd, y = c.val ∨ y ∈ j.lastw) → (t.hw.gme d.val cl).bjobs = []) ∧
        (b.round.last = false → (t.hw.gme d.val cl).bjobs = [j])) ∧
  (∀ (d : Fin 16) (c : Fin 32) (s : State), (s.hw.gme d.val (c.val / 8)).back.find? (fun b => b.round.core == c.val) = none →
    (s.hw.gme d.val (c.val / 8)).adding = [] → exec (.gmeRoundHandback d c) s = .next s) ∧
  (∀ (k : Nat) (q : List Seg) (e y : Seg), q.find? (fun x => x.pos == y.pos) = some e → y.bad = [] → e.bad = [] →
    absorb (k + 1) q [y] 0 false = (q.map fun x => if x.pos = y.pos then x.merge y else x, k, [], 1, false) ∧
    (e.merge y).pos = e.pos ∧ ∀ i, i < 16 → (e.merge y).vals.getD i 0 = winSum (e.vals.getD i 0) (y.vals.getD i 0)) ∧
  (∀ (ops : Nat) (q : List Seg) (y : Seg), q.find? (fun x => x.pos == y.pos) = none →
    absorb ops q [y] 0 false = if q.length < 16 then (q ++ [y], ops, [], 0, false) else (q, ops, [y], 0, false)) ∧
  (∀ (g : Gme) (b : Nat) (y : Seg), g.badElems = [] → y.bad = [] → y.pos < 128 → smWf (0 : Word64) none g.elems = true →
    ∀ k, smGet (0 : Word64) (g.retire b y).1.elems k =
      if k / 16 = 128 * b + y.pos then winSum (smGet (0 : Word64) g.elems k) (y.vals.getD (k % 16) 0) else smGet (0 : Word64) g.elems k) ∧
  (∀ (e : GEnv) (n cl key : Nat) (val : List Nat) (h : Hw), n < 16 → cl < 4 →
    let g := h.gme n cl
    (∀ x, g.hash.find? (fun x => x.key == key) = some x → g.badHash = [] →
      ∃ r, (hashUpdate e n cl key val).run { h := h } = .ok ((), r) ∧
        (r.h.gme n cl).hash = g.hash.map fun y => if y.key = key then { y with val := addVals x.val val } else y) ∧
    (g.hash.find? (fun x => x.key == key) = none → hashBucket key ∉ g.spilled → g.hash.length < 7168 →
      ∀ way, (List.range 8).find? (fun k => !((g.hash.filter fun x => x.place / 8 == hashBucket key).map fun x => x.place % 8).contains k) = some way →
        ∃ r, (hashUpdate e n cl key val).run { h := h } = .ok ((), r) ∧ (r.h.gme n cl).hash = g.hash ++ [⟨8 * hashBucket key + way, key, val⟩]))

/-- The command at the head of a PUU, its record read: an update that is not refused, held or out of tag keeps the slots of its start and runs its granules; one that is changes no memory;
a coefficient load takes each record that it accepts; a release clears its hold (12:R258, R262, R263, R266, R267).
It rests on the model's choices of log 35. -/
def Obligations.PuuCommands : Prop :=
  (∀ (d : Fin 16) (cl : Fin 4) (s : State) (c0 c : PCmd) (w : Word512) (h0 : Hw) (rest : List PCmd), (s.hw.puu d.val cl.val).queue = c0 :: rest →
    (∀ k ∈ rest, k.id ≠ c0.id) → s.hw.puuHead d.val cl.val = (some (c, w), h0) → c.stall = .run →
    (puOp w = 1 → c.begun = false → h0.puuReason d.val cl.val w = 0 → puPslot w ∈ (s.hw.cx d.val).holds →
      ∃ t, exec (.puuUpdate d cl) s = .next t ∧ SameManaged s t ∧ (t.hw.puu d.val cl.val).queue = rest ∧ (∀ k, (t.hw.stk k).mem = (h0.stk k).mem) ∧
        (t.hw.cx d.val).holds = (s.hw.cx d.val).holds) ∧
    (∀ c1 ha, puOp w = 1 → h0.updateBegin d.val cl.val c w = (some c1, ha) → c1.tagged = false → puTagchk w = true → ∀ b h1,
      ha.vaRead d.val (puTagaddr w) 8 (puuWho d.val cl.val) = .ok (b, h1) → ¬ ((leNat b).testBit 63 = true ∧ leNat b % 2 ^ 32 = puTag w) →
        ∃ t, exec (.puuUpdate d cl) s = .next t ∧ SameManaged s t ∧ (t.hw.puu d.val cl.val).queue = rest ∧ (∀ k, (t.hw.stk k).mem = (h1.stk k).mem) ∧
          (t.hw.cx d.val).holds = puPslot w :: (s.hw.cx d.val).holds ∧ (t.hw.cx d.val).lastHeld = BitVec.ofNat 12 (puPslot w)) ∧
    (∀ c1 ha c2 h1, puOp w = 1 → h0.updateBegin d.val cl.val c w = (some c1, ha) → ha.updateTag d.val cl.val c1 w = (some c2, h1) →
      (h1.puu d.val cl.val).badTables = [] →
      let t1 := (h1.puu d.val cl.val).tableOf (puTable w)
      let total := (puuGrid c2.pD).1 * (puuGrid c2.pD).2
      let h2 := Hw.updateFrom d.val cl.val c2.id t1 w (puuOnce t1 w) (total - c2.next) h1
      (∃ k, (h2.puu d.val cl.val).queue = k :: rest ∧ k.id = c2.id ∧ total ≤ k.next) →
      ∃ t, exec (.puuUpdate d cl) s = .next t ∧ SameManaged s t ∧ (t.hw.puu d.val cl.val).queue = rest ∧ (∀ k, t.hw.stk k = h2.stk k) ∧
        (t.hw.puu d.val cl.val).done = (h2.puu d.val cl.val).done) ∧
    (puOp w = 1 → c.begun = false → h0.puuReason d.val cl.val w = 0 → puPslot w ∉ (s.hw.cx d.val).holds →
      ∃ c1 ha, h0.updateBegin d.val cl.val c w = (some c1, ha) ∧ c1.pD = (h0.cx d.val).slot (puPslot w) ∧ c1.gD = (h0.cx d.val).slot (puGslot w) ∧
        (ha.puu d.val cl.val).done = 0) ∧
    (∀ b h1, puOp w = 2 → c.next = 0 → puNtab w = 1 → h0.puuReason d.val cl.val w = 0 →
      (h0.puuDone0 d.val cl.val).vaRead d.val (puTagaddr w) 64 (puuWho d.val cl.val) = .ok (b, h1) →
      let x : Word512 := BitVec.ofNat 512 (leNat b)
      ∃ t, exec (.puuCoefLoad d cl) s = .next t ∧ SameManaged s t ∧ (t.hw.puu d.val cl.val).queue = rest ∧ (∀ k, t.hw.stk k = h1.stk k) ∧
        (t.hw.puu d.val cl.val).tables = if tableReason x = 0 then alPut (s.hw.puu d.val cl.val).tables (puTable w) x else (s.hw.puu d.val cl.val).tables) ∧
    (∀ h2, puOp w = 2 → c.next = 0 → h0.puuReason d.val cl.val w = 0 →
      h2 = Hw.coefFrom d.val cl.val c.id w (puNtab w) (h0.puuDone0 d.val cl.val) →
      (∃ k, (h2.puu d.val cl.val).queue = k :: rest ∧ k.id = c.id ∧ puNtab w ≤ k.next) →
      ∃ t, exec (.puuCoefLoad d cl) s = .next t ∧ SameManaged s t ∧ (t.hw.puu d.val cl.val).queue = rest ∧
        (t.hw.puu d.val cl.val).tables = (h2.puu d.val cl.val).tables) ∧
    (puOp w = 3 → h0.puuReason d.val cl.val w = 0 →
      ∃ t, exec (.puuReleaseHold d cl) s = .next t ∧ SameManaged s t ∧ (t.hw.puu d.val cl.val).queue = rest ∧ (∀ k, t.hw.stk k = h0.stk k) ∧
        (t.hw.cx d.val).holds = if puTagchk w then [] else (s.hw.cx d.val).holds.filter (· != puPslot w)) ∧
    (puOp w = 1 → c.begun = false → ∀ r, h0.puuReason d.val cl.val w = r → r ≠ 0 →
      ∃ t, exec (.puuUpdate d cl) s = .next t ∧ SameManaged s t ∧ (t.hw.puu d.val cl.val).queue = rest ∧ (∀ k, t.hw.stk k = h0.stk k) ∧
        (t.hw.puu d.val cl.val).lastref = BitVec.ofNat 8 r)) ∧
  (∀ (t w : Word512) (k : PuuK) (p m v g : Nat), isZero32 (ctField t 5) = true → isZero32 (ctField t 7) = true → isZero32 (ctField t 6) = false →
    ctClip t = false → puuStep t w k p m v g = (ffma (fneg (puEta w)) (ffma (ctField t 6) (fmul g (puGscale w)) 0) (fmul p k.k), m, v))

/-! ### Reductions (17) -/

/-- An issue takes 1 from every contributing die's ISEM and waits behind the earlier issues of its channel; alone, and with no other module, it takes its slots
and converts its own sources; once its sums are there it writes destination and tag, then signals CSEM; an abort, received or for want of a path, signals CSEM
too (06:R136, 17:R358, R361, R365-R367).
It rests on the model's choices of logs 23, 36, 85, 87, 100. -/
def Obligations.ReductionIssues : Prop :=
  ∀ (g : Fin 256) (s : State) (c : Ctx), s.hw.fleetAlive → s.hw.redCtx g.val = some c →
    let x := (s.hw.group g.val).rcd
    let ds := grDies x c
    let ch := s.hw.redChan g.val
    let k := (s.hw.group g.val).issued
    let slots (at_ : Nat) : List Word512 := ds.map fun n => (s.hw.partOf c.num n).slot at_
    let taken (t : State) : Prop := ∀ n, n < 16 → ∀ j, j < 64 → (t.hw.cx n).sem j =
      if n ∈ ds ∧ j = grIsem x then (s.hw.cx n).sem j - 1 else (s.hw.cx n).sem j
    (grValid x = true → ds ≠ [] → ds.Nodup → (∀ n ∈ ds, s.hw.resident n c.num = true ∧ 1 ≤ ((s.hw.cx n).sem (grIsem x)).toNat) → s.hw.chip.redEarly = [] →
      (∀ g', s.hw.chanHead ch = some g' → g' ≠ g.val → (∀ q, s.hw.redActive g' = some q → q.phase ≠ .queued) →
        ∃ t, exec (.reductionIssue g) s = .next t ∧ SameManaged s t ∧ taken t ∧ t.hw.chip.redq = s.hw.chip.redq ++ [(ch, g.val)] ∧
          t.hw.group g.val = { s.hw.group g.val with issued := k + 1, issues := (s.hw.group g.val).issues ++ [redFresh k []] }) ∧
      (let hs := (s.hw.redQueue g.val ds []).redSlots g.val k c
       ∀ src h, s.hw.chip.redq = [] → (s.hw.group g.val).issues = [] → (∀ d, d < 4 → popCount (grPmask x d) 16 ≤ 1) →
        (∀ m ∈ slots (grSrc x), redSrcOk m = true) → (∀ m ∈ slots (grDst x), redDstOk x m = true) →
        hs.redSources c (redWho (hs.redPort g.val)) [] (ds.zip (slots (grSrc x))) = .ok (src, h) →
        ∃ t, exec (.reductionIssue g) s = .next t ∧ SameManaged s t ∧ taken t ∧ (t.hw.group g.val).issued = k + 1 ∧
          ∃ i, (t.hw.group g.val).issues = [i] ∧ i.k = k ∧ i.phase = .written ∧ i.srcD = slots (grSrc x) ∧ i.dstD = slots (grDst x) ∧
            i.codes = ownCodes (grH x) src ∧ i.vals = (ownVals (grW x) (grH x) i.codes src).1)) ∧
    ((∃ n ∈ ds, s.hw.resident n c.num = false ∨ (s.hw.cx n).sem (grIsem x) = 0) → exec (.reductionIssue g) s = .next s) ∧
    (∀ i n m h, RedAlone s.hw g.val c i → i.phase = .written → ds = [n] → i.dstD = [m] →
      (redWrite ⟨n, (s.hw.partOf c.num n).root, redWho (s.hw.stagePort g.val (s.hw.rs x (s.hw.redG g.val)).getLast?), []⟩ x m
        (s.hw.redRange x (s.hw.redG g.val)) i.k i.codes.toArray i.vals.toArray).run { h := s.hw } = .ok ((), h) →
      ∃ t, exec (.reductionComplete g) s = .next t ∧ SameManaged s t ∧ (t.hw.group g.val).issues = [] ∧ t.hw.chip.redq = [] ∧
        RedSignalled x ds s t ∧ ∀ j, t.hw.stk j = h.h.stk j) ∧
    (∀ (l : Fin 48) f i, RedAlone s.hw g.val c i → RedFor s.hw f g.val i.k →
      ∃ t, exec (.reductionAbortReceive l f) s = .next t ∧ SameManaged s t ∧ RedAborted g.val 0x0F07 c s t) ∧
    (∀ i e, RedAlone s.hw g.val c i → s.hw.links.bulkHeld.find? (fun e => flClass e.2 == 1 && rfSlot e.2 == g.val) = some e → rfIdx e.2 = i.k.toNat % 256 →
      ∃ t, exec (.reductionHoldExpire g) s = .next t ∧ SameManaged s t ∧ RedAborted g.val 0x0F04 c s t) ∧
    (s.hw.links.bulkHeld = [] → ∃ t, exec (.reductionHoldExpire g) s = .next t ∧ t.hw.chip = s.hw.chip ∧ SameManaged s t)

/-- Flits of an issue in its present phase and window, while its stage still waits for more: codes merge with the greater, or are replaced in a gather;
codes of a later window are kept for it; flits of a segment are assembled; a whole segment whose checksum holds is added to the own part, one that does not hold is asked for again; an acceptance frees the kept copy and a
retry request sends it again (17:R360-R364).
It rests on the model's choices of logs 36, 100. -/
def Obligations.ReductionFlits : Prop :=
  ∀ (l : Fin 48) (s : State) (f : Flit) (g : Fin 256) (c : Ctx) (i : RedIssue) (t0 : RStage), s.hw.fleetAlive → RedAlone s.hw g.val c i →
    RedFor s.hw f g.val i.k →
    let x := (s.hw.group g.val).rcd
    let st := s.hw.rs x (s.hw.redG g.val)
    let m := st.length
    let pos := stagePos m (rfStage f)
    let u := rfUnit f
    let plus := u % 2 == 0
    let waits (n : Nat) (got : List Nat) : Prop := ∃ t1, stageAt st i.stage = some t1 ∧ i.stage < n ∧
      stageDone (m ≤ i.stage) t1 i.window i.stage (if i.phase = .sums then 16 else 224) got = false
    stageAt st pos = some t0 → pos ≤ i.stage → i.early = [] →
    let total := if grMode x = 1 then m else 2 * m
    let b (i : RedIssue) : List Byte :=
      ((i.parts.find? fun q => q.1 == plus && q.2.1 == rfStage f && q.2.2.1 == u).map (·.2.2.2)).getD [] ++ bytesAt f.payload 0 224
    let rest := i.parts.filter fun q => !(q.1 == plus && q.2.1 == rfStage f && q.2.2.1 == u)
    (∀ p, i.phase = .codes → u / 64 = i.window → pieceOf (m ≤ pos) t0 pos plus 224 u i.got = some p → waits (2 * m) (unitKey pos p u :: i.got) →
      ∃ t, exec (.reductionCodeFlit l f) s = .next t ∧ SameManaged s t ∧
        ((t.hw.group g.val).issues.map fun j => (j.phase, j.stage, j.got, j.codes)) = [(.codes, i.stage, unitKey pos p u :: i.got,
          if m ≤ pos ∨ p = t0.rank then mergeCodes (m ≤ pos) i.codes (t0.piece p) u (bytesAt f.payload 0 224) else i.codes)]) ∧
    (∀ p, i.phase = .sums → u / 896 = i.window → pieceOf (m ≤ pos) t0 pos plus 16 u i.got = some p → (b i).length < 224 * segFlits (grW x) → waits total i.got →
      ∃ t, exec (.reductionSegmentReceive l f) s = .next t ∧ SameManaged s t ∧
        (t.hw.group g.val).issues = [{ i with parts := rest ++ [(plus, rfStage f, u, b i)] }]) ∧
    (∀ p, i.phase = .sums → u / 896 = i.window → pieceOf (m ≤ pos) t0 pos plus 16 u i.got = some p → 224 * segFlits (grW x) ≤ (b i).length → segOk (grW x) (b i) = true →
      waits total (unitKey pos p u :: i.got) →
      ∃ t, exec (.reductionSegmentReceive l f) s = .next t ∧ SameManaged s t ∧
        ((t.hw.group g.val).issues.map fun j => (j.phase, j.stage, j.got, j.vals)) = [(.sums, i.stage, unitKey pos p u :: i.got,
          if m ≤ pos ∨ p = t0.rank then mergeVals (m ≤ pos) i.vals (t0.piece p) u (segVals (grW x) (b i)) else i.vals)]) ∧
    (∀ p, i.phase = .sums → u / 896 = i.window → pieceOf (m ≤ pos) t0 pos plus 16 u i.got = some p → 224 * segFlits (grW x) ≤ (b i).length → segOk (grW x) (b i) = false →
      i.misses = [] → waits total i.got →
      ∃ t, exec (.reductionSegmentReceive l f) s = .next t ∧ SameManaged s t ∧ t.hw.host.seq = s.hw.host.seq + 1 ∧
        (t.hw.group g.val).issues = [{ i with parts := rest, misses := [(rfStage f, u, 1)] }]) ∧
    (i.phase = .codes ∨ i.phase = .sums → i.window < u / 64 → waits (if i.phase = .sums then total else 2 * m) i.got →
      ∃ t, exec (.reductionCodeFlit l f) s = .next t ∧ SameManaged s t ∧
        (t.hw.group g.val).issues = [{ i with early := [redRow 1 f] }]) ∧
    (∀ q, i.keptFor f = some q → (∀ r ∈ i.kept, r.sent = true) →
      ∃ t, exec (.reductionSegmentAccepted l f) s = .next t ∧ SameManaged s t ∧ (t.hw.group g.val).issues = [{ i with kept := i.kept.erase q }]) ∧
    (∀ q, i.keptFor f = some q →
      ∃ t, exec (.reductionRetryRequest l f) s = .next t ∧ SameManaged s t ∧ t.hw.chip = s.hw.chip ∧
        t.hw.links = (s.hw.sendSeg g.val i.k t0 q).links)

/-! ### Host commands (18) -/

/-- A host-command row is the command of its ring with the row's OPCODE and FORM and every other bit as it is; a command that nothing holds back acts at
once on the state that has it outstanding (18:R382, R383, Tables 18-6, 18-7).
It rests on the model's choices of log 19. -/
def Obligations.HostCommands : Prop :=
  ∀ (s : State), s.numbered →
    (∀ (i : Instr) (q : Fin 64), ringOf i = some q →
      exec i s = .next (s.admitCmd runCmd q (rowBits i)) ∧ (∀ b ∈ i.fixed, fld (rowBits i) b.1 b.2.1 = b.2.2) ∧
        ∀ k, k < 512 → (∀ b ∈ i.fixed, k < b.2.1 ∨ b.1 < k) → (rowBits i).getLsbD k = i.bits.getLsbD k) ∧
    ∀ (q : Fin 64) (w : Word512), Starts s q w → s.admitCmd runCmd q w = runCmd (s.nextCmd q w) (s.taken q w)

/-- What keeps a command from acting: the first reason that makes it invalid, which ends it with 0x010A and nothing else; a FENCE with a command of its ring
outstanding; Bus Master Enable at 0 for an argument block; a handover for a management command, and recovery, which refuses it (18:R374, R382, R386, 21:R441,
R447).
It rests on the model's choices of log 64. -/
def Obligations.HostAdmission : Prop :=
  ∀ (s : State) (q : Fin 64) (w : Word512), s.numbered →
    let id := s.hw.host.nextCmd
    let refused (r : Nat) : Prop := ∃ u, s.admitCmd runCmd q w = u.complete id ⟨9, r, 0x010A, 0⟩ ∧ OnlyTaken s u q w 1
    let reads : Prop := s.argOf w ≠ [] → s.hw.host.bme = true
    let checked : Prop := cmOpcode w = 2 → s.hw.host.validating (cmCtx w) = false
    (∀ r, s.unfenced q w → cmStatic w = r → r ≠ 0 → refused r) ∧
    (∀ r, s.unfenced q w → cmStatic w = 0 → reads → checked → s.hw.cmReason w (s.argOf w) = r → r ≠ 0 → refused r) ∧
    (cmFence w = true → (∃ c ∈ s.hw.host.cmds, c.q = q) → s.admitCmd runCmd q w = s.outstanding ⟨id, q, w, .fence, [], .none⟩) ∧
    ((∃ c ∈ s.hw.host.cmds, c.q = q ∧ c.wait = .fence) → s.admitCmd runCmd q w = s.outstanding ⟨id, q, w, .fence, [], .none⟩) ∧
    (s.unfenced q w → cmStatic w = 0 → s.argOf w ≠ [] → s.hw.host.bme = false → s.admitCmd runCmd q w = s.outstanding ⟨id, q, w, .bme, [], .none⟩) ∧
    (s.unfenced q w → cmStatic w = 0 → reads → s.hw.cmReason w (s.argOf w) = 0 → cmMgmt w = true → s.hw.host.handover = true → cmOpcode w ≠ 0xD →
      s.admitCmd runCmd q w = s.outstanding ⟨id, q, w, .mgmt, s.argOf w, .none⟩) ∧
    (s.unfenced q w → cmStatic w = 0 → reads → s.hw.cmReason w (s.argOf w) = 0 → cmMgmt w = true → s.mgmtWaits w = false → s.sec.recovery = true →
      recoveryOk w = false → s.admitCmd runCmd q w = (s.taken q w).complete id ⟨0xB, 0, 0, 0⟩)

/-- The ring engine takes the first ring in its turn that has a command to fetch; a FENCE command starts once the commands before it on its ring have
completed, and not before (18:R382).
It rests on the model's choices of log 5. -/
def Obligations.RingEngine : Prop :=
  (∀ (s : State) (j : Nat), s.hw.host.bme = true → s.hw.host.cmds.length < 4096 → j < 64 →
    s.hw.host.fetchable ((s.hw.host.rr.val + j) % 64) = true → (∀ i, i < j → s.hw.host.fetchable ((s.hw.host.rr.val + i) % 64) = false) →
    ∀ q : Fin 64, q.val = (s.hw.host.rr.val + j) % 64 →
      let g := s.hw.ring q.val
      let w : Word512 := BitVec.ofNat 512 (s.hw.host.mem.readLE (g.base.toNat + 64 * g.head.toNat) 64)
      ∃ s1, exec .commandFetch s = .next ((s1.admitCmd runCmd q w).afterValidate) ∧ SameManaged s s1 ∧ s1.hw.chip = s.hw.chip ∧
        s1.hw.ring q.val = { g with head := BitVec.ofNat 16 ((g.head.toNat + 1) % g.size) } ∧ (∀ r, r < 130 → r ≠ q.val → s1.hw.ring r = s.hw.ring r) ∧
        s1.hw.host.rr.val = (q.val + 1) % 64 ∧ s1.hw.host.cmds = s.hw.host.cmds ∧ s1.hw.host.mem = s.hw.host.mem) ∧
  (∀ s, (s.hw.host.bme = false ∨ ∀ r, r < 64 → s.hw.host.fetchable r = false) → exec .commandFetch s = .next s) ∧
  (∀ (s : State) (q : Fin 64) (c : Cmd), s.hw.host.cmds = [c] → c.q = q → c.wait = .fence → cmStatic c.w = 0 → s.hw.host.bme = true →
    s.hw.cmReason c.w (s.argOf c.w) = 0 → s.mgmtWaits c.w = false → s.sec.recovery = false →
    let d : Cmd := { c with wait := .running, arg := s.argOf c.w }
    exec (.fenceRelease q) s = .next ((runCmd d (s.onHw fun h => h.onHost fun x => { x with cmds := [d] })).afterValidate)) ∧
  (∀ (s : State) (q : Fin 64) (a c : Cmd), s.hw.host.cmds = [a, c] → a.q = q → c.q = q → a.wait = .running → c.wait = .fence → a.id < c.id →
    cmFence c.w = true → exec (.fenceRelease q) s = .next s)

/-- A command that completes leaves one entry, with the next sequence number, on the completion ring its submission ring targets: written with SQHEAD and the
tail moved, or held in the hub while the ring cannot take it (18:R379, R380, R384, Table 18-8).
It rests on the model's choices of log 60. -/
def Obligations.Completions : Prop :=
  ∀ (h : Hw) (id : Nat) (r : Result) (c : Cmd), h.cmd? id = some c →
    let t := h.complete id r
    let n := 64 + (h.ring c.q.val).target.toNat % 64
    let g := h.ring n
    let e := complEntry c r h.host.seq
    (t.chip = h.chip ∧ t.links = h.links ∧ t.host.cmds = h.host.cmds.filter (fun d => d.id != id)) ∧
    (r.status < 256 → r.reason < 256 → r.code < 65536 → fld e 511 496 = cmCid c.w ∧ fld e 495 490 = c.q.val ∧ fld e 463 456 = r.status ∧
      fld e 455 448 = r.reason ∧ fld e 447 432 = r.code ∧ fld e 431 368 = h.host.seq.toNat ∧ fld e 255 0 = r.result % 2 ^ 256) ∧
    (h.host.canWrite n = true → g.held = [] → h.host.mem.wf = true → g.tail.toNat < g.size →
      (g.wb.toNat + 8 ≤ g.base.toNat ∨ g.base.toNat + 64 * g.size ≤ g.wb.toNat) →
      t.host.seq = h.host.seq + 1 ∧ (t.ring n).tail.toNat = (g.tail.toNat + 1) % g.size ∧ (t.ring n).held = [] ∧
      t.host.mem.readN (g.base.toNat + 64 * g.tail.toNat) 64 = entryBytes (setFld e 479 464 (h.ring c.q.val).head.toNat) ∧
      t.host.mem.readLE g.wb.toNat 8 = (g.tail.toNat + 1) % g.size) ∧
    (h.host.canWrite n = false → (g.st = .running → g.full = true → g.waited = true) →
      (t.ring n).held = g.held ++ [⟨e, !cmIrqsup c.w, some c.q⟩] ∧ t.host.mem = h.host.mem ∧ t.host.seq = h.host.seq + 1)

/-! ### Contexts (04, 14) -/

/-- LAUNCH and the segment load: a launch whose image breaks a rule ends with 0x0401 and one that falls short with every shortfall reported, neither changing a
die; an accepted one brings the context into being, with each die in its launch state, its header at state 1 and its entry segment loading. A segment load is
requested on each die that it names (04:R96, R101-R103, 18:R385).
It rests on the model's choices of logs 32, 69. -/
def Obligations.ContextStarts : Prop :=
  ∀ (q : Fin 64) (w0 : Word512) (s : State),
    (∀ w, w = rowBits (.launch q w0) → Starts s q w →
      let c := s.nextCmd q w
      let i := Instr.launch q w0
      let ents := cmDies w c.arg
      let r := (s.taken q w).hw.imgReads ents
      (s.hw.clean → ReadOnly (s.taken q w).hw r) ∧
      (r.image ents = none → RefusesFrom i s r ⟨1, 0, 0x0401, 0⟩ 1) ∧
      (∀ x segs, r.image ents = some (x, segs) → r.shortfalls ents x segs ≠ [] →
        let l := r.shortfalls ents x segs
        RefusesFrom i s r ⟨2, 0, 0x0402, put l.length 224 32 + put (min l.length (fld w 311 296)) 192 32⟩ 1) ∧
      (∀ x segs, r.image ents = some (x, segs) → r.shortfalls ents x segs = [] →
        ∃ t, exec i s = .next t ∧ t.pending = s.pending ∧ t.sec = s.sec ∧ t.hw.host.cmds = r.host.cmds ∧
          t.hw.ctx? (cmCtx w) = some (r.newCtx c ents x) ∧ (r.newCtx c ents x).chans = r.freeChans.take (ihRedch x) ∧
          ∀ p ∈ (List.range ents.length).zip ents, let n := p.2.die.val
            (t.hw.die n).owner = some (cmCtx w) ∧ (t.hw.die n).phase = .running ∧ (t.hw.cx n).helm = { Helm.init with st := .waitBank } ∧
            (t.hw.cx n).ldie = BitVec.ofNat 4 p.1 ∧ (t.hw.cx n).cores = Vector.replicate 32 Core.init ∧ (t.hw.cx n).sems = Vector.replicate 64 0 ∧
            (∃ more, (t.hw.cx n).loads = { plainLoad 0 (ihEntry x p.1) with started := true } :: more) ∧
            ∃ v, t.hw.header n p.2.saveOff.toNat = some v ∧ hdState v = 1)) ∧
    (∀ w, w = rowBits (.segmentLoad q w0) → Starts s q w → ∀ k, s.hw.ctx? (cmCtx w) = some k →
      ∃ t, exec (.segmentLoad q w0) s = .next t ∧ SameManaged s t ∧ t.hw.host.cmds = (s.taken q w).hw.host.cmds ∧
        ∀ e ∈ segDies w k, s.hw.resident e.die.val k.num = true → ∃ l ∈ (t.hw.cx e.die.val).loads, l.seg = BitVec.ofNat 12 (fld w 367 356) ∧
          l.bank = BitVec.ofNat 1 (fld w 355 355) ∧ l.drv = true ∧ l.cmd = some s.hw.host.nextCmd ∧
          l.held = ((s.hw.cx e.die.val).helm.bank.toNat == fld w 355 355))

/-- The pre-emption of a running context: at once, every die stops at the boundary after Helm's last word; at yield, each die has 16,384 words; a context that
is saved already is refused (03:R75, 14:R303, 18:R385).
It rests on the model's choices of logs 21, 33. -/
def Obligations.Preemptions : Prop :=
  ∀ (q : Fin 64) (w0 : Word512) (s : State) (k : Ctx),
    (∀ i, i = Instr.preemptImmediate q w0 ∨ i = .preemptAtYield q w0 → Starts s q (rowBits i) → s.hw.ctx? (cmCtx (rowBits i)) = some k → k.st = .saved →
      exec i s = .next ((s.taken q (rowBits i)).complete s.hw.host.nextCmd ⟨0xB, 0, 0, 0⟩)) ∧
    (∀ w, w = rowBits (.preemptImmediate q w0) → Starts s q w → s.hw.ctx? (cmCtx w) = some k → k.st = .running → k.preLater = none → (s.hw.take? k.num).any (fun t => t.st == .copy) = false →
      ∃ t, exec (.preemptImmediate q w0) s = .next t ∧ SameManaged s t ∧ t.hw.host = (s.taken q w).hw.host ∧
        t.hw.ctx? k.num = some { k with st := .stopping, pre := k.pre ++ [s.hw.host.nextCmd] } ∧
        ∀ n, n < 16 → if (s.hw.die n).owner = some k.num ∧ (s.hw.die n).phase = .running then
            (t.hw.die n).phase = .draining ∧ (t.hw.cx n).pre = .now ∧ (t.hw.cx n).helm = { (s.hw.cx n).helm with
              held := none
              st := if (s.hw.cx n).helm.st = .idle ∨ (s.hw.cx n).helm.st = .stopped then (s.hw.cx n).helm.st else .preempting } ∧
            (t.hw.cx n).cores = (s.hw.cx n).cores
          else t.hw.die n = s.hw.die n) ∧
    (∀ w, w = rowBits (.preemptAtYield q w0) → Starts s q w → s.hw.ctx? (cmCtx w) = some k → k.st = .running → k.preLater = none → (s.hw.take? k.num).any (fun t => t.st == .copy) = false →
      (∀ e ∈ k.ents, (s.hw.die e.die.val).owner = some k.num ∧ (s.hw.die e.die.val).phase = .running ∧ (s.hw.cx e.die.val).helm.held = none ∧
        (s.hw.cx e.die.val).helm.st ≠ .waitBank) →
      ∃ t, exec (.preemptAtYield q w0) s = .next t ∧ SameManaged s t ∧ t.hw.host = (s.taken q w).hw.host ∧
        t.hw.ctx? k.num = some { k with st := .stopping, pre := k.pre ++ [s.hw.host.nextCmd] } ∧
        ∀ e ∈ k.ents, t.hw.die e.die.val = { s.hw.die e.die.val with cx := { s.hw.cx e.die.val with pre := .atYield 16384 } })

/-- The drained die saves its part, with the header at state 2, or at 3 where its scratchpad image cannot be written; the last save ends the command that started the context with status 4 and the pre-emptions with
0, and frees the dies; a context that has completed END everywhere ends with status 0 (04:R105, R106, 14:R304, R305).
It rests on the model's choices of logs 13, 75. -/
def Obligations.ContextStops : Prop :=
  (∀ (d : Fin 16) (s : State) (num : BitVec 16) (c : Ctx), (s.hw.die d.val).owner = some num → (s.hw.die d.val).phase = .draining → s.hw.ctx? num = some c →
    let calm : Prop := ∀ cl, cl < 4 → (∀ b ∈ (s.hw.gme d.val cl).back, b.row = 0) ∧ (s.hw.gme d.val cl).adding = []
    (s.hw.cx d.val).helm.skips ≠ 256 → s.hw.drained d.val = true → s.hw.chip.hostX = [] → c.arrivals = [] →
    ∃ t, exec (.dieDrainEnd d) s = .next t ∧ SameManaged s t ∧ (t.hw.die d.val).phase = .saved ∧ (t.hw.die d.val).owner = some num ∧
      (∃ c1 x, t.hw.ctx? num = some c1 ∧ c1.save = c.save ++ [(d.val, x)] ∧ x.sems = (s.hw.cx d.val).sems ∧ x.slots = (s.hw.cx d.val).slots ∧
        x.streams = (s.hw.cx d.val).streams ∧ x.puus = (s.hw.cx d.val).puus ∧ x.xfers = (s.hw.cx d.val).xfers ∧
        (calm → x.gmes = (s.hw.cx d.val).gmes)) ∧
      (calm → s.hw.clean → (s.hw.stk d.val).chanFailed (hdrOff (s.hw.cx d.val).saveOff.toNat) = false → (s.hw.cx d.val).busyAgents = [] → (s.hw.cx d.val).fslots = [] → (s.hw.cx d.val).frecs = [] → c.ending = 0 →
        (∀ k ∈ s.hw.healthyCores d.val, ((s.hw.cx d.val).core k).split = none) →
        let x := s.hw.cx d.val
        let image := Hw.imagePages d.val x.root x.padImage x.spImg.toNat (pagesOfRange x.spImg.toNat (2 ^ 27))
          (s.hw.updStk d.val fun k => k.stateSaved (s.hw.saveAt d.val))
        ∃ v, t.hw.header d.val x.saveOff.toNat = some v ∧ hdState v = (if image.2 then 2 else 3) ∧ fld v 495 448 = x.helm.step.toNat)) ∧
  (∀ (num : BitVec 16) (s : State) (c : Ctx) (id : Nat), s.hw.ctx? num = some c → c.st = .stopping → c.cmd = some id → c.ending = 0 →
    (∀ e ∈ c.ents, ∃ x, (e.die.val, x) ∈ c.save) →
    ∃ u, exec (.contextSaveComplete num) s = .next (u.onHw fun h => (h.complete id ⟨4, 0, c.stopCode.toNat, 0⟩).completeAll c.pre ⟨0, 0, 0, 0⟩) ∧
      SameManaged s u ∧ u.hw.host = s.hw.host ∧ u.hw.ctx? num = some { c with st := .saved, cmd := none, pre := [], raised := [] } ∧
      ∀ n, n < 16 → u.hw.die n = if (s.hw.die n).owner = some num then { s.hw.die n with owner := none, phase := .idle } else s.hw.die n) ∧
  (∀ (num : BitVec 16) (s : State) (c : Ctx), s.hw.ctx? num = some c → (c.st ≠ .stopping ∨ ∃ e ∈ c.ents, ∀ x ∈ c.save, x.1 ≠ e.die.val) →
    exec (.contextSaveComplete num) s = .next s) ∧
  (∀ (num : BitVec 16) (s : State) (c : Ctx) (id : Nat), s.hw.ctx? num = some c → c.st ≠ .saved → c.cmd = some id → s.hw.redBusy num = false →
    (∀ e ∈ c.ents, s.hw.resident e.die.val num = true ∧ s.hw.dieDone e.die.val = true) → s.hw.segCmds c = [] → s.hw.take? num = none →
    (∀ x ∈ s.hw.chip.ctxs, x.num = num → x = c) →
    ∃ u, exec (.contextComplete num) s = .next (u.onHw fun h => (h.complete id ⟨0, 0, 0, 0⟩).completeAll c.pre ⟨0xB, 0, 0, 0⟩) ∧
      SameManaged s u ∧ u.hw.host = s.hw.host ∧ u.hw.chip.ctxs = s.hw.chip.ctxs.filter (fun x => x.num != num) ∧
      (∀ n, n < 16 → u.hw.die n = if (s.hw.die n).owner = some num then (s.hw.die n).vacate else s.hw.die n) ∧
      (∀ e ∈ c.ents, ∀ v, s.hw.header e.die.val e.saveOff.toNat = some v → ∃ v1, u.hw.header e.die.val e.saveOff.toNat = some v1 ∧ hdState v1 = 4)) ∧
  (∀ (num : BitVec 16) (s : State) (c : Ctx), s.hw.ctx? num = some c → (∃ e ∈ c.ents, s.hw.dieDone e.die.val = false) →
    exec (.contextComplete num) s = .next s)

/-- RESUME: with all it needs there and readable, each die runs again from its saved part with its header at state 1; with something short it changes no die
and reports (14:R306, 04:R107, 18:R385).
It rests on the model's choices of logs 13, 32, 74. -/
def Obligations.Resumptions : Prop :=
  ∀ (q : Fin 64) (w0 : Word512) (s : State) (k : Ctx),
    let w := rowBits (.resume q w0)
    let r := (s.taken q w).hw.wakeEnts k.ents
    Starts s q w → s.hw.ctx? (cmCtx w) = some k → (k.ents.map (·.die)).Nodup →
    ReadOnly (s.taken q w).hw r ∧
    (r.placeShort k.ents 2 = [] → (∀ e ∈ k.ents, r.restoreBad e = none) → k.arrivals = [] →
      -- Helm has a bank to go on from, or to wait for (04:R98)
      (∀ e ∈ k.ents, ∀ x, s.hw.savedCx k.num e.die.val = some x →
        x.helm.st = .idle ∨ (x.bank x.helm.bank.toNat).valid = true ∨ x.loadOf x.helm.bank.toNat = true) →
      ∃ t, exec (.resume q w0) s = .next t ∧ t.pending = s.pending ∧ t.sec = s.sec ∧ t.hw.host.cmds = r.host.cmds ∧
        (∃ k1, t.hw.ctx? k.num = some k1 ∧ k1.st = .running ∧ k1.cmd = some s.hw.host.nextCmd ∧ k1.save = [] ∧ k1.ents = k.ents) ∧
        ∀ e ∈ k.ents, ∀ x, s.hw.savedCx k.num e.die.val = some x →
          (t.hw.die e.die.val).owner = some k.num ∧ (t.hw.die e.die.val).phase = .running ∧ (t.hw.cx e.die.val).sems = x.sems ∧
          (t.hw.cx e.die.val).helm.step = x.helm.step ∧ (t.hw.cx e.die.val).helm.index = x.helm.index ∧ (t.hw.cx e.die.val).holds = x.holds ∧
          ∃ v, t.hw.header e.die.val e.saveOff.toNat = some v ∧ hdState v = 1) ∧
    (∀ e b, r.placeShort k.ents 2 = [] → k.ents.head? = some e → r.restoreBad e = some b →
      ∃ t, exec (.resume q w0) s = .next t ∧ t.pending = s.pending ∧ t.sec = s.sec ∧ t.hw.chip = r.chip ∧ t.hw.host.seq = r.host.seq ∧
        ∃ c ∈ t.hw.host.cmds, c.id = s.hw.host.nextCmd ∧ c.work = .burst e.die.val b) ∧
    (r.placeShort k.ents 2 ≠ [] → (∀ e ∈ k.ents, ∀ v, r.header e.die.val e.saveOff.toNat = some v → hdState v = 2) →
      let l := r.placeShort k.ents 2
      ∃ u, exec (.resume q w0) s = .next ((u.complete s.hw.host.nextCmd
          ⟨2, 0, 0x0402, put l.length 224 32 + put (min l.length (fld w 311 296)) 192 32⟩).wakeDies (cmCtx w) false) ∧
        SameManaged s u ∧ u.hw.chip = r.chip ∧ u.hw.links = r.links ∧ u.hw.host.seq = r.host.seq + 1)

/-! ### Host transfers, tables of translation and of descriptors (06, 14, 18) -/

/-- Host DMA: a flat copy moves its bytes and nothing else; a transfer record of a table runs granule by granule, signals its semaphore and completes; an
unavailable stack, a bad record and a context that is not there refuse it, a translation fault ends it with the address (18:R387, R390).
It rests on the model's choices of log 34. -/
def Obligations.HostTransfers : Prop :=
  ∀ (q : Fin 64) (w0 : Word512) (s : State),
    (∀ w, w = rowBits (.dmaFlat q w0) → Starts s q w →
      (s.hw.flatOff w = true → Refuses (.dmaFlat q w0) q s ⟨0xB, 0, 0, 0⟩ 0) ∧
      (s.hw.flatOff w = false → s.hw.clean → (dfDir w ≠ 0 → (s.hw.stk (dfSstk w)).badRead (dfSoff w) (dfBytes w) = none) →
        (dfDir w = 2 → dfSstk w ≠ dfDstk w ∨ dfSoff w + dfBytes w ≤ dfDoff w ∨ dfDoff w + dfBytes w ≤ dfSoff w) →
        s.hw.host.mem.wf = true → (s.hw.stk (dfDstk w)).mem.wf = true →
        Acts (.dmaFlat q w0) q s ⟨0, 0, 0, 0⟩ fun u => SameManaged s u ∧
          let data := if dfDir w = 0 then s.hw.host.mem.readN (dfHost w) (dfBytes w) else (s.hw.stk (dfSstk w)).mem.readN (dfSoff w) (dfBytes w)
          if dfDir w = 1 then
            u.hw.host.mem.readN (dfHost w) (dfBytes w) = data ∧ (∀ k, (u.hw.stk k).mem = (s.hw.stk k).mem) ∧
              ∀ a, (a < dfHost w ∨ dfHost w + dfBytes w ≤ a) → u.hw.host.mem.read a = s.hw.host.mem.read a
          else
            (u.hw.stk (dfDstk w)).mem.readN (dfDoff w) (dfBytes w) = data ∧ u.hw.host.mem = s.hw.host.mem ∧
              (∀ k, k ≠ dfDstk w → (u.hw.stk k).mem = (s.hw.stk k).mem) ∧
              ∀ a, (a < dfDoff w ∨ dfDoff w + dfBytes w ≤ a) → (u.hw.stk (dfDstk w)).mem.read a = (s.hw.stk (dfDstk w)).mem.read a)) ∧
    (∀ w, w = rowBits (.dmaTransferRecord q w0) → Starts s q w →
      let i := Instr.dmaTransferRecord q w0
      let n := fld w 383 376
      let off := fld w 359 344
      let id := s.hw.host.nextCmd
      let x := hostXfer ((s.hw.stk n).tableEntry (65536 * off)) id (fld w 375 364)
      let bad : Prop := dsKind x.rcd ≠ 4 ∨ tfSkind x.rcd ≠ 0 ∨ (tfDkind x.rcd ≠ 0 ∧ tfDkind x.rcd ≠ 2 ∧ tfDkind x.rcd ≠ 4) ∨ x.usable = false
      let gone : Prop := tfDkind x.rcd ≠ 0 ∧ s.hw.residentAt n off = none
      let r := (s.taken q w).hw.wakeStk n hostWho
      let told := if tfDkind x.rcd = 0 then r else r.delivered n .driver 11 (srcBytes 99 0xFF 0x61)
      let y : Xfer := { x with total := x.granules, chained := tfDkind x.rcd ≠ 0 && (s.hw.die n).mcFault }
      let at0 : Hw := (told.updCmd id fun d => { d with work := .rcd n id }).onChip fun c =>
        { c with hostX := c.hostX ++ [⟨id, ⟨n % 16, Nat.mod_lt _ (by decide)⟩, y⟩] }
      let root := ((r.header n off).map hdRoot).getD ⟨0, 0⟩
      ReadOnly (s.taken q w).hw r ∧
      (s.hw.stkUnavailable n = true → RefusesFrom i s r ⟨0xB, 0, 0, 0⟩ 0) ∧
      (s.hw.stkUnavailable n = false → s.hw.recordBad n off x (fld w 375 364) = none → (∀ e ∈ s.hw.chip.hostX, e.cmd ≠ id) →
        (bad → RefusesFrom i s r ⟨6, 4, 0x0504, 0⟩ 1) ∧
        (¬ bad → gone → RefusesFrom i s r ⟨0xB, 0, 0, 0⟩ 0) ∧
        (∀ va k l a, ¬ bad → ¬ gone → 0 < y.total → at0.shadowBusy n y = false →
          (y.granule ⟨n, root, hostWho, []⟩).run { h := at0 } = .error (.fault va k l a) → RefusesFrom i s told ⟨8, 0, 0, dmaResult va 0⟩ 0) ∧
        (∀ hs : Nat → Hw, ¬ bad → ¬ gone → hs 0 = at0 →
          (∀ j, j < y.total → (hs j).shadowBusy n { y with next := j } = false ∧
            ∃ r, (({ y with next := j } : Xfer).granule ⟨n, root, hostWho, []⟩).run { h := hs j } = .ok r ∧
              hs (j + 1) = ((r.2.h.countDrops n 0x61 r.2.dropped r.2.withheld hostWho).countHost ({ y with next := j } : Xfer).granuleBytes).updHostX id
                fun t => { t with next := t.next + 1, stall := .run }) →
          let z := (hs y.total).dropHostX id
          exec i s = .next ((s.taken q w).onHw fun _ =>
            if (hs y.total).validated n { y with next := y.total } then
              (if tfDsemen y.rcd then (match z.userOf n off with | some c => z.semAdd c.num n (tfDsem y.rcd) 1 255 | none => z) else z).complete id ⟨0, 0, 0, 0⟩
            else hs y.total))))

/-- MAP and UNMAP: a refused one changes no entry; an accepted one writes each entry of its range on each walk, and no other byte, and the leaves of the range
leave the caches of the dies it names; an agent that stood at a fault in the range walks again (14:R298, R301, 18:R388).
It rests on the model's choices of logs 29, 69. -/
def Obligations.Maps : Prop :=
  ∀ (q : Fin 64) (w0 : Word512) (s : State) (op : MapOp) (i : Instr),
    (i = .mapLeaves q w0 ∧ op = .leaves) ∨ (i = .mapTablePointer q w0 ∧ op = .pointer) ∨ (i = .unmap q w0 ∧ op = .unmap) → Starts s q (rowBits i) →
    let w := rowBits i
    let r := if mpRangeBad op w then (s.taken q w).hw else (s.taken q w).hw.mapTouch op w
    let l := if mpRangeBad op w then [] else r.mapAll op w
    let hi := mpVa w + mpPages w * mpSize op w
    (s.hw.clean → ReadOnly (s.taken q w).hw r) ∧
    (∀ k, r.mapRefusal op w l = k → k ≠ 0 → RefusesFrom i s r ⟨6, k, 0x0C03, 0⟩ 1) ∧
    (r.mapRefusal op w l = 0 → s.hw.clean → (∀ x ∈ l, ∃ p, x = .ok p) → Acts i q s ⟨0, 0, 0, 0⟩ fun u => SameManaged s u ∧
      ((∀ k, (s.hw.stk k).mem.wf = true) → (∀ p p', .ok p ∈ l → .ok p' ∈ l → p.stk = p'.stk → p.off = p'.off → p.page = p'.page) →
        (∀ p, .ok p ∈ l → p.stk < 16 → (u.hw.stk p.stk).mem.readLE p.off 8 = mapValue op w p) ∧
        ∀ k a, (∀ p, .ok p ∈ l → k ≠ p.stk ∨ a < p.off ∨ p.off + 8 ≤ a) → (u.hw.stk k).mem.read a = (s.hw.stk k).mem.read a) ∧
      (∀ n, n < 16 → (u.hw.die n).dtu = if n ∈ mpDies w then ((r.die n).invalidate (mpRoot w) (mpVa w) hi).dtu else (r.die n).dtu) ∧
      ∀ n a, n < 16 → (u.hw.cx n).stallOf a =
        if op ≠ .unmap ∧ n ∈ mpDies w ∧ (s.hw.die n).phase = .running ∧ (s.hw.cx n).root = mpRoot w ∧ a ∈ (s.hw.cx n).agents ∧
            ((s.hw.cx n).stallOf a).faulted.any (fun f => mpVa w ≤ f.1 && f.1 < hi)
          then ((s.hw.cx n).stallOf a).retried else (s.hw.cx n).stallOf a)

/-- DESC_CREATE, DESC_DESTROY and RED_SETUP: an entry that breaks a rule is refused with the first reason; else the table entry and the slot of a resident
context take the record or zeros, a stream record opens its stream, and a group slot takes its record or is emptied (06:R134, R145, 17:R356, 18:R389).
It rests on the model's choices of log 36. -/
def Obligations.Descriptors : Prop :=
  ∀ (q : Fin 64) (w0 : Word512) (s : State),
    (∀ w, w = rowBits (.descCreate q w0) → Starts s q w → s.hw.descBad (s.nextCmd q w) = none →
      let i := Instr.descCreate q w0
      let n := dcDie w
      let k := dcSlot w
      let base := 65536 * dcOff w
      let x : Word512 := BitVec.ofNat 512 (leNat (bytesAt (s.argOf w) 0 64))
      let r := s.hw.residentAt n (dcOff w)
      let look := (s.hw.stk n).tableEntry base
      let reason := if dsKind (look k) ≠ 0 then 1 else descReason look
        (fun m => if r.isSome then (s.hw.cx n).boundStream m else (s.hw.stk n).tableBinds base m) (r.map fun c => c.ents.length) x
      (reason ≠ 0 → RefusesFrom i s ((s.taken q w).hw.wakeStk n ringWho) ⟨6, reason, 0x0501, 0⟩ 1) ∧
      (reason = 0 → (s.hw.stk n).mem.wf = true → Acts i q s ⟨0, 0, 0, 0⟩ fun u => SameManaged s u ∧ (u.hw.stk n).tableEntry base k = x ∧
        (∀ a, (a < base + 64 * k ∨ base + 64 * k + 64 ≤ a) → (u.hw.stk n).mem.read a = (s.hw.stk n).mem.read a) ∧
        (∀ m, m ≠ n → u.hw.stk m = s.hw.stk m ∧ (dsKind x ≠ 5 → u.hw.die m = s.hw.die m)) ∧
        (r = none → u.hw.die n = s.hw.die n) ∧
        (r ≠ none → ∀ j, (u.hw.cx n).slot j = if j = k then x else (s.hw.cx n).slot j) ∧
        (r ≠ none → dsKind x = 5 → ∃ st, (u.hw.cx n).stream? (stSnum x) = some st ∧ st.rcd = x ∧ st.slot = BitVec.ofNat 12 k))) ∧
    (∀ w, w = rowBits (.descDestroy q w0) → Starts s q w → s.hw.descBad (s.nextCmd q w) = none →
      let i := Instr.descDestroy q w0
      let n := dcDie w
      let k := dcSlot w
      let base := 65536 * dcOff w
      let look := (s.hw.stk n).tableEntry base
      let reason := destroyReason (((s.hw.stk n).tableUsed base).map fun j => (j, look j)) k (look k)
      (reason ≠ 0 → RefusesFrom i s ((s.taken q w).hw.wakeStk n ringWho) ⟨6, reason, 0x0501, 0⟩ 1) ∧
      (reason = 0 → (s.hw.stk n).mem.wf = true → Acts i q s ⟨0, 0, 0, 0⟩ fun u => SameManaged s u ∧ (u.hw.stk n).tableEntry base k = 0 ∧
        (∀ a, (a < base + 64 * k ∨ base + 64 * k + 64 ≤ a) → (u.hw.stk n).mem.read a = (s.hw.stk n).mem.read a) ∧
        (∀ m, m ≠ n → u.hw.stk m = s.hw.stk m ∧ u.hw.die m = s.hw.die m) ∧
        (s.hw.residentAt n (dcOff w) ≠ none → (∀ j, (u.hw.cx n).slot j = if j = k then 0 else (s.hw.cx n).slot j) ∧
          (u.hw.cx n).holds = (s.hw.cx n).holds.filter (fun j => j != k) ∧
          (dsKind ((s.hw.cx n).slot k) = 5 → (u.hw.cx n).stream? (stSnum ((s.hw.cx n).slot k)) = none)))) ∧
    (∀ w, w = rowBits (.redSetup q w0) → Starts s q w →
      let i := Instr.redSetup q w0
      let g := fld w 383 376
      let x : Word512 := BitVec.ofNat 512 (leNat (bytesAt (s.argOf w) 0 64))
      (∀ r, s.hw.redReason g x = r → r ≠ 0 → Refuses i q s ⟨6, r, 0x0F01, 0⟩ 1) ∧
      (s.hw.redReason g x = 0 → Acts i q s ⟨0, 0, 0, 0⟩ fun u => SameManaged s u ∧
        (∀ j, j < 256 → u.hw.group j = if j = g then (if grValid x then { Group.init with rcd := x } else Group.init) else s.hw.group j) ∧
        u.hw.chip.dies = s.hw.chip.dies ∧ u.hw.chip.stk = s.hw.chip.stk))

/-! ### Waypoints (20) -/

/-- Waypoint commands: a refused one has the first reason of Table 20-10 and 0x1101; an accepted take waits for its declaration with its target slot invalid and
the other slot as it was; regions are reserved and released; a restore takes the chosen slot and leaves a saved context (20:R425, R427, R429, R432).
It rests on the model's choices of logs 37, 38. -/
def Obligations.Waypoints : Prop :=
  ∀ (q : Fin 64) (w0 : Word512) (s : State),
    (∀ w k, w = rowBits (.wpTake q w0) → Starts s q w → s.hw.ctx? (cmCtx w) = some k →
      let c := s.nextCmd q w
      let r := s.hw.takeReason c k
      let host := wpDesth w
      let base : Word64 := BitVec.ofNat 64 (wpHostbase c.arg)
      let m := s.hw.regMem host (wpPos w) (wpRegion w)
      let half := 32768 * wpLen host c
      let a := validAt m (slotAt host base half false)
      let b := validAt m (slotAt host base half true)
      (r ≠ 0 → Refuses (.wpTake q w0) q s ⟨6, r, 0x1101, 0⟩ 1) ∧
      (r = 0 → m.wf = true → ∃ t, exec (.wpTake q w0) s = .next t ∧ SameManaged s t ∧ t.hw.host.cmds = (s.taken q w).hw.host.cmds ∧
        t.hw.chip.dies = s.hw.chip.dies ∧ t.hw.chip.stk = s.hw.chip.stk ∧ t.hw.chip.ctxs = s.hw.chip.ctxs ∧
        t.hw.chip.takes = s.hw.chip.takes ++ [⟨k.num, c.id, .declare, host, wpPos w, wpRegion w, wpFull w, wpDsem w, wpCsem w,
          BitVec.ofNat 48 (wpWorkva c.arg), base, half, wpExtents c.arg, targetB a b, nextGen a b⟩] ∧
        validAt (t.hw.regMem host (wpPos w) (wpRegion w)) (slotAt host base half (targetB a b)) = none ∧
        validAt (t.hw.regMem host (wpPos w) (wpRegion w)) (slotAt host base half (!targetB a b)) = if targetB a b then a else b)) ∧
    (∀ w, w = rowBits (.wpReserve q w0) → Starts s q w →
      let c := s.nextCmd q w
      let r := s.hw.reserveReason c
      (r ≠ 0 → Refuses (.wpReserve q w0) q s ⟨6, r, 0x1101, 0⟩ 1) ∧
      (r = 0 → Acts (.wpReserve q w0) q s ⟨0, 0, 0, 0⟩ fun u => SameManaged s u ∧ u.hw.chip = { s.hw.chip with
        regions := vupd s.hw.chip.regions (wpRegion w).toNat fun _ => ⟨some (wpPos w), wpExtents c.arg⟩ })) ∧
    (∀ w, w = rowBits (.wpRelease q w0) → Starts s q w →
      let used : Prop := cmCtx w ≠ 0 ∨ cmArg w ≠ 0 ∨ fld w 383 370 ≠ 0 ∨ fld w 365 0 ≠ 0
      let free : Prop := (vget s.hw.chip.regions (wpRegion w).toNat ⟨none, []⟩).owner = none
      (used → Refuses (.wpRelease q w0) q s ⟨6, 1, 0x1101, 0⟩ 1) ∧
      (¬ used → free → Refuses (.wpRelease q w0) q s ⟨6, 6, 0x1101, 0⟩ 1) ∧
      (¬ used → ¬ free → Acts (.wpRelease q w0) q s ⟨0, 0, 0, 0⟩ fun u => SameManaged s u ∧ u.hw.chip = { s.hw.chip with
        regions := vupd s.hw.chip.regions (wpRegion w).toNat fun _ => ⟨none, []⟩ })) ∧
    (∀ (i : Instr) (host : Bool), (i = .wpRestoreHost q w0 ∧ host = true) ∨ (i = .wpRestoreBuddy q w0 ∧ host = false) → Starts s q (rowBits i) →
      let w := rowBits i
      let c := s.nextCmd q w
      let r := s.hw.restoreReason c host
      let k := s.hw.ctx? (cmCtx w)
      let blocked := k.isSome && !(bit w 383 && k.any fun k => k.st == .saved)
      let m := s.hw.regMem host (wpPos w) (wpRegion w)
      let half := 32768 * wpLen host c
      let at_ := slotAt host (BitVec.ofNat 64 (wpHostbase c.arg)) half
      let found := chooseSlot (validAt m (at_ false)) (validAt m (at_ true)) (wpReqgen w)
      (r ≠ 0 → Refuses i q s ⟨6, r, 0x1101, 0⟩ 1) ∧
      (r = 0 → blocked = true → Refuses i q s ⟨0xB, 0, 0, 0⟩ 0) ∧
      (r = 0 → blocked = false → found = none → Refuses i q s ⟨6, 6, 0x1104, 0⟩ 1) ∧
      ∀ x b, r = 0 → blocked = false → found = some (x, b) →
        let dies := slotDies x
        let fits : Prop := 65536 * shUnits x ≤ half
        let room : Prop := slotDiesOk x = true ∧ ∀ e ∈ dies, s.hw.dieAvail e.die.val = true
        let same : Prop := ∀ k1, k = some k1 → k1.ents.map (·.die) = dies.map (·.die)
        (¬ fits → Refuses i q s ⟨6, 4, 0x1101, 0⟩ 1) ∧
        (fits → ¬ room → Refuses i q s ⟨6, 7, 0x1101, 0⟩ 1) ∧
        (fits → room → ¬ same → Refuses i q s ⟨6, 2, 0x1101, 0⟩ 1) ∧
        (fits → room → same → (∀ e ∈ dies, s.hw.stkUnavailable e.die.val = false) → (∀ e ∈ shExtents x, s.hw.stkUnavailable (exStack e) = false) →
          (∀ k1, k = some k1 → s.hw.segCmds k1 = []) →
          let z := ((List.range dies.length).zip dies).foldl (Hw.restorePart m (at_ b))
            ((placed dies.length (shExtents x)).foldl (Hw.restoreRange m (at_ b)) s.hw, true)
          if z.2 then Acts i q s ⟨0, 0, 0, 0⟩ fun u => SameManaged s u ∧ u.hw.chip.stk = z.1.chip.stk ∧
            ∃ k1, u.hw.ctx? (cmCtx w) = some k1 ∧ k1.st = .saved ∧ k1.restored = true ∧ k1.ents = dies ∧ k1.role = shRole x ∧ k1.cmd = none ∧
              k1.save.map (·.1) = dies.map (·.die.val)
          else Acts i q s ⟨0xB, 0, 0x1105, 0⟩ fun u => SameManaged s u ∧ u.hw.chip.ctxs = s.hw.chip.ctxs))

/-- The take's course: a declaration takes one from DSEM of every die; the copy starts once no reduction of the context is under way, and holds arrivals; the
seal writes a valid header with the next generation, signals CSEM and completes with it. A buddy region serves only its owner (20:R422, R425, R427).
It rests on the model's choices of logs 15, 39, 75. -/
def Obligations.WaypointCopies : Prop :=
  (∀ (ctx : BitVec 16) (s : State) (tk : Take) (c : Ctx), s.hw.take? ctx = some tk → s.hw.ctxRuns ctx = some c → (c.ents.map (·.die)).Nodup →
    (tk.st = .declare → (∀ e ∈ c.ents, 1 ≤ ((s.hw.cx e.die.val).sem tk.dsem.toNat).toNat) →
      ∃ t, exec (.waypointDeclarationTaken ctx) s = .next t ∧ SameManaged s t ∧ t.hw.host = s.hw.host ∧ t.hw.take? ctx = some { tk with st := .drain } ∧
        ∀ n, n < 16 → ∀ k, k < 64 → (t.hw.cx n).sem k =
          if (∃ e ∈ c.ents, e.die.val = n) ∧ k = tk.dsem.toNat then (s.hw.cx n).sem k - 1 else (s.hw.cx n).sem k) ∧
    ((tk.st ≠ .declare ∨ ∃ e ∈ c.ents, (s.hw.cx e.die.val).sem tk.dsem.toNat = 0) → exec (.waypointDeclarationTaken ctx) s = .next s) ∧
    (tk.st = .drain → s.hw.redBusy ctx = false → (List.range 8).any s.hw.links.alive = true →
      ∃ t, exec (.waypointCopyStart ctx) s = .next t ∧ SameManaged s t ∧ t.hw.host = s.hw.host ∧ t.hw.take? ctx = some { tk with st := .copy } ∧
        t.hw.ctx? ctx = some { c with holding := true } ∧ t.hw.chip.dies = s.hw.chip.dies ∧ t.hw.chip.stk = s.hw.chip.stk) ∧
    ((tk.st ≠ .drain ∨ s.hw.redBusy ctx = true) → exec (.waypointCopyStart ctx) s = .next s) ∧
    (tk.st = .copy → s.hw.host.handover = false → (tk.host = true → s.hw.host.bme = true) → (tk.host = false → s.hw.stripeTurns tk.buddy ≠ []) →
      s.hw.soundMem → s.hw.clean →
      ∃ u bytes, exec (.waypointSeal ctx) s = .next ((u.complete tk.cmd ⟨0, 0, 0, put tk.gen.toNat 224 32 + put (b2n tk.slotB) 192 1 + put bytes 128 64⟩).onHw
          fun h => (h.updCtx ctx fun c => { c with restored := false }).endHolding ctx) ∧
        SameManaged s u ∧ u.hw.take? ctx = none ∧ u.hw.host.cmds = s.hw.host.cmds ∧
        (tk.host = false ∨ (s.hw.host.canWrite 128 = false ∧ s.hw.dirtyPages c tk.extents = [] ∧
            ∀ e va acc l, c.ents.head? = some e → s.hw.walk e.die.val (s.hw.cx e.die.val).root va acc = .ok l → l.host = false) →
          (u.hw.regMem tk.host tk.buddy tk.region).readN (tk.slot tk.slotB) 452 = headerBytes (slotHeader true c tk.gen s.hw.links.lpos tk.extents)) ∧
        ∀ n, n < 16 → ∀ k, k < 64 → (u.hw.cx n).sem k =
          if (∃ e ∈ c.ents, e.die.val = n) ∧ k = tk.csem.toNat then (semPlus ((s.hw.cx n).sem k) 1).1 else (s.hw.cx n).sem k) ∧
    ((tk.st ≠ .copy ∨ s.hw.host.handover = true ∨ (tk.host = true ∧ s.hw.host.bme = false) ∨ (tk.host = false ∧ s.hw.stripeTurns tk.buddy = [])) →
      exec (.waypointSeal ctx) s = .next s)) ∧
  (∀ (s : State) (tk : Take) (off : Nat) (data : List Byte) (d : Nat), d ∈ s.hw.stripeTurns tk.buddy →
    s.hw.links.upOf d ≠ [] ∧ (s.hw.stripeTurns tk.buddy).count d = (s.hw.links.upOf d).length ∧
    (d < 2 → tk.buddy = stepPos s.hw.links.lpos 0 ∨ tk.buddy = stepPos s.hw.links.lpos 1 → tk.buddy = stepPos s.hw.links.lpos d) ∧
    let f := s.hw.stripeFlit tk d off data
    flClass f = 2 ∧ flDst f = tk.buddy ∧ flSrc f = s.hw.links.lpos ∧ flOrder f = false ∧ (flViaen f = true ↔ 2 ≤ d) ∧
      (2 ≤ d → flVia f = stepPos s.hw.links.lpos d) ∧ f.payload = data) ∧
  (∀ (r : Fin 16) (pos : BitVec 16) (write : Bool) (off : Nat) (data : List Byte) (s : State),
    let x := vget s.hw.chip.regions r.val ⟨none, []⟩
    (x.owner ≠ some pos → ∃ t, exec (.buddyRegionRequest r pos write off data) s = .next t ∧ SameManaged s t ∧ t.hw.chip = s.hw.chip ∧
      t.hw.host.seq = s.hw.host.seq + 1) ∧
    (x.owner = some pos → write = false → s.hw.soundMem → s.hw.clean →
      ∃ t, exec (.buddyRegionRequest r pos write off data) s = .next t ∧ SameManaged s t ∧ t.hw.host = s.hw.host ∧ t.hw.chip.dies = s.hw.chip.dies ∧
        ∀ k a, (t.hw.stk k).mem.read a = (s.hw.stk k).mem.read a) ∧
    (x.owner = some pos → write = true → s.hw.soundMem → s.hw.clean → exOverlap x.extents = false →
      ∃ t, exec (.buddyRegionRequest r pos write off data) s = .next t ∧ SameManaged s t ∧ t.hw.host = s.hw.host ∧ t.hw.chip.dies = s.hw.chip.dies ∧
        (∀ i, i < data.length → ∀ k a, regionAt x.extents (off + i) = some (k, a) → (t.hw.stk k).mem.read a = data.getD i 0) ∧
        ∀ k a, (∀ i, i < data.length → regionAt x.extents (off + i) ≠ some (k, a)) → (t.hw.stk k).mem.read a = (s.hw.stk k).mem.read a))

/-! ### The power manager (19) -/

/-- Tolerances and grants: LAT_TOL sets one tolerance; a grant of the source named by GSRC, in range and newer than the last, comes into force with the next
window, another is refused with the first reason and 0x1001; a lapsed grant falls back to FSGRANT; a report shows the six values (19:R395-R397, R410, R411).
It rests on the model's choices of logs 40, 41. -/
def Obligations.PowerGrants : Prop :=
  ∀ (q : Fin 64) (w0 : Word512) (s : State),
    let p := s.power
    let awake := s.awake
    let reason (src : BitVec 2) (grant gseq : BitVec 16) : Nat :=
      if src ≠ p.cfg.gsrc then 1
      else if grant.toNat < 800 ∨ 4200 < grant.toNat then 2
      else if p.grant.accepted = true ∧ ((gseq - p.grant.last).toNat = 0 ∨ 32767 < (gseq - p.grant.last).toNat) then 3
      else 0
    let granted (x : Power) (grant gseq : BitVec 16) : Power := { x with grant := { x.grant with
      next := some (grant, gseq), last := gseq, accepted := true, lapsed := false } }
    (∀ (i : Instr) (k : Nat), (i = .latTolDevice q w0 ∧ k = 0) ∨ (i = .latTolRole q w0 ∧ k = fld (rowBits i) 351 349) → Starts s q (rowBits i) →
      Acts i q s ⟨0, 0, 0, 0⟩ fun u => u.pending = s.pending ∧ u.sec = s.sec ∧ u.hw.chip = s.hw.chip ∧
        u.power = { p with tol := vupd p.tol k fun _ => BitVec.ofNat 32 (fld (rowBits i) 383 352) }) ∧
    (∀ w c, w = rowBits (.latTolContext q w0) → Starts s q w → s.hw.ctx? (cmCtx w) = some c →
      Acts (.latTolContext q w0) q s ⟨0, 0, 0, 0⟩ fun u => SameManaged s u ∧ u.hw.chip.dies = s.hw.chip.dies ∧
        u.hw.ctx? (cmCtx w) = some { c with tol := if fld w 383 352 = 2 ^ 32 - 1 then none else some (BitVec.ofNat 32 (fld w 383 352)) }) ∧
    (∀ w, w = rowBits (.pwrGrant q w0) → Starts s q w →
      let grant := BitVec.ofNat 16 (fld w 383 368)
      let gseq := BitVec.ofNat 16 (fld w 367 352)
      (reason 2 grant gseq ≠ 0 → Refuses (.pwrGrant q w0) q s ⟨6, reason 2 grant gseq, 0x1001, 0⟩ 1) ∧
      (reason 2 grant gseq = 0 → Acts (.pwrGrant q w0) q s ⟨0, 0, 0, 0⟩ fun u => u.pending = s.pending ∧ u.sec = s.sec ∧ u.hw.chip = s.hw.chip ∧
        u.power = granted p grant gseq)) ∧
    (∀ src grant gseq, let code : BitVec 2 := match src with | .i3c => 0 | .vdm => 1
      (s.mctpUp src = false → exec (.mctpGrantSet src grant gseq) s = .next s) ∧
      (s.mctpUp src = true → s.hw.host.handover = false → reason code grant gseq ≠ 0 →
        ∃ t, exec (.mctpGrantSet src grant gseq) s = .next t ∧ t.pending = s.pending ∧ t.sec = s.sec ∧ t.power = awake ∧ t.hw.chip = s.hw.chip ∧
          t.hw.host.seq = s.hw.host.seq + 1) ∧
      (s.mctpUp src = true → s.hw.host.handover = false → reason code grant gseq = 0 →
        ∃ t, exec (.mctpGrantSet src grant gseq) s = .next t ∧ t.pending = s.pending ∧ t.sec = s.sec ∧ t.power = granted awake grant gseq ∧
          t.hw.chip = s.hw.chip ∧ t.hw.host = s.hw.host) ∧
      (s.mctpUp src = true → s.hw.host.handover = true → exec (.mctpGrantSet src grant gseq) s = .next { s with
        power := { awake with grant := { awake.grant with held := awake.grant.held ++ [(code, grant, gseq, none)] } } })) ∧
    (∀ src, exec (.mctpGrantReportRead src) s = .next (if s.mctpUp src then { s with power := { awake with
        reports := awake.reports ++ [(src, [p.avg.toNat, p.peak.toNat, p.grant.grant.toNat, p.grant.ceil.toNat, p.reclaimw.toNat, p.reason].flatMap (leBytes 2))] } }
      else s)) ∧
    (let runOut := p.cfg.gtmo ≠ 0 ∧ p.grant.accepted = true ∧ p.grant.lapsed = false ∧ p.grant.next = none
     (¬ runOut → exec .grantLapse s = .next s) ∧
     (runOut → ∃ t, exec .grantLapse s = .next t ∧ t.pending = s.pending ∧ t.sec = s.sec ∧ t.hw.chip = s.hw.chip ∧ t.hw.host.seq = s.hw.host.seq + 1 ∧
      t.power.grant = { p.grant with
        grant := p.cfg.fsgrant, lapsed := true
        ceil := BitVec.ofNat 16 (min (min p.cfg.fsgrant.toNat 4200) (min (p.coolLimit.getD 4200) (p.vinLimit.getD 4200))) } ∧
      ∀ n, n < 16 → (t.power.die n).vset.toNat = min (p.die n).vset.toNat (if s.hw.occupied n then t.power.target n else 0))) ∧
    (p.cfg.gsrc = 0 → exec .powerReport s = .next { s with power := { p with reports := p.reports ++ [(.i3c, p.report)] } }) ∧
    (p.cfg.gsrc = 1 → exec .powerReport s = .next { s with power := { p with reports := p.reports ++ [(.vdm, p.report)] } }) ∧
    (2 ≤ p.cfg.gsrc.toNat → ∃ t, exec .powerReport s = .next t ∧ SameManaged s t ∧ t.hw.chip = s.hw.chip ∧ t.hw.host.seq = s.hw.host.seq + 1)

/-- Samples and windows: the ceiling, pacing and setpoints after them; slack reclaim; droop detectors and the ramp they hold; a lost phase; the
idle states and their wakes (19:R398-R403, R407, R409, R412).
It rests on the model's choices of logs 42, 43, 44, 46. -/
def Obligations.PowerControl : Prop :=
  ∀ (s : State),
    let p := s.power
    let only (t : State) : Prop := t.pending = s.pending ∧ t.sec = s.sec ∧ t.hw.chip = s.hw.chip
    let paced (t : State) : Prop := ∀ n, n < 16 → (t.power.die n).paced =
      (((t.power.pacing || t.power.excess) && s.hw.occupied n) || decide (100 ≤ (t.power.die n).tj.toNat) || bit t.power.rebalancing n)
    (∀ watts vin, ∃ t, exec (.powerSample watts vin) s = .next t ∧ only t ∧ t.power.mod.vin = vin ∧ t.power.grant = p.grant ∧
      t.power.excess = decide (115 * p.grant.ceil.toNat < 100 * watts) ∧ paced t ∧
      t.hw.host.seq = s.hw.host.seq + (if vinBand vin.toNat ≠ 0 ∧ vinBand vin.toNat ≠ vinBand p.mod.vin.toNat then 1 else 0)) ∧
    (∀ avg peak, p.shutdown = false → (∀ u ∈ idleUnits, s.asleep u = false) →
      ∃ t, exec (.powerWindow avg peak) s = .next t ∧ only t ∧ paced t ∧
        let g := p.grant.window
        let e := min (min g.grant.toNat 4200) (min (p.coolLimit.getD 4200)
          ((if 400 ≤ p.mod.vin.toNat ∧ p.mod.vin.toNat ≤ 460 then some (9 * p.mod.vin.toNat) else none).getD 4200))
        t.power.avg = BitVec.ofNat 16 (min 65535 avg) ∧ t.power.peak = BitVec.ofNat 16 (min 65535 peak) ∧ t.power.grant = { g with ceil := BitVec.ofNat 16 e } ∧
        (t.power.pacing = true ↔ e < avg ∧ ∀ n, n < 16 → s.hw.occupied n = true → (p.die n).vset = 0) ∧
        ∀ n, n < 16 →
          let d := p.die n
          let goal := t.power.target n
          let cur := min d.vset.toNat goal
          let new := (t.power.die n).vset.toNat
          if s.hw.occupied n = false then new = 0
          else if e < avg then (if cur = 0 then new = 0 else new < cur)
          else if d.throttling = true ∨ d.hot = true ∨ d.recl = true then new = cur
          else new = match rowAbove cur with
            | some r => if cur < goal ∧ avg + riseOf cur ≤ e then min goal r.1 else cur
            | none => cur) ∧
    (∀ (d : Fin 16) waitPct, let x := p.die d.val
      let goal := p.target d.val
      let cur := x.vset.toNat
      let code := if 10 ≤ waitPct then cur - 2 else if waitPct < 3 ∧ x.throttling = false ∧ x.hot = false then max cur (min goal (cur + 2)) else cur
      ((p.cfg.reclaim = false ∨ s.hw.occupied d.val = false) → exec (.reclaimWindow d waitPct) s = .next { s with
        power := p.updDie d.val fun x => { x with recl := false } }) ∧
      (p.cfg.reclaim = true → s.hw.occupied d.val = true →
        ∃ t, exec (.reclaimWindow d waitPct) s = .next t ∧ only t ∧ t.hw.host = s.hw.host ∧ (t.power.die d.val).vset.toNat = code ∧
          ((t.power.die d.val).recl = true ↔ (10 ≤ waitPct ∨ x.recl = true) ∧ code < goal) ∧ ∀ n, n ≠ d.val → t.power.die n = p.die n)) ∧
    (∀ (d : Fin 16) (k : Fin 64), let x := p.die d.val
      (bit x.droop k.val = true → exec (.droopDetect d k) s = .next s) ∧
      (bit x.droop k.val = false → ∃ t, exec (.droopDetect d k) s = .next t ∧ only t ∧ t.hw.host = s.hw.host ∧ t.power = p.updDie d.val fun x => { x with
        droop := setFld x.droop k.val k.val 1, droops := BitVec.ofNat 32 (min (2 ^ 32 - 1) (x.droops.toNat + 1)) }) ∧
      exec (.droopClear d k) s = .next { s with power := p.updDie d.val fun x => { x with droop := setFld x.droop k.val k.val 0 } } ∧
      exec (.rampResume d) s = .next { s with power := p.updDie d.val fun x => if x.droop = 0 then { x with ramp := false, vnow := x.vset } else x } ∧
      exec (.thermalThrottleStep d) s = .next { s with power := p.updDie d.val fun x => if x.throttling then x.setCode (x.vset.toNat - 2) else x }) ∧
    (∀ k : Fin 16, ∃ t, exec (.powerPhaseFail k) s = .next t ∧ only t ∧ t.hw.host = s.hw.host ∧ paced t ∧
      t.power.rebalancing = setFld p.rebalancing k.val k.val 1 ∧ (t.power.die k.val).paced = true) ∧
    (∀ k : Fin 16, (bit p.rebalancing k.val = false → exec (.phaseRebalanceDone k) s = .next s) ∧
      (bit p.rebalancing k.val = true → ∃ t, exec (.phaseRebalanceDone k) s = .next t ∧ only t ∧ paced t ∧ t.hw.host.seq = s.hw.host.seq + 1 ∧
        t.power.rebalancing = setFld p.rebalancing k.val k.val 0 ∧ t.power.phaseLost = setFld p.phaseLost k.val k.val 1 ∧
        ∀ n, n < 16 → (t.power.die n).vset.toNat = min (p.die n).vset.toNat (if s.hw.occupied n then t.power.target n else 0))) ∧
    (∀ u : IdleUnit, let fits : Prop := s.mayEnter u = true ∧ idleLatency u ≤ s.unitTol u
      (¬ fits → exec (.idleStateEnter u) s = .next s) ∧
      (fits → ∃ t, exec (.idleStateEnter u) s = .next t ∧ t.pending = s.pending ∧ t.sec = s.sec ∧ t.hw.host = s.hw.host ∧ t.hw.chip.ctxs = s.hw.chip.ctxs ∧
        t.hw.chip.dies = s.hw.chip.dies ∧ t.asleep u = true) ∧
      ((∀ k, u ≠ .stackOff k) → ∃ t, exec (.idleStateWake u) s = .next t ∧ t.pending = s.pending ∧ t.sec = s.sec ∧ t.hw.host = s.hw.host ∧
        t.hw.chip.ctxs = s.hw.chip.ctxs ∧ t.hw.chip.dies = s.hw.chip.dies ∧ t.asleep u = false) ∧
      ((∃ k, u = .stackOff k) → exec (.idleStateWake u) s = .next s))

/-- Heat and coolant: a die throttles from 95 °C until 93 °C and is paced from 100 °C; 105 °C or a dry coolant loop begins a thermal shutdown, which stops every
context, puts the dies off once all are saved, and ends when everything is cool again; the coolant's row sets its limit on the ceiling (19:R404-R406).
It rests on the model's choices of log 45. -/
def Obligations.HeatAndCoolant : Prop :=
  ∀ (s : State),
    let p := s.power
    let allSaved : Prop := ∀ c ∈ s.hw.chip.ctxs, c.st = .saved
    let begun (t : State) : Prop := t.power.shutdown = true ∧
      (allSaved → t.power.shutOff = true ∧ t.power.ldon = 0 ∧ (∀ n, n < 16 → (t.hw.die n).off = true) ∧ ∀ k, k < 16 → (t.hw.stk k).mst ≠ .on) ∧
      (¬ allSaved → t.power.shutOff = false ∧ t.hw.chip.ctxs = s.hw.chip.ctxs.map fun c => { c with st := if c.st = .saved then .saved else .stopping })
    let ended (t : State) : Prop := t.power.shutdown = false ∧ t.power.shutOff = false ∧ t.power.ldon = s.linkDies ∧
      ∀ n, n < 16 → (t.hw.die n).off = false
    let ceil (limit : Option Nat) : BitVec 16 := BitVec.ofNat 16 (min (min p.grant.grant.toNat 4200) (min (limit.getD 4200) (p.vinLimit.getD 4200)))
    let cool (row : CoolRow) (rev : Bool) : Option Nat :=
      if rev ∨ row = .limit800 then some 800 else if row = .limit2100 then some 2100 else none
    (∀ (n : Fin 100) (tj : Int), n.val < 16 → tj < 105 → p.shutdown = false → p.shutOff = false →
      ∃ t, exec (.thermalSample n tj) s = .next t ∧ t.pending = s.pending ∧ t.sec = s.sec ∧ t.hw.chip = s.hw.chip ∧
        let d := p.die n.val
        let e := t.power.die n.val
        (e.throttling = true ↔ 95 ≤ tj ∨ (d.throttling = true ∧ 93 < tj)) ∧ (e.hot = true ↔ 95 ≤ tj ∨ (d.hot = true ∧ 90 < tj)) ∧ e.vset = d.vset ∧
        e.tj = BitVec.ofNat 8 tj.toNat ∧ (100 ≤ tj → e.paced = true) ∧
        t.hw.host.seq = s.hw.host.seq + (if 95 ≤ tj ∧ d.throttling = false then 1 else 0)) ∧
    (∀ (n : Fin 100) (tj : Int), 16 ≤ n.val → tj < 105 → p.shutdown = false → p.shutOff = false →
      ∃ t, exec (.thermalSample n tj) s = .next t ∧ t.pending = s.pending ∧ t.sec = s.sec ∧ t.hw.chip = s.hw.chip ∧
        (n.val ∈ t.power.hotDies ↔ 95 ≤ tj ∨ (n.val ∈ p.hotDies ∧ 93 < tj)) ∧
        t.hw.host.seq = s.hw.host.seq + (if 95 ≤ tj ∧ n.val ∉ p.hotDies then 1 else 0)) ∧
    (∀ (n : Fin 100) (tj : Int), 105 ≤ tj → p.shutdown = false → p.shutOff = false → s.hw.host.handover = false → s.hw.chip.takes = [] →
      ∃ t, exec (.thermalSample n tj) s = .next t ∧ t.pending = s.pending ∧ t.sec = s.sec ∧ begun t) ∧
    (∀ (n : Fin 100) (tj : Int), tj ≤ 85 → p.shutdown = true → p.shutOff = true → (∀ m ∈ p.aboveCool, m = n.val) → p.cool ≠ .shutdown →
      ∃ t, exec (.thermalSample n tj) s = .next t ∧ t.pending = s.pending ∧ t.sec = s.sec ∧ ended t) ∧
    (∀ (inlet outlet : Int) (flow : Nat) (rev : Bool) (row : CoolRow), s.hw.host.handover = false →
      row = (if flow < 10 then .shutdown else if 50 < inlet ∨ flow < 40 then .limit800 else if 45 < inlet ∨ flow < 60 then .limit2100
        else if inlet < 15 ∨ 100 < flow then .reported else .rated) →
      ∃ t, exec (.coolantSample inlet outlet flow rev) s = .next t ∧ t.pending = s.pending ∧ t.sec = s.sec ∧ t.power.cool = row ∧
        t.power.grant.ceil = ceil (cool row p.revLimit) ∧ t.power.mod.flow = BitVec.ofNat 8 (min 255 flow) ∧
        (p.mod.revflow = false → t.power.mod.tj2 = tempByte inlet ∧ t.power.mod.tj3 = tempByte outlet) ∧
        (row = .shutdown → p.shutdown = false → p.shutOff = false → s.hw.chip.takes = [] → begun t) ∧
        (row ≠ .shutdown → p.shutOff = false → t.hw.chip = s.hw.chip ∧
          t.hw.host.seq = s.hw.host.seq + (if row ≠ p.cool ∧ row ≠ .rated then 1 else 0)) ∧
        (row ≠ .shutdown → p.shutOff = true → p.aboveCool = [] → ended t))

/-- Reversed flow of the coolant sets REVFLOW, raises 0x1404 and limits the ceiling to 800 W; the inlet is then at J3 and the outlet at J2; forward flow ends
the limit (24:R482). -/
def Obligations.ReverseFlow : Prop :=
  ∀ (s : State),
    let p := s.power
    let ceil (limit : Option Nat) : BitVec 16 := BitVec.ofNat 16 (min (min p.grant.grant.toNat 4200) (min (limit.getD 4200) (p.vinLimit.getD 4200)))
    let row : Option Nat := match p.cool with
      | .limit800 => some 800
      | .limit2100 => some 2100
      | _ => none
    let others (t : State) : Prop := t.pending = s.pending ∧ t.sec = s.sec
    (p.mod.revflow = true → exec .reverseFlowDetect s = .next s) ∧
    (p.mod.revflow = false → ∃ t, exec .reverseFlowDetect s = .next t ∧ others t ∧ t.power.revLimit = true ∧ t.power.mod = { p.mod with revflow := true } ∧
      t.power.grant.ceil = ceil (some 800) ∧ t.hw = (s.hw.raiseHub 0x1404 0x63).raiseHub 0x1006 0x63 800) ∧
    (p.mod.revflow = true → s.hw.host.handover = false → ∀ (inlet outlet : Int) flow rev,
      ∃ t, exec (.coolantSample inlet outlet flow rev) s = .next t ∧ others t ∧ t.power.mod.tj3 = tempByte inlet ∧ t.power.mod.tj2 = tempByte outlet ∧
        (p.revLimit = true → t.power.grant.ceil = ceil (some 800))) ∧
    (∃ t, exec .forwardFlowRestored s = .next t ∧ others t ∧ t.hw = s.hw ∧ t.power.revLimit = false ∧ t.power.mod = { p.mod with revflow := false } ∧
      t.power.grant.ceil = ceil row)

/-! ### The security root (21) -/

/-- Firmware: a block enters the inactive bank or is refused with the first reason; a commit switches the banks, at once or at the end of a handover, raises
SVNFUSE and blows the revoked keys' fuses, and never otherwise; an abort discards the staging (21:R441-R445, R447).
It rests on the model's choices of logs 48, 49. -/
def Obligations.Firmware : Prop :=
  ∀ (q : Fin 64) (w0 : Word512) (s : State),
    let x := s.sec
    let b := (x.inactive.block 0).getD []
    let switched (u : State) : Prop := u.sec.bank = 1 - x.bank ∧ u.sec.version = fhVersion b ∧ u.sec.stage = 0 ∧ u.sec.recvd = 0 ∧ u.sec.commit = none ∧
      u.sec.svnFuse = (if x.svnFuse.toNat < fhSvn b then BitVec.ofNat 6 (fhSvn b) else x.svnFuse) ∧
      (∀ k, k < 4 → bit u.sec.keyRev k = (bit x.keyRev k || (fhRevoke b).testBit k)) ∧
      u.sec.ucPend = (x.ucPend || (fhComps b).any fun c => c.typ == 2 || c.typ == 3) ∧ u.sec.active.blocks = x.inactive.blocks ∧
      u.sec.inactive = x.active ∧ u.sec.lock = x.lock ∧ u.sec.debug = x.debug
    let report (u : State) : Result := ⟨0, 0, 0, put (fhVersion b).toNat 224 32 + put (b2n u.sec.ucPend) 223 1 + put u.sec.svnFuse.toNat 217 6⟩
    let released (t : State) : State := t.onHw fun h => h.onHost fun y => { y with handover := false }
    (∀ w, w = rowBits (.fwBlock q w0) → Starts s q w →
      let i := fld w 383 372
      let d := bytesAt (s.argOf w) 0 4096
      let r := x.blockReason i d
      let have_ : Prop := x.stage = 1 ∨ x.stage = 2
      (r ≠ 0 → Refuses (.fwBlock q w0) q s ⟨6, r, 0x1203, 0⟩ 1) ∧
      (r = 0 → Acts (.fwBlock q w0) q s ⟨0, 0, 0, 0⟩ fun u => SecOnly s u ∧ u.sec.bank = x.bank ∧ u.sec.active = x.active ∧ u.sec.version = x.version ∧
        u.sec.svnFuse = x.svnFuse ∧ u.sec.keyRev = x.keyRev ∧ u.sec.lock = x.lock ∧
        (i = 0 → ¬ (have_ ∧ x.inactive.block 0 = some d) → u.sec.inactive = ⟨[(0, d)], false⟩ ∧ u.sec.stage = 1 ∧ u.sec.recvd = 1) ∧
        (i ≠ 0 → x.inactive.block i = none → u.sec.inactive.blocks = x.inactive.blocks ++ [(i, d)] ∧
          u.sec.recvd = BitVec.ofNat 12 (x.inactive.blocks.length + 1) ∧ u.sec.stage = if fhBlocks b ≤ x.inactive.blocks.length + 1 then 2 else 1) ∧
        ((i = 0 ∧ have_ ∧ x.inactive.block 0 = some d) ∨ (i ≠ 0 ∧ x.inactive.block i ≠ none) → u.sec = x))) ∧
    (∀ w, w = rowBits (.fwCommit q w0) → Starts s q w →
      let i := Instr.fwCommit q w0
      let r := s.commitReason
      let plain : Prop := x.inactive.payload 1 = x.active.payload 1 ∧ x.active.block 0 ≠ none
      (r ≠ 0 → Refuses i q s ⟨6, r, 0x1204, 0⟩ 1) ∧
      (r = 0 → x.inactive.whole b = false → Refuses i q s ⟨6, 6, 0x1204, 0⟩ 1) ∧
      (r = 0 → x.inactive.whole b = true → plain → ∃ u, exec i s = .next (u.complete s.hw.host.nextCmd (report u)) ∧ SecOnly s u ∧ switched u) ∧
      (r = 0 → x.inactive.whole b = true → ¬ plain → ∃ t, exec i s = .next t ∧ SecOnly s t ∧ t.hw.host.cmds = (s.taken q w).hw.host.cmds ∧
        t.hw.host.handover = true ∧ t.sec = { x with stage := 4, commit := some s.hw.host.nextCmd })) ∧
    (∀ w, w = rowBits (.fwAbort q w0) → Starts s q w →
      (x.stage = 0 → Refuses (.fwAbort q w0) q s ⟨0, 0, 0, 0⟩ 0) ∧
      (x.stage ≠ 0 → Acts (.fwAbort q w0) q s ⟨0, 0, 0, 0⟩ fun u => SecOnly s u ∧ u.hw.host.seq = s.hw.host.seq + 1 ∧
        u.sec = { x with banks := vupd x.banks (1 - x.bank.toNat) (fun _ => ⟨[], false⟩), stage := 0, recvd := 0 })) ∧
    (s.hw.host.handover = false → exec .handoverComplete s = .next s ∧ exec .handoverTimeout s = .next s) ∧
    (∀ id, s.hw.host.handover = true → x.commit = some id → s.power.grant.held = [] → (∀ c ∈ s.hw.host.cmds, c.wait ≠ .mgmt) →
      (∃ u, exec .handoverComplete s = .next (released (u.complete id (report u))) ∧ SecOnly s u ∧ switched u) ∧
      (∃ u, exec .handoverTimeout s = .next (released (u.complete id ⟨6, 0x10, 0x1206, 0⟩)) ∧ SecOnly s u ∧
        u.hw.host.cmds = s.hw.host.cmds ∧ u.hw.host.seq = s.hw.host.seq + 1 ∧ u.sec = { x with stage := 5, commit := none }))

/-- SVNFUSE and KEYREV are one-time fuses: no step lowers them; and an image whose SVN is below SVNFUSE is refused when it is staged, at its commit and
when it would boot, and one whose key is revoked when it is staged (21:R443). -/
def Obligations.Fuses : Prop :=
  (∀ s t : State, s.Inv → step s = .next t → s.sec.svnFuse.toNat ≤ t.sec.svnFuse.toNat ∧
    ∀ k, k < 4 → bit s.sec.keyRev k = true → bit t.sec.keyRev k = true) ∧
  (∀ (q : Fin 64) (w0 : Word512) (s : State) (w : Word512), w = rowBits (.fwBlock q w0) → Starts s q w → fld w 383 372 = 0 →
    let d := bytesAt (s.argOf w) 0 4096
    fhSvn d < s.sec.svnFuse.toNat ∨ bit s.sec.keyRev (fhKeyidx d) = true → ∃ r, r ≠ 0 ∧ Refuses (.fwBlock q w0) q s ⟨6, r, 0x1203, 0⟩ 1) ∧
  (∀ (q : Fin 64) (w0 : Word512) (s : State) (w : Word512) b, w = rowBits (.fwCommit q w0) → Starts s q w → s.sec.staged = some b →
    fhSvn b < s.sec.svnFuse.toNat → Refuses (.fwCommit q w0) q s ⟨6, 4, 0x1204, 0⟩ 1) ∧
  ∀ (x : Sec) (u : StartUp) (i : Nat) b, (x.bankAt i).block 0 = some b → fhSvn b < x.svnFuse.toNat → x.bootable u i = false

/-- Attestation and debug: the responder answers what it supports on every transport that reaches it, and refuses the rest; a debug token is checked against
the nonce last read, which it uses up (21:R436-R440).
It rests on the model's choices of logs 50, 52, 63, 86. -/
def Obligations.Attestation : Prop :=
  ∀ (s : State),
    let x := s.sec
    let rsp (code : Nat) (t : Transport) (req : List Byte) : List Byte :=
      spdmAnswer code req (if code = 0xE0 then req ++ s.measurements else req)
        (65536 * connOf t + (vget x.spdm (connOf t) ⟨0, false, false⟩).served) x.draws
    let unsupported (req : List Byte) : List Byte := [0x13, 0x7F, 0x07, req.getD 1 0]
    let answered (t : State) (y : Sec) (e : Transport × List Byte) : Prop := t.pending = s.pending ∧ t.power = s.awake ∧ t.hw.chip = s.hw.chip ∧
      t.hw.links = s.hw.links ∧ t.hw.host = s.hw.host ∧ t.sec = { y with answers := y.answers ++ [e] }
    (∀ i code t r, spdmRowOf i = some (code, t, r) → let req := bytesAt r 0 1 ++ [BitVec.ofNat 8 code] ++ r.drop 2
      (s.spdmUp t = false → exec i s = .next s) ∧
      (s.spdmUp t = true → ∃ u, exec i s = .next u ∧ answered u (x.served code t) (t, rsp code t req))) ∧
    (∀ t r, (s.spdmUp t = false → exec (.spdmUnsupportedRequest t r) s = .next s) ∧
      (s.spdmUp t = true → ∃ u, exec (.spdmUnsupportedRequest t r) s = .next u ∧ answered u x (t, unsupported r))) ∧
    (∀ r, (s.mctpUp .i3c = false → exec (.debugRequest r) s = .next s) ∧
      (s.mctpUp .i3c = true → ∃ u, exec (.debugRequest r) s = .next u ∧
        answered u x (.i3c, if x.debug then Config.debugAnswer r x.dcaps.toNat else Config.debugError r))) ∧
    exec .debugNonceRead s = .next { s with sec := { x with lastNonce := some x.draws, draws := x.draws + 1 } } ∧
    ∀ (q : Fin 64) (w0 : Word512),
      (∀ w, w = rowBits (.attestSpdm q w0) → Starts s q w →
        let req := bytesAt (s.argOf w) 0 (fld w 319 304)
        let code := (req.getD 1 0).toNat
        let known := spdmCodes.contains code
        let out := if known then rsp code .ring req else unsupported req
        let y := if known then x.served code .ring else x
        (fld w 303 288 < out.length → Acts (.attestSpdm q w0) q s ⟨6, 0xD, 0, 0⟩ fun u => SecOnly s u ∧ u.sec = y ∧ u.hw.host.mem = s.hw.host.mem) ∧
        (out.length ≤ fld w 303 288 → s.hw.host.mem.wf = true → Acts (.attestSpdm q w0) q s ⟨0, 0, 0, put out.length 240 16⟩ fun u =>
          SecOnly s u ∧ u.sec = y ∧ u.hw.host.mem.readN (fld w 383 320) out.length = out)) ∧
      (∀ w, w = rowBits (.attestDebugUnlock q w0) → Starts s q w →
        let tok := s.argOf w
        let good : Prop := leAt tok 0 4 = 0x47444B31 ∧ leAt tok 8 8 = Config.hubSerial.toNat ∧
          (∃ k, x.lastNonce = some k ∧ (Config.nonce k).toNat = leAt tok 16 8) ∧ Config.verifySig Config.debugKey (bytesAt tok 0 142) (bytesAt tok 142 114) = true
        let free : Prop := s.hw.chip.ctxs = [] ∧ x.lock = false
        let used : Sec := { x with lastNonce := none, draws := x.draws + 1 }
        (¬ good → Acts (.attestDebugUnlock q w0) q s ⟨6, 0xE, 0x1207, 0⟩ fun u => SecOnly s u ∧ u.sec = used) ∧
        (good → ¬ free → Acts (.attestDebugUnlock q w0) q s ⟨6, 0xF, 0x1207, 0⟩ fun u => SecOnly s u ∧ u.sec = used) ∧
        (good → free → Acts (.attestDebugUnlock q w0) q s ⟨0, 0, 0, 0⟩ fun u => SecOnly s u ∧ u.hw.host.seq = s.hw.host.seq + 1 ∧ u.sec = { used with
          debug := true, dcaps := BitVec.ofNat 4 (leAt tok 24 1), ideKeyed := false, spdm := x.spdm.map fun c => { c with session := false } }))

/-- The owner lock: set once with its key, cleared by that key alone, with fifteen failures at most until a cold start; it refuses images, commits and debug
tokens; no other command, and no reset or loss of power, changes it (21:R449). -/
def Obligations.OwnerLock : Prop :=
  ∀ (s : State),
    let x := s.sec
    (∀ v : Word64, let key := BitVec.ofNat 32 (fld v 47 16)
      exec (.registerWrite 0x20020 true v) s = exec (if bit v 63 then .ownerLockSet v else .ownerLockClear v) s ∧
      exec (.ownerLockSet v) s = .next (if x.lock then s else { s with sec := { x with lock := true, key := key } }) ∧
      (x.lock = false ∨ x.fails = 15 → exec (.ownerLockClear v) s = .next s) ∧
      (x.lock = true → x.fails ≠ 15 → key = x.key → exec (.ownerLockClear v) s = .next { s with sec := { x with lock := false } }) ∧
      (x.lock = true → x.fails ≠ 15 → key ≠ x.key →
        exec (.ownerLockClear v) s = .next { s with sec := { x with fails := x.fails + 1 }, hw := s.hw.raiseHub 0x120A 0x65 })) ∧
    (∀ u, s.power.mod.input ≠ .qualified → ∃ t, exec (.coldStart u) s = .next t ∧ t.sec.fails = 0) ∧
    (∀ (q : Fin 64) (w0 : Word512) (i : Instr), i = .fwBlock q w0 ∨ i = .fwCommit q w0 ∨ i = .attestDebugUnlock q w0 → x.lock = true →
      Starts s q (rowBits i) → ∃ (u : State) (r c : Nat), exec i s = .next (u.complete s.hw.host.nextCmd ⟨6, r, c, 0⟩) ∧
        (c = 0x1203 ∨ c = 0x1204 ∨ c = 0x1207) ∧ u.sec = { x with lastNonce := u.sec.lastNonce, draws := u.sec.draws }) ∧
    ∀ t, step s = .next t → (t.sec.lock ≠ x.lock ∨ t.sec.key ≠ x.key) → ∃ c r, s.pending = c :: r ∧
      ((∃ v, c = .ownerLockSet v) ∨ (∃ v, c = .ownerLockClear v) ∨ ∃ off wide v, c = .registerWrite off wide v ∧ off / 8 * 8 = 0x20020)

/-! ### Configuration and resets (22, 23) -/

/-- CTR_CFG and CONFIG_APPLY: a filter block is refused with its first reason or puts each filter in force with the next GEN; a configuration block applies
each named field at its value clamped into its range, reports every field, and is stored on request (22:R455, 23:R467, R468).
It rests on the model's choices of log 53. -/
def Obligations.Configurations : Prop :=
  ∀ (q : Fin 64) (w0 : Word512) (s : State),
    (∀ w, w = rowBits (.ctrCfg q w0) → Starts s q w →
      let fs := (List.range (fld w 383 379)).map (filtEnt (s.argOf w))
      let r := filtReason (fld w 383 379) fs
      let at_ (t : State) (g : Nat) : BitVec 256 := vget t.hw.ctr.filt g 0
      (r ≠ 0 → Refuses (.ctrCfg q w0) q s ⟨6, r, 0x1301, 0⟩ 1) ∧
      (r = 0 → Acts (.ctrCfg q w0) q s ⟨0, 0, 0, 0⟩ fun u => HostOnly s u ∧
        (∀ f ∈ fs, at_ u (ftGrp f) = setFld f 239 232 (ftGen (at_ s (ftGrp f)) + 1)) ∧
        ∀ g, (∀ f ∈ fs, ftGrp f ≠ g) → at_ u g = at_ s g)) ∧
    (∀ w, w = rowBits (.configApply q w0) → Starts s q w →
      let b : Word512 := BitVec.ofNat 512 (leNat (bytesAt (s.argOf w) 0 64))
      let v := cbField b
      let named (k : Nat) : Prop := cbNames b k = true
      let rows := ((List.range 10).filter (cbNames b)).map fun k => (⟨k, (s.applyField k (v k)).2.1, v k, (s.applyField k (v k)).2.2⟩ : Applied)
      let l := rows ++ cbReserved b
      let n := min l.length (fld w 311 296)
      let bad := (l.filter fun a => a.reason != 0).length
      let c := s.power.cfg
      Acts (.configApply q w0) q s ⟨0, 0, 0, put l.length 224 32 + put n 192 32⟩ fun u => u.pending = s.pending ∧
        u.power.cfg = {
          gsrc := if cbNames b 3 && !c.gsrcDone then BitVec.ofNat 2 (min (v 3) 2) else c.gsrc
          gsrcDone := c.gsrcDone || cbNames b 3
          fsgrant := if cbNames b 4 then BitVec.ofNat 16 (max 800 (min 4200 (v 4))) else c.fsgrant
          gtmo := if cbNames b 5 then BitVec.ofNat 16 (min 60000 (v 5)) else c.gtmo
          reclaim := if cbNames b 7 then v 7 == 1 else c.reclaim
          vmax := if cbNames b 6 then BitVec.ofNat 6 (min 60 (v 6)) else c.vmax } ∧
        (u.hw.links.physid = if cbNames b 0 then BitVec.ofNat 20 (v 0) else s.hw.links.physid) ∧
        (u.hw.links.lpos = if cbNames b 1 then BitVec.ofNat 16 (v 1) else s.hw.links.lpos) ∧
        (u.hw.links.spare = if cbNames b 2 then v 2 == 1 else s.hw.links.spare) ∧
        (named 0 ∨ named 1 ∨ named 2 → u.hw.links.idValid = true ∧ u.hw.links.takeover = true) ∧
        (∀ k, k < 16 → (u.hw.stk k).scrub = if cbNames b 8 then BitVec.ofNat 16 (min 3600 (v 8)) else (s.hw.stk k).scrub) ∧
        (∀ m, m < 48 → (u.hw.port m).lanethr = if cbNames b 9 then BitVec.ofNat 4 (v 9) else (s.hw.port m).lanethr) ∧
        u.sec = (if bit w 383 then { s.sec with stored := storeFields s.sec.stored rows } else s.sec) ∧
        u.hw.host.seq = s.hw.host.seq + (if bad = 0 then 0 else 1) ∧
        (s.hw.host.mem.wf = true → (bad = 0 ∨ s.hw.host.canWrite 128 = false) →
          u.hw.host.mem.readN (fld w 375 312) (16 * n) = (l.take n).flatMap Applied.bytes))

/-- Resets: a warm reset, a Function Level Reset, a hot reset and a link that goes down end every command, take and running context and free the dies, and keep
memory; the last three put the rings and Bus Master Enable back. A per-die reset empties its die and ends its context with status 5, and completes with the
self-test; a per-port reset retrains its port (18:R374, 23:R465, R466).
It rests on the model's choices of logs 57, 58. -/
def Obligations.Resets : Prop :=
  ∀ (s : State),
    let cleared (t : State) : Prop := t.hw.chip.takes = [] ∧ t.hw.chip.hostX = [] ∧ (∀ c ∈ t.hw.chip.ctxs, c.st = .saved) ∧
      (∀ n, n < 16 → (t.hw.die n).owner = none ∧ (t.hw.die n).phase = .idle ∧ (t.hw.die n).resetting = false ∧ (t.hw.die n).dtu = []) ∧
      ((∀ c ∈ s.hw.chip.ctxs, c.arrivals = []) → ∀ k, (t.hw.stk k).mem = (s.hw.stk k).mem) ∧ t.hw.host.warms = BitVec.ofNat 16 (min 65535 (s.hw.host.warms.toNat + 1))
    (∀ (q : Fin 64) (w0 : Word512), Starts s q (rowBits (.resetWarm q w0)) → s.hw.unclaimed s.hw.host.nextCmd →
      ∃ u, exec (.resetWarm q w0) s = .next (u.complete s.hw.host.nextCmd ⟨0, 0, 0, 0⟩) ∧ u.pending = s.pending ∧ u.sec = s.sec ∧ cleared u ∧
        u.hw.host.cmds.map (·.id) = [s.hw.host.nextCmd] ∧ u.hw.host.rstLast = 4 ∧ u.hw.host.barSeen = false) ∧
    (∀ (i : Instr) (last : BitVec 4), (i = .functionLevelReset ∧ last = 5) ∨ (i = .hotReset ∧ last = 6) ∨ (i = .pcieLinkDown ∧ last = 7) →
      (s.hw.host.ready = false → exec i s = .next (if i = .pcieLinkDown then s.onHw fun h => h.onHost fun x => { x with pcieUp := false } else s)) ∧
      (s.hw.host.ready = true → ∃ t, exec i s = .next t ∧ t.pending = s.pending ∧ cleared t ∧ t.hw.host.cmds = [] ∧ t.hw.host.rstLast = last ∧
        t.hw.host.bme = false ∧ t.hw.host.d3hot = false ∧ (∀ r, r < 130 → (t.hw.ring r).st = .disabled) ∧
        t.sec = { s.sec with ideKeyed := false, spdm := s.sec.spdm.map fun c => { c with session := false } } ∧
        t.hw.host.pcieUp = (s.hw.host.pcieUp && decide (i ≠ .pcieLinkDown)))) ∧
    (∀ (q : Fin 64) (w0 : Word512) (w : Word512), w = rowBits (.resetDie q w0) → Starts s q w →
      let n := fld w 383 376
      let i := Instr.resetDie q w0
      let id := s.hw.host.nextCmd
      ((s.hw.die n).resetting = true → ∃ t, exec i s = .next t ∧ SameManaged s t ∧ t.hw.host = (s.taken q w).hw.host ∧ t.hw.chip.dies = s.hw.chip.dies) ∧
      ((s.hw.die n).resetting = false → (s.hw.die n).owner = none →
        ∃ t, exec i s = .next t ∧ t.pending = s.pending ∧ t.sec = s.sec ∧ t.hw.host = { (s.taken q w).hw.host with rstLast := 8 } ∧
          t.hw.die n = { (s.hw.die n).vacate with resetting := true, dtu := [] } ∧ (∀ m, m ≠ n → t.hw.die m = s.hw.die m) ∧ t.hw.chip.stk = s.hw.chip.stk ∧
          t.power = s.power.updDie n fun d => d.setCode 0) ∧
      (∀ num c, (s.hw.die n).resetting = false → (s.hw.die n).owner = some num → (s.hw.die n).phase = .running → s.hw.ctx? num = some c → c.st ≠ .saved →
        s.hw.take? num = none → s.hw.chip.hostX = [] →
        ∃ t, exec i s = .next t ∧ t.pending = s.pending ∧ t.sec = s.sec ∧ t.hw.host.cmds = (s.taken q w).hw.host.cmds ∧ t.hw.host.rstLast = 8 ∧
          (t.hw.die n).resetting = true ∧ (t.hw.die n).phase = .saved ∧ (t.hw.die n).owner = some num ∧
          (∃ c1, t.hw.ctx? num = some c1 ∧ c1.st = .stopping ∧ c1.ending = max c.ending 5 ∧ c1.resets = c.resets ++ [id]) ∧
          (∀ m, m < 16 → m ≠ n → (s.hw.die m).owner = some num → (s.hw.die m).phase = .running → (t.hw.die m).phase = .draining) ∧
          (t.power.die n).vset = 0)) ∧
    (∀ (d : Fin 16) pass retire engines,
      ((s.hw.die d.val).resetting = false → exec (.dieSelfTestDone d pass retire engines) s = .next s) ∧
      ((s.hw.die d.val).resetting = true → ∃ t, exec (.dieSelfTestDone d pass retire engines) s = .next t ∧ SameManaged s t ∧
        (t.hw.die d.val).resetting = false ∧ ((t.hw.die d.val).stFail = true ↔ pass = false ∨ ∃ e ∈ engines, e ≠ 0x29) ∧
        (∀ k, k < 32 → bit (t.hw.die d.val).healthy k = (bit (s.hw.die d.val).healthy k && !bit retire k)) ∧
        (∀ c ∈ s.hw.host.cmds, cmOpcode c.w = 0x14 → cmForm c.w = 1 → fld c.w 383 376 = d.val → c.wait = .running →
          (∀ x ∈ s.hw.chip.ctxs, c.id ∉ x.resets) → ∀ e ∈ t.hw.host.cmds, e.id ≠ c.id))) ∧
    (∀ (q : Fin 64) (w0 : Word512) (w : Word512), w = rowBits (.resetLinkPort q w0) → Starts s q w →
      let l := fld w 383 378
      let p := s.hw.port l
      let i := Instr.resetLinkPort q w0
      let id := s.hw.host.nextCmd
      (p.resets ≠ [] → ∃ t, exec i s = .next t ∧ SameManaged s t ∧ PortBecomes s t l { p with resets := p.resets ++ [id] } ∧
        t.hw.host = { (s.taken q w).hw.host with rstLast := 9 }) ∧
      (p.resets = [] → p.locked = true → p.st = .disabled →
        Acts i q s ⟨0, 0, 0, 0⟩ fun u => SameManaged s u ∧ PortBecomes s u l p ∧ u.hw.host.rstLast = 9 ∧ u.hw.host.seq = s.hw.host.seq + 1) ∧
      (p.resets = [] → p.locked = false → p.dir ≠ 0xF → s.hw.host.handover = false → bit s.power.ldon (l / 16) = true → s.hw.linksCalm →
        (p.st = .up ∨ p.st = .sleep ∨ p.st = .recovering → p.replay = [] ∧ p.waiting = [] ∧ (8 ≤ p.dirNow.toNat ∨
          ∃ m, m < 48 ∧ m ≠ l ∧ (s.hw.port m).dirNow = p.dirNow ∧ (s.hw.port m).st = .recovering)) →
        ∃ t, exec i s = .next t ∧ SameManaged s t ∧ t.hw.host = { (s.taken q w).hw.host with rstLast := 9 } ∧ PortBecomes s t l { p with
          st := .training, dirNow := p.dir, mwreason := 0, nakSent := false, replay := [], reps := [], waiting := [], suspect := none, quiet := false
          used := [], rxHeld := [], due := [], resets := [id] }))

/-! ### Rings, registers and PCI Express (18, 24) -/

/-- Doorbells, ring configuration and MSI-X: an index in range moves the ring and another one is reported; enabling clears HEAD and TAIL, or is reported
while the target is off; a timer or an unmasking sends what waits (18:R376-R379).
It rests on the model's choices of logs 6, 60. -/
def Obligations.Rings : Prop :=
  ∀ (s : State),
    let same (t : State) : Prop := t.pending = s.pending ∧ t.sec = s.sec ∧ t.hw.chip = s.hw.chip
    let kept (t : State) (r : Nat) : Prop := ∀ k, k < 128 → k ≠ r → t.hw.ring k = s.hw.ring k
    let calm (r : Nat) : Prop := (s.hw.ring r).held = [] ∧ (r = 128 → (s.hw.ring r).lostNew = 0)
    let sent (t : State) (v n : Nat) : Prop := alGet 0 t.hw.host.msixSent v = alGet 0 s.hw.host.msixSent v + n
    (∀ (q : Fin 64) (v : BitVec 32), let g := s.hw.ring q.val
      let x := fld v 15 0
      let ahead (i : Nat) : Nat := (i + g.size - g.tail.toNat) % g.size
      let ok : Prop := g.st = .running ∧ x < g.size ∧ ahead x ≤ ahead (g.head.toNat + g.size - 1)
      (ok → ∃ t, exec (.submissionDoorbell q v) s = .next t ∧ same t ∧ t.power = s.awake ∧ t.hw.ring q.val = { g with tail := BitVec.ofNat 16 x } ∧
        kept t q.val ∧ t.hw.host.seq = s.hw.host.seq) ∧
      (¬ ok → ∃ t, exec (.submissionDoorbell q v) s = .next t ∧ same t ∧ t.power = s.awake ∧ t.hw.ring q.val = g ∧ kept t q.val ∧
        t.hw.host.seq = s.hw.host.seq + 1)) ∧
    (∀ (k : Fin 66) (v : BitVec 32), let r := 64 + k.val
      let g := s.hw.ring r
      let x := fld v 15 0
      let ahead (i : Nat) : Nat := (i + g.size - g.head.toNat) % g.size
      let ok : Prop := g.st = .running ∧ x < g.size ∧ ahead x ≤ ahead g.tail.toNat
      (ok → calm r → ∃ t, exec (.consumerDoorbell k v) s = .next t ∧ same t ∧ t.power = s.awake ∧ t.hw.ring r = { g with head := BitVec.ofNat 16 x } ∧
        kept t r ∧ t.hw.host.seq = s.hw.host.seq ∧ t.hw.host.mem = s.hw.host.mem) ∧
      (∀ e, ok → g.held = [e] → r ≠ 128 → s.hw.host.bme = true → (g.tail.toNat + 1) % g.size ≠ x → s.hw.host.mem.wf = true →
        (g.wb.toNat + 8 ≤ g.base.toNat + 64 * g.tail.toNat ∨ g.base.toNat + 64 * g.tail.toNat + 64 ≤ g.wb.toNat) →
        ∃ t, exec (.consumerDoorbell k v) s = .next t ∧ same t ∧ (t.hw.ring r).held = [] ∧ (t.hw.ring r).tail = BitVec.ofNat 16 ((g.tail.toNat + 1) % g.size) ∧
          t.hw.host.mem.readN (g.base.toNat + 64 * g.tail.toNat) 64 = entryBytes (s.hw.host.sqHead e)) ∧
      (¬ ok → ∃ t, exec (.consumerDoorbell k v) s = .next t ∧ same t ∧ t.power = s.awake ∧ kept t r ∧ t.hw.host.seq = s.hw.host.seq + 1 ∧
        (t.hw.ring r).head = g.head)) ∧
    (∀ (r : Fin 130) (v : Word64), let g := s.hw.ring r.val
      let c := g.withCfg r.val v
      let off : Prop := r.val < 64 ∧ (s.hw.ring (64 + c.target.toNat)).en = false
      let used : Prop := 64 ≤ r.val ∧ r.val < 128 ∧ g.st ≠ .stopped ∧
        ∃ q, q < 64 ∧ ((s.hw.ring q).st = .running ∨ (s.hw.ring q).st = .draining) ∧ 64 + (s.hw.ring q).target.toNat = r.val
      (g.en = false → ¬ off → calm r.val → ∃ t, exec (.ringEnable r v) s = .next t ∧ same t ∧ t.power = s.power ∧ kept t r.val ∧
        t.hw.host.seq = s.hw.host.seq ∧ t.hw.ring r.val = { c with head := 0, tail := 0, st := .running, since := 0, waited := false, lost := 0 }) ∧
      (g.en = false → off → ∃ t, exec (.ringEnable r v) s = .next t ∧ same t ∧ kept t r.val ∧ t.hw.host.seq = s.hw.host.seq + 1 ∧ t.hw.ring r.val = c) ∧
      (g.en = true → c = g → exec (.ringEnable r v) s = .next s) ∧
      (g.en = true → c ≠ g → r.val < 128 → ∃ t, exec (.ringEnable r v) s = .next t ∧ same t ∧ kept t r.val ∧ t.hw.host.seq = s.hw.host.seq + 1 ∧
        t.hw.ring r.val = g) ∧
      (g.en = false → ∃ t, exec (.ringDisable r v) s = .next t ∧ same t ∧ kept t r.val ∧ t.hw.host.seq = s.hw.host.seq ∧ t.hw.ring r.val = c) ∧
      (g.en = true → c = g → used → ∃ t, exec (.ringDisable r v) s = .next t ∧ same t ∧ kept t r.val ∧ t.hw.host.seq = s.hw.host.seq + 1 ∧
        t.hw.ring r.val = g) ∧
      (g.en = true → c = g → ¬ used → ∃ t, exec (.ringDisable r v) s = .next t ∧ same t ∧ kept t r.val ∧ t.hw.host.seq = s.hw.host.seq ∧
        t.hw.ring r.val = { g with st := if r.val < 64 ∧ (∃ d ∈ s.hw.host.cmds, d.q.val = r.val) then .draining else .disabled })) ∧
    (∀ r : Fin 130, let g := s.hw.ring r.val
      let due : Prop := 64 ≤ r.val ∧ g.irqen = true ∧ 0 < g.since ∧ g.timeus ≠ 0
      (¬ due → exec (.msixTimerExpire r) s = .next s) ∧
      (due → ∃ t, exec (.msixTimerExpire r) s = .next t ∧ same t ∧ t.hw.ring r.val = { g with since := 0 } ∧
        (if bit s.hw.host.msixMask g.target.toNat = true ∨ s.hw.host.bme = false then bit t.hw.host.msixPend g.target.toNat = true ∧ t.hw.host.msixSent = s.hw.host.msixSent
          else sent t g.target.toNat 1))) ∧
    (∀ v : Fin 256, ∃ t, exec (.msixVectorUnmask v) s = .next t ∧ same t ∧ bit t.hw.host.msixMask v.val = false ∧
      if bit s.hw.host.msixPend v.val = true ∧ s.hw.host.bme = true then bit t.hw.host.msixPend v.val = false ∧ sent t v.val 1
      else t.hw.host.msixPend = s.hw.host.msixPend ∧ t.hw.host.msixSent = s.hw.host.msixSent)

/-- A request of the hub that host memory fails: a ring stops, with two conditions; a command ends with status 0xA; a die's agent and a take end as their
chapters say, and of the failed granule's host writes any part may have been applied; a message is only reported (18:R373, R493).
It rests on the model's choices of logs 60, 101. -/
def Obligations.HostErrors : Prop :=
  ∀ (s : State) (addr done : Nat),
    (∀ (who : Requester) (r : Nat), (∃ q : Fin 64, who = .submissionFetch q ∧ r = q.val) ∨ (∃ k : Fin 130, who = .consumerWrite k ∧ r = k.val) →
      ((s.hw.ring r).st ≠ .running → exec (.hostRequestError who addr done) s = .next s) ∧
      ((s.hw.ring r).st = .running → ∃ t, exec (.hostRequestError who addr done) s = .next t ∧ HostOnly s t ∧ (t.hw.ring r).st = .stopped ∧
        t.hw.host.seq = s.hw.host.seq + 2 ∧ ∀ k, k < 128 → k ≠ r → t.hw.ring k = s.hw.ring k)) ∧
    (∀ (q : Fin 64) (tag : BitVec 16), let mine (c : Cmd) : Bool := c.q == q && cmCid c.w == tag.toNat && (c.wait != .running || cmOpcode c.w == 4)
      (s.hw.host.cmds.find? mine = none → exec (.hostRequestError (.command q tag) addr done) s = .next s) ∧
      (∀ c, s.hw.host.cmds.find? mine = some c → c.work = .none → (∀ e ∈ s.hw.chip.hostX, e.cmd ≠ c.id) →
        ∃ u, exec (.hostRequestError (.command q tag) addr done) s =
            .next (u.complete c.id ⟨0xA, 0, 0x0107, if cmOpcode c.w = 4 then dmaResult addr (done / 4096) else 0⟩) ∧
          HostOnly s u ∧ u.hw.host.cmds = s.hw.host.cmds ∧ u.hw.host.seq = s.hw.host.seq + 1)) ∧
    (∀ (d : Fin 16) (k : Nat), ((s.hw.die d.val).owner = none ∨ (∀ x ∈ (s.hw.cx d.val).xfers, x.id ≠ k) →
        exec (.hostRequestError (.dieDma d k) addr done) s = .next s) ∧
      (∀ num x, (s.hw.die d.val).owner = some num → (s.hw.die d.val).phase = .running → x ∈ (s.hw.cx d.val).xfers → x.id = k →
        ∃ t, exec (.hostRequestError (.dieDma d k) addr done) s = .next t ∧ SameManaged s t ∧ (t.hw.die d.val).phase = .draining ∧
          t.hw.host.seq = s.hw.host.seq + 1 ∧ ∀ y ∈ (t.hw.cx d.val).xfers, y.id = k → y.stall = .failed)) ∧
    (∀ (d : Fin 16) (a : Agent), ((s.hw.die d.val).owner = none ∨ (s.hw.cx d.val).works a = false →
        exec (.hostRequestError (.dieAgent d a) addr done) s = .next s) ∧
      (∀ num, (s.hw.die d.val).owner = some num → (s.hw.die d.val).phase = .running → (s.hw.cx d.val).works a = true →
        ∃ t, exec (.hostRequestError (.dieAgent d a) addr done) s = .next t ∧ SameManaged s t ∧ (t.hw.die d.val).phase = .draining ∧
          t.hw.host.seq = s.hw.host.seq + 1)) ∧
    (∀ (n : Nat) (a : Agent) (b : Nat), s.hw.host.mem.wf = true →
      let part := (s.hw.hostPart (s.hw.agentAhead n a)).host.mem
      part.read b = s.hw.host.mem.read b ∨
        (Config.hostApplied s.hw.host.ticks b = true ∧ part.read b = (s.hw.agentAhead n a).host.mem.read b)) ∧
    (∀ ctx : BitVec 16, (s.hw.take? ctx = none → exec (.hostRequestError (.waypoint ctx) addr done) s = .next s) ∧
      (s.hw.take? ctx ≠ none → ∃ t, exec (.hostRequestError (.waypoint ctx) addr done) s = .next t ∧ SameManaged s t ∧ t.hw.take? ctx = none)) ∧
    (∀ v : Fin 256, ∃ t, exec (.hostRequestError (.msix v) addr done) s = .next t ∧ HostOnly s t ∧ t.hw.host.cmds = s.hw.host.cmds ∧
      t.hw.host.seq = s.hw.host.seq + 1)

/-- Registers and PCI Express: a write reaches the register at its offset as its own command does, clamped as its table says, and an access that BAR0 does not
support is reported once; Bus Master Enable, D3hot, the link and its errors (00:R13, R14, 02:R48, 18:R372, R374, R375, R392, 21:R446, 24:R473).
It rests on the model's choices of log 19. -/
def Obligations.Registers : Prop :=
  ∀ (s : State),
    let badAccess (t : State) : Prop := HostOnly s t ∧ t.hw.host.barSeen = true ∧ t.hw.host.seq = s.hw.host.seq + (if s.hw.host.barSeen then 0 else 1)
    (∀ off wide v, off % (if wide then 8 else 4) ≠ 0 ∨ s.reg? (off / 8 * 8) = none →
      ∃ t, exec (.registerWrite off wide v) s = .next t ∧ badAccess t) ∧
    (∀ off write, ∃ t, exec (.barUnsupportedAccess off write) s = .next t ∧ badAccess t) ∧
    (∀ (r : Fin 130) v, exec (.registerWrite (0x1008 + 0x20 * r.val) true v) s = exec (if bit v 63 then .ringEnable r v else .ringDisable r v) s) ∧
    (∀ (r : Fin 130) v, (s.hw.ring r.val).en = false → ∃ t, exec (.registerWrite (0x1000 + 0x20 * r.val) true v) s = .next t ∧ HostOnly s t ∧
      t.hw.ring r.val = { s.hw.ring r.val with base := setFld v 11 0 0 } ∧ t.hw.host.seq = s.hw.host.seq) ∧
    (∀ v, exec (.registerWrite 0x3000 true v) s = exec (.szlIdWrite v) s) ∧
    (∀ v : Word64, ∃ t, exec (.registerWrite 0x10000 true v) s = .next t ∧ t.pending = s.pending ∧ t.sec = s.sec ∧ t.hw = s.hw ∧ t.power.cfg = {
      gsrc := if s.power.cfg.gsrcDone then s.power.cfg.gsrc else BitVec.ofNat 2 (min (fld v 63 62) 2), gsrcDone := true
      fsgrant := BitVec.ofNat 16 (max 800 (min 4200 (fld v 47 32))), gtmo := BitVec.ofNat 16 (min 60000 (fld v 31 16))
      reclaim := bit v 8, vmax := BitVec.ofNat 6 (min 60 (fld v 5 0)) }) ∧
    (∀ (d : Fin 16) (v : BitVec 32), let z := (s.hw.die d.val).hzm
      ∃ t, exec (.hazardMonitorEnable d v) s = .next t ∧ SameManaged s t ∧ t.hw.host = s.hw.host ∧ (∀ n, n ≠ d.val → t.hw.die n = s.hw.die n) ∧
        t.hw.die d.val = { s.hw.die d.val with hzm := { z with
          logSize := BitVec.ofNat 4 (min 6 (fld v 7 4)), unordered := bit v 3, early := bit v 2, wrap := bit v 1, enable := true
          dropped := if z.enable then z.dropped else 0, full := z.enable && z.full, head := if z.enable then z.head else 0 } }) ∧
    (∀ v, (s.sec.stage = 3 ∨ s.sec.stage = 4 → exec (.szlIdWrite v) s = .next s) ∧
      (s.sec.stage ≠ 3 ∧ s.sec.stage ≠ 4 → ∃ t, exec (.szlIdWrite v) s = .next t ∧ SameManaged s t ∧ t.hw.chip = s.hw.chip ∧ t.hw.host = s.hw.host ∧
        t.hw.links.idValid = bit v 53 ∧ t.hw.links.spare = bit v 52 ∧ t.hw.links.lpos = BitVec.ofNat 16 (fld v 51 36) ∧
        t.hw.links.physid = BitVec.ofNat 20 (fld v 19 0) ∧
        (t.hw.links.takeover = true ↔ s.hw.links.takeover = true ∨ t.hw.links.lpos ≠ s.hw.links.lpos ∨ t.hw.links.spare ≠ s.hw.links.spare))) ∧
    exec (.busMasterEnableChange false) s = .next (s.onHw fun h => h.onHost fun x => { x with bme := false }) ∧
    ((∀ r, r < 130 → (s.hw.ring r).held = []) → (s.hw.ring 128).lostNew = 0 → s.hw.chip.hostX = [] → s.hw.host.msixPend = 0 →
      let on := s.onHw fun h => h.onHost fun x => { x with bme := true }
      (s.hw.host.cmds = [] → exec (.busMasterEnableChange true) s = .next on) ∧
      ∀ c, s.hw.host.cmds = [c] → c.wait = .bme → c.work = .none →
        exec (.busMasterEnableChange true) s = .next ((on.start runCmd c.id).afterValidate)) ∧
    exec .d3hotRequest s = .next (if s.hw.chip.ctxs = [] then s.onHw fun h => h.onHost fun x => { x with d3hot := true } else s) ∧
    exec .powerStateD0 s = .next (s.onHw fun h => h.onHost fun x => { x with d3hot := false, wake := false }) ∧
    exec .configRequestRetry s = .next s ∧
    (∀ degraded, (s.hw.host.perst = true → exec (.pcieLinkTrained degraded) s = .next s) ∧
      (s.hw.host.perst = false → ∃ t, exec (.pcieLinkTrained degraded) s = .next t ∧ HostOnly s t ∧ t.hw.host.pcieUp = true ∧
        t.hw.host.seq = s.hw.host.seq + (if degraded then 1 else 0))) ∧
    (∃ t, exec .aerUncorrectableError s = .next t ∧ HostOnly s t ∧ t.hw.host.seq = s.hw.host.seq + 1)

/-! ### Start-up and the module (21, 23, 24) -/

/-- Start-up and module hardware: a qualified input, a successful retry of the eFuse and a cold start run the start-up steps, in which each die signs its
challenge; PERST# and MRST# reset the module and keep memory, the lock and the fuses; a lost or tripped input ends everything and leaves its record (21:R435, 23:R460-R463, 24:R474-R479, R483).
It rests on the model's choices of logs 2, 10, 51, 55, 56, 59, 63, 65. -/
def Obligations.StartsAndInput : Prop :=
  ∀ (s : State) (u : StartUp),
    let m := s.power.mod
    let fed : Prop := m.input = .qualified
    let keeps (t : State) : Prop := t.pending = s.pending ∧ t.sec.svnFuse = s.sec.svnFuse ∧ t.sec.keyRev = s.sec.keyRev ∧ t.sec.lock = s.sec.lock ∧
      t.sec.key = s.sec.key ∧ t.sec.stored = s.sec.stored
    let empty (t : State) : Prop := t.hw.host.cmds = [] ∧ t.hw.chip.ctxs = [] ∧ t.hw.chip.takes = [] ∧ t.hw.host.bme = false ∧
      (∀ r, r < 130 → (t.hw.ring r).st = .disabled) ∧ ∀ n, n < 16 → (t.hw.die n).owner = none
    let up (t : State) (last : BitVec 4) : Prop := t.hw.host.rstLast = last ∧ t.power.mod.input = .qualified ∧ t.power.mod.lossRec = none ∧
      t.hw.host.ready = !t.hw.host.perst ∧ t.hw.host.bootStep = (if t.hw.host.perst then 8 else 9) ∧ t.sec.idDone = true ∧
      (∃ k, t.sec.idSigs = (List.range 99).map fun n =>
        (n, Config.ed448Sign (dieKey n) (leBytes 32 (Config.challenge k n).toNat ++ [BitVec.ofNat 8 n]))) ∧
      (t.sec.hubBad = (u.hubKeyBad || u.manifestBad)) ∧ (∀ n, n < 16 → ((t.hw.die n).unpowered = true ↔ bit u.pwrFail n = true ∨
        (∃ i, i < 64 ∧ i / 4 = n ∧ bit u.idFail (16 + i) = true) ∨ bit u.idFail (80 + n) = true)) ∧
      (s.sec.stage = 0 → t.hw.host.noDies = (!(s.sec.bootable u 0 || s.sec.bootable u 1) || u.hubKeyBad || u.manifestBad))
    let reset (last : BitVec 4) (t : State) : Prop := keeps t ∧ empty t ∧ up t last ∧ t.sec.fails = s.sec.fails ∧ t.power.mod.holdup = 0 ∧
      t.power.mod.revflow = false ∧ t.power.mod.leak = false ∧ t.power.mod.cpres = m.cpres ∧
      (u.pwrFail = 0 → u.idFail = 0 → s.hw.clean → (∀ c ∈ s.hw.chip.ctxs, c.st ≠ .stopping) → ∀ k, (t.hw.stk k).mem = (s.hw.stk k).mem)
    let off (t : State) (i : InputSt) (cause : BitVec 4) : Prop := keeps t ∧ empty t ∧ t.power.mod.input = i ∧ t.hw.host.ready = false ∧
      (m.holdup ≠ 3 → s.hw.chip.redq = [] → (∀ g, g < 256 → (s.hw.group g).issues = []) → s.hw.chip.takes = [] →
        ∃ q, t.power.mod.lossRec = some (cause, q) ∧ q = if i = .tripped then s.hw.host.seq - 1 else s.hw.host.seq)
    (fed → exec (.coldStart u) s = .next s) ∧
    (¬ fed → ∃ t, exec (.coldStart u) s = .next t ∧ keeps t ∧ empty t ∧ up t 1 ∧ t.sec.fails = 0 ∧ (∀ k, (t.hw.stk k).mem = []) ∧
      t.power.mod.holdup = if u.holdupOk then 0 else 3) ∧
    (∀ vin, fed ∨ vin.toNat < 400 ∨ 600 < vin.toNat → exec (.inputQualified vin u) s = .next s) ∧
    (∀ vin, ¬ fed → 400 ≤ vin.toNat → vin.toNat ≤ 600 → exec (.inputQualified vin u) s =
      exec (.coldStart u) { s with power := { s.power with mod := { m with vin := vin } } }) ∧
    (∀ vin, (m.input ≠ .tripped ∨ vin.toNat < 400 ∨ 600 < vin.toNat → exec (.efuseRetry vin u) s = .next s) ∧
      (m.input = .tripped → 400 ≤ vin.toNat → vin.toNat ≤ 600 → exec (.efuseRetry vin u) s = exec (.inputQualified vin u) s)) ∧
    (s.hw.host.perst = true → exec (.perstAssert u) s = .next s) ∧
    (s.hw.host.perst = false → fed → 8 ≤ s.hw.host.bootStep.toNat → ∃ t, exec (.perstAssert u) s = .next t ∧ reset 2 t ∧ t.hw.host.perst = true) ∧
    (fed → 8 ≤ s.hw.host.bootStep.toNat → ∃ t, exec (.mrstPulse u) s = .next t ∧ reset 3 t ∧ t.hw.host.perst = s.hw.host.perst) ∧
    (¬ fed ∨ s.hw.host.bootStep.toNat < 8 → exec (.mrstPulse u) s = .next s) ∧
    (s.hw.host.bootStep = 8 → ∃ t, exec .perstDeassert s = .next t ∧ HostOnly s t ∧ t.hw.host.perst = false ∧ t.hw.host.ready = true ∧
      t.hw.host.bootStep = 9 ∧ t.hw.host.seq = s.hw.host.seq + 1) ∧
    (s.hw.host.bootStep ≠ 8 → exec .perstDeassert s = .next (s.onHw fun h => h.onHost fun x => { x with perst := false })) ∧
    (fed → ∃ t, exec .inputLossEnBreak s = .next t ∧ off t .lost 2 ∧ t.power.mod.holdup = 2) ∧
    (∀ vin, fed → vin.toNat < 400 ∨ 600 < vin.toNat → ∃ t, exec (.inputVoltageLoss vin) s = .next t ∧ off t .lost 1 ∧ t.power.mod.holdup = 2 ∧
      t.power.mod.vin = vin) ∧
    (fed → ∃ t, exec .efuseTrip s = .next t ∧ off t .tripped 3 ∧ t.power.mod.trips = BitVec.ofNat 8 (min 255 (m.trips.toNat + 1)) ∧
      t.power.mod.inRow = m.inRow + 1) ∧
    (¬ fed → exec .inputLossEnBreak s = .next s ∧ (∀ vin, exec (.inputVoltageLoss vin) s = .next s) ∧ (∀ j, exec (.holdupTest j) s = .next s) ∧
      exec .holdUpCharged s = .next s ∧ exec .leakDetect s = .next s ∧ (m.input ≠ .tripped → exec .efuseTrip s = .next s)) ∧
    (fed → (∀ j, 60 ≤ j → exec (.holdupTest j) s = .next (s.onMod fun m => { m with holdup := if m.holdup = 3 then 1 else m.holdup })) ∧
      (∀ j, j < 60 → ∃ t, exec (.holdupTest j) s = .next t ∧ t.pending = s.pending ∧ t.sec = s.sec ∧ t.hw.chip = s.hw.chip ∧
        t.power.mod = { m with holdup := 3 } ∧ t.hw.host.seq = s.hw.host.seq + 1) ∧
      exec .holdUpCharged s = .next (if m.holdup = 0 then s.onMod fun m => { m with holdup := 1 } else s) ∧
      (m.leak = true → exec .leakDetect s = .next s) ∧
      (m.leak = false → ∃ t, exec .leakDetect s = .next t ∧ t.pending = s.pending ∧ t.sec = s.sec ∧ t.hw.chip = s.hw.chip ∧
        t.power.mod = { m with leak := true } ∧ t.hw.host.seq = s.hw.host.seq + 1)) ∧
    (∀ (j : Fin 12) (mated : Bool),
      (bit m.cpres j.val = mated → exec (.cablePresenceChange j mated) s = .next s) ∧
      (bit m.cpres j.val ≠ mated → ∃ t, exec (.cablePresenceChange j mated) s = .next t ∧ t.pending = s.pending ∧ t.sec = s.sec ∧
        t.power.mod = { m with cpres := setFld m.cpres j.val j.val (b2n mated) } ∧
        (∀ k, k < 4 → let p := s.hw.port (4 * j.val + k)
          (t.hw.port (4 * j.val + k)).st =
            if ¬ fed then p.st
            else if mated = false then (if p.st = .disabled then .disabled else .down)
            else if p.untrained = true ∧ bit s.power.ldon ((4 * j.val + k) / 16) = true ∧ p.locked = false then
              (if s.hw.host.handover then .down else if p.dir = 0xF then .disabled else .training)
            else p.st) ∧
        (fed → mated = true → t.hw.host.seq = s.hw.host.seq + 1))) ∧
    (∀ die : Fin 100, let idle : Prop := s.sec.idDone = true ∧ s.hw.chip.ctxs = [] ∧ die.val < 99 ∧ bit s.sec.idFail die.val = false
      (¬ idle → exec (.dieIdentityTimeout die) s = .next s) ∧
      (idle → ∃ t, exec (.dieIdentityTimeout die) s = .next t ∧ t.pending = s.pending ∧ t.hw.host.seq = s.hw.host.seq + 1 ∧
        t.sec = { s.sec with idFail := setFld s.sec.idFail die.val die.val 1, idFails := s.sec.idFails + 1 } ∧
        (die.val < 16 → (t.hw.die die.val).idFail = true ∧ (t.hw.stk die.val).mst = .off) ∧
        (96 ≤ die.val → bit t.power.ldon (die.val - 96) = false ∧ ∀ k, k < 16 → (t.hw.port (16 * (die.val - 96) + k)).st = .disabled)))

/-! ### Reset, idling, and what every step keeps -/

/-- What reset leaves: the values of the registers' tables (16 Table 16-5, 18 Table 18-5, 19 Table 19-3, 21 Table 21-7, 20:R418), and where the spec gives
none the model's choices: an empty queue, no command and no context (logs 1, 5), MSI-X masked and Bus Master Enable 0 (log 6), every core healthy (log 7),
memory with nothing listed (log 4), the lock clear (log 11). With nothing waiting a step issues words of the dies at most (log 1: the idle step is the
model's). -/
def Obligations.AtReset : Prop :=
  State.reset.Inv ∧ State.reset.pending = [] ∧
  (∀ r, r < 130 → (State.reset.hw.ring r).st = .disabled) ∧
  (State.reset.hw.host.cmds = [] ∧ State.reset.hw.chip.ctxs = [] ∧ State.reset.hw.host.seq = 1 ∧ State.reset.hw.host.bme = false ∧
    State.reset.hw.host.msixMask = BitVec.allOnes 256 ∧ State.reset.hw.host.msixPend = 0) ∧
  (∀ n, n < 16 → (State.reset.hw.die n).healthy = BitVec.allOnes 32 ∧ (State.reset.hw.die n).owner = none ∧ (State.reset.hw.stk n).scrub = 16 ∧
    (State.reset.hw.stk n).mem = []) ∧
  (∀ l, l < 48 → (State.reset.hw.port l).lanethr = 8 ∧ (State.reset.hw.port l).st = .down) ∧
  (State.reset.power.cfg.fsgrant = 1500 ∧ State.reset.power.cfg.gsrc = 2 ∧ State.reset.power.cfg.gtmo = 0 ∧ State.reset.power.cfg.reclaim = true ∧
    State.reset.power.cfg.vmax = 30 ∧ State.reset.sec.lock = false ∧ State.reset.sec.debug = false ∧ State.reset.sec.stage = 0) ∧
  ∀ s : State, s.pending = [] → ∃ t, step s = .next t ∧ SameManaged s t

/-- Whatever command runs, and on an empty queue, the invariant is kept: the power manager's configuration, grants and setpoints stay in their ranges, and a
staged image fits the fuses (19:R395, R396, R399, 21:R442). -/
def Obligations.Kept : Prop :=
  ∀ s t : State, s.Inv → step s = .next t → t.Inv
end

