-- ==== Sys2Proof/Laws/PerInstr.lean ====
section
/-! SUPPORT. What is said of every command as syntax: the bits that name its row are separate fields of its operand. -/

namespace Sys2Proof.Laws

set_option Elab.async false

/-- Fields (hi, lo, value) that lie in 512 bits, hold their values and share no bit. -/
def Fields (l : List (Nat × Nat × Nat)) : Prop :=
  (∀ b ∈ l, b.2.1 ≤ b.1 ∧ b.1 < 512 ∧ b.2.2 < 2 ^ (b.1 + 1 - b.2.1)) ∧ l.Pairwise fun a b => a.1 < b.2.1 ∨ b.1 < a.2.1

def fieldsOk : List (Nat × Nat × Nat) → Bool
  | [] => true
  | a :: r => decide (a.2.1 ≤ a.1) && decide (a.1 < 512) && decide (a.2.2 < 2 ^ (a.1 + 1 - a.2.1)) &&
      (r.all fun b => decide (a.1 < b.2.1) || decide (b.1 < a.2.1)) && fieldsOk r

theorem fields_of_ok {l : List (Nat × Nat × Nat)} (h : fieldsOk l = true) : Fields l := by
  induction l with
  | nil => exact ⟨by simp, List.Pairwise.nil⟩
  | cons a r ih =>
    simp only [fieldsOk, Bool.and_eq_true, decide_eq_true_eq, List.all_eq_true, Bool.or_eq_true] at h
    have := ih h.2
    exact ⟨by simp only [List.mem_cons, forall_eq_or_imp]; exact ⟨⟨h.1.1.1.1, h.1.1.1.2, h.1.1.2⟩, this.1⟩,
      List.pairwise_cons.2 ⟨h.1.2, this.2⟩⟩

/-- The opcode of VXE slot `k` (03 Table 3-7). -/
theorem fields_slot (k : Fin 4) (op : Nat) (h : op < 64) : Fields [(383 - 12 * k.val, 378 - 12 * k.val, op)] := by
  refine ⟨?_, by simp⟩
  intro b hb
  simp only [List.mem_singleton] at hb
  subst hb
  refine ⟨by simp only; omega, by simp only; omega, ?_⟩
  rw [show 383 - 12 * k.val + 1 - (378 - 12 * k.val) = 6 by omega]
  exact h

namespace F

/-- The bits that name the row of a command are separate fields of its operand. -/
def Statement (i : Sys2Proof.Instr) : Prop := Fields i.fixed

theorem launch (q : Fin 64) (w : Word512) : Statement (.launch q w) := fields_of_ok rfl
theorem segmentLoad (q : Fin 64) (w : Word512) : Statement (.segmentLoad q w) := fields_of_ok rfl
theorem preemptImmediate (q : Fin 64) (w : Word512) : Statement (.preemptImmediate q w) := fields_of_ok rfl
theorem preemptAtYield (q : Fin 64) (w : Word512) : Statement (.preemptAtYield q w) := fields_of_ok rfl
theorem preemptYieldTimeout (d : Fin 16) : Statement (.preemptYieldTimeout d) := fields_of_ok rfl
theorem dieDrainEnd (d : Fin 16) : Statement (.dieDrainEnd d) := fields_of_ok rfl
theorem contextSaveComplete (ctx : BitVec 16) : Statement (.contextSaveComplete ctx) := fields_of_ok rfl
theorem resume (q : Fin 64) (w : Word512) : Statement (.resume q w) := fields_of_ok rfl
theorem contextComplete (ctx : BitVec 16) : Statement (.contextComplete ctx) := fields_of_ok rfl
theorem msixTimerExpire (r : Fin 130) : Statement (.msixTimerExpire r) := fields_of_ok rfl
theorem msixVectorUnmask (v : Fin 256) : Statement (.msixVectorUnmask v) := fields_of_ok rfl
theorem dmaFlat (q : Fin 64) (w : Word512) : Statement (.dmaFlat q w) := fields_of_ok rfl
theorem dmaTransferRecord (q : Fin 64) (w : Word512) : Statement (.dmaTransferRecord q w) := fields_of_ok rfl
theorem mapLeaves (q : Fin 64) (w : Word512) : Statement (.mapLeaves q w) := fields_of_ok rfl
theorem mapTablePointer (q : Fin 64) (w : Word512) : Statement (.mapTablePointer q w) := fields_of_ok rfl
theorem unmap (q : Fin 64) (w : Word512) : Statement (.unmap q w) := fields_of_ok rfl
theorem descCreate (q : Fin 64) (w : Word512) : Statement (.descCreate q w) := fields_of_ok rfl
theorem descDestroy (q : Fin 64) (w : Word512) : Statement (.descDestroy q w) := fields_of_ok rfl
theorem redSetup (q : Fin 64) (w : Word512) : Statement (.redSetup q w) := fields_of_ok rfl
theorem wpTake (q : Fin 64) (w : Word512) : Statement (.wpTake q w) := fields_of_ok rfl
theorem wpReserve (q : Fin 64) (w : Word512) : Statement (.wpReserve q w) := fields_of_ok rfl
theorem wpRelease (q : Fin 64) (w : Word512) : Statement (.wpRelease q w) := fields_of_ok rfl
theorem wpRestoreHost (q : Fin 64) (w : Word512) : Statement (.wpRestoreHost q w) := fields_of_ok rfl
theorem wpRestoreBuddy (q : Fin 64) (w : Word512) : Statement (.wpRestoreBuddy q w) := fields_of_ok rfl
theorem waypointDeclarationTaken (ctx : BitVec 16) : Statement (.waypointDeclarationTaken ctx) := fields_of_ok rfl
theorem waypointCopyStart (ctx : BitVec 16) : Statement (.waypointCopyStart ctx) := fields_of_ok rfl
theorem waypointSeal (ctx : BitVec 16) : Statement (.waypointSeal ctx) := fields_of_ok rfl
theorem buddyRegionRequest (region : Fin 16) (pos : BitVec 16) (write : Bool) (off : Nat) (data : List Byte) : Statement (.buddyRegionRequest region pos write off data) := fields_of_ok rfl
theorem latTolDevice (q : Fin 64) (w : Word512) : Statement (.latTolDevice q w) := fields_of_ok rfl
theorem latTolRole (q : Fin 64) (w : Word512) : Statement (.latTolRole q w) := fields_of_ok rfl
theorem latTolContext (q : Fin 64) (w : Word512) : Statement (.latTolContext q w) := fields_of_ok rfl
theorem pwrGrant (q : Fin 64) (w : Word512) : Statement (.pwrGrant q w) := fields_of_ok rfl
theorem mctpGrantSet (src : GrantPath) (grant : BitVec 16) (gseq : BitVec 16) : Statement (.mctpGrantSet src grant gseq) := fields_of_ok rfl
theorem mctpGrantReportRead (src : GrantPath) : Statement (.mctpGrantReportRead src) := fields_of_ok rfl
theorem grantLapse : Statement (.grantLapse) := fields_of_ok rfl
theorem fwBlock (q : Fin 64) (w : Word512) : Statement (.fwBlock q w) := fields_of_ok rfl
theorem fwCommit (q : Fin 64) (w : Word512) : Statement (.fwCommit q w) := fields_of_ok rfl
theorem fwAbort (q : Fin 64) (w : Word512) : Statement (.fwAbort q w) := fields_of_ok rfl
theorem handoverComplete : Statement (.handoverComplete) := fields_of_ok rfl
theorem handoverTimeout : Statement (.handoverTimeout) := fields_of_ok rfl
theorem attestSpdm (q : Fin 64) (w : Word512) : Statement (.attestSpdm q w) := fields_of_ok rfl
theorem attestDebugUnlock (q : Fin 64) (w : Word512) : Statement (.attestDebugUnlock q w) := fields_of_ok rfl
theorem getVersion (t : Transport) (req : List Byte) : Statement (.getVersion t req) := fields_of_ok rfl
theorem getCapabilities (t : Transport) (req : List Byte) : Statement (.getCapabilities t req) := fields_of_ok rfl
theorem negotiateAlgorithms (t : Transport) (req : List Byte) : Statement (.negotiateAlgorithms t req) := fields_of_ok rfl
theorem getDigests (t : Transport) (req : List Byte) : Statement (.getDigests t req) := fields_of_ok rfl
theorem getCertificate (t : Transport) (req : List Byte) : Statement (.getCertificate t req) := fields_of_ok rfl
theorem challenge (t : Transport) (req : List Byte) : Statement (.challenge t req) := fields_of_ok rfl
theorem getMeasurements (t : Transport) (req : List Byte) : Statement (.getMeasurements t req) := fields_of_ok rfl
theorem keyExchange (t : Transport) (req : List Byte) : Statement (.keyExchange t req) := fields_of_ok rfl
theorem finish (t : Transport) (req : List Byte) : Statement (.finish t req) := fields_of_ok rfl
theorem heartbeat (t : Transport) (req : List Byte) : Statement (.heartbeat t req) := fields_of_ok rfl
theorem keyUpdate (t : Transport) (req : List Byte) : Statement (.keyUpdate t req) := fields_of_ok rfl
theorem endSession (t : Transport) (req : List Byte) : Statement (.endSession t req) := fields_of_ok rfl
theorem ideKmRequest (t : Transport) (req : List Byte) : Statement (.ideKmRequest t req) := fields_of_ok rfl
theorem spdmUnsupportedRequest (t : Transport) (req : List Byte) : Statement (.spdmUnsupportedRequest t req) := fields_of_ok rfl
theorem debugRequest (req : List Byte) : Statement (.debugRequest req) := fields_of_ok rfl
theorem ctrCfg (q : Fin 64) (w : Word512) : Statement (.ctrCfg q w) := fields_of_ok rfl
theorem configApply (q : Fin 64) (w : Word512) : Statement (.configApply q w) := fields_of_ok rfl
theorem resetWarm (q : Fin 64) (w : Word512) : Statement (.resetWarm q w) := fields_of_ok rfl
theorem resetDie (q : Fin 64) (w : Word512) : Statement (.resetDie q w) := fields_of_ok rfl
theorem resetLinkPort (q : Fin 64) (w : Word512) : Statement (.resetLinkPort q w) := fields_of_ok rfl
theorem dieSelfTestDone (d : Fin 16) (pass : Bool) (retire : BitVec 32) (engines : List Nat) : Statement (.dieSelfTestDone d pass retire engines) := fields_of_ok rfl
theorem commandFetch : Statement (.commandFetch) := fields_of_ok rfl
theorem fenceRelease (q : Fin 64) : Statement (.fenceRelease q) := fields_of_ok rfl
theorem submissionDoorbell (q : Fin 64) (v : BitVec 32) : Statement (.submissionDoorbell q v) := fields_of_ok rfl
theorem consumerDoorbell (k : Fin 66) (v : BitVec 32) : Statement (.consumerDoorbell k v) := fields_of_ok rfl
theorem ringEnable (r : Fin 130) (v : Word64) : Statement (.ringEnable r v) := fields_of_ok rfl
theorem ringDisable (r : Fin 130) (v : Word64) : Statement (.ringDisable r v) := fields_of_ok rfl
theorem hostRequestError (who : Requester) (addr : Nat) (bytesDone : Nat) : Statement (.hostRequestError who addr bytesDone) := fields_of_ok rfl
theorem barUnsupportedAccess (off : Nat) (write : Bool) : Statement (.barUnsupportedAccess off write) := fields_of_ok rfl
theorem registerWrite (off : Nat) (wide : Bool) (v : Word64) : Statement (.registerWrite off wide v) := fields_of_ok rfl
theorem hazardMonitorEnable (d : Fin 16) (v : BitVec 32) : Statement (.hazardMonitorEnable d v) := fields_of_ok rfl
theorem mcastForceChain (d : Fin 16) : Statement (.mcastForceChain d) := fields_of_ok rfl
theorem channelBind (k : Fin 128) (v : BitVec 32) : Statement (.channelBind k v) := fields_of_ok rfl
theorem channelAbandonClear (k : Fin 128) : Statement (.channelAbandonClear k) := fields_of_ok rfl
theorem szlIdWrite (v : Word64) : Statement (.szlIdWrite v) := fields_of_ok rfl
theorem ownerLockSet (v : Word64) : Statement (.ownerLockSet v) := fields_of_ok rfl
theorem ownerLockClear (v : Word64) : Statement (.ownerLockClear v) := fields_of_ok rfl
theorem debugNonceRead : Statement (.debugNonceRead) := fields_of_ok rfl
theorem busMasterEnableChange (on : Bool) : Statement (.busMasterEnableChange on) := fields_of_ok rfl
theorem configRequestRetry : Statement (.configRequestRetry) := fields_of_ok rfl
theorem functionLevelReset : Statement (.functionLevelReset) := fields_of_ok rfl
theorem hotReset : Statement (.hotReset) := fields_of_ok rfl
theorem pcieLinkDown : Statement (.pcieLinkDown) := fields_of_ok rfl
theorem perstAssert (u : StartUp) : Statement (.perstAssert u) := fields_of_ok rfl
theorem mrstPulse (u : StartUp) : Statement (.mrstPulse u) := fields_of_ok rfl
theorem perstDeassert : Statement (.perstDeassert) := fields_of_ok rfl
theorem coldStart (u : StartUp) : Statement (.coldStart u) := fields_of_ok rfl
theorem inputQualified (vin : BitVec 10) (u : StartUp) : Statement (.inputQualified vin u) := fields_of_ok rfl
theorem dieIdentityTimeout (die : Fin 100) : Statement (.dieIdentityTimeout die) := fields_of_ok rfl
theorem inputLossEnBreak : Statement (.inputLossEnBreak) := fields_of_ok rfl
theorem inputVoltageLoss (vin : BitVec 10) : Statement (.inputVoltageLoss vin) := fields_of_ok rfl
theorem efuseTrip : Statement (.efuseTrip) := fields_of_ok rfl
theorem efuseRetry (vin : BitVec 10) (u : StartUp) : Statement (.efuseRetry vin u) := fields_of_ok rfl
theorem holdupTest (joules : Nat) : Statement (.holdupTest joules) := fields_of_ok rfl
theorem leakDetect : Statement (.leakDetect) := fields_of_ok rfl
theorem cablePresenceChange (j : Fin 12) (mated : Bool) : Statement (.cablePresenceChange j mated) := fields_of_ok rfl
theorem reverseFlowDetect : Statement (.reverseFlowDetect) := fields_of_ok rfl
theorem forwardFlowRestored : Statement (.forwardFlowRestored) := fields_of_ok rfl
theorem powerSample (watts : Nat) (vin : BitVec 10) : Statement (.powerSample watts vin) := fields_of_ok rfl
theorem powerWindow (avg : Nat) (peak : Nat) : Statement (.powerWindow avg peak) := fields_of_ok rfl
theorem reclaimWindow (d : Fin 16) (waitPct : Nat) : Statement (.reclaimWindow d waitPct) := fields_of_ok rfl
theorem powerReport : Statement (.powerReport) := fields_of_ok rfl
theorem droopDetect (d : Fin 16) (det : Fin 64) : Statement (.droopDetect d det) := fields_of_ok rfl
theorem droopClear (d : Fin 16) (det : Fin 64) : Statement (.droopClear d det) := fields_of_ok rfl
theorem rampResume (d : Fin 16) : Statement (.rampResume d) := fields_of_ok rfl
theorem thermalSample (die : Fin 100) (tj : Int) : Statement (.thermalSample die tj) := fields_of_ok rfl
theorem thermalThrottleStep (d : Fin 16) : Statement (.thermalThrottleStep d) := fields_of_ok rfl
theorem coolantSample (inlet : Int) (outlet : Int) (flow : Nat) (reverse : Bool) : Statement (.coolantSample inlet outlet flow reverse) := fields_of_ok rfl
theorem powerPhaseFail (s : Fin 16) : Statement (.powerPhaseFail s) := fields_of_ok rfl
theorem idleStateEnter (u : IdleUnit) : Statement (.idleStateEnter u) := fields_of_ok rfl
theorem idleStateWake (u : IdleUnit) : Statement (.idleStateWake u) := fields_of_ok rfl
theorem stackWakeComplete (s : Fin 16) : Statement (.stackWakeComplete s) := fields_of_ok rfl
theorem stackOffExit (s : Fin 16) (vias : List ViaResult) : Statement (.stackOffExit s vias) := fields_of_ok rfl
theorem patrolScrubRead (s : Fin 16) (burst : Fin 67108864) (errs : ScrubFind) : Statement (.patrolScrubRead s burst errs) := fields_of_ok rfl
theorem burstReread (d : Fin 16) (s : Fin 16) (burst : Fin 67108864) (agent : Agent) (ok : Bool) : Statement (.burstReread d s burst agent ok) := fields_of_ok rfl
theorem nextWord (d : Fin 16) (w : Word512) : Statement (.nextWord d w) := fields_of_ok rfl
theorem skipLimitReached (d : Fin 16) : Statement (.skipLimitReached d) := fields_of_ok rfl
theorem loopEnd (d : Fin 16) (w : Word512) : Statement (.loopEnd d w) := fields_of_ok rfl
theorem jump (d : Fin 16) (w : Word512) : Statement (.jump d w) := fields_of_ok rfl
theorem branchIfSet (d : Fin 16) (w : Word512) : Statement (.branchIfSet d w) := fields_of_ok rfl
theorem branchIfClear (d : Fin 16) (w : Word512) : Statement (.branchIfClear d w) := fields_of_ok rfl
theorem call (d : Fin 16) (w : Word512) : Statement (.call d w) := fields_of_ok rfl
theorem returnWord (d : Fin 16) (w : Word512) : Statement (.returnWord d w) := fields_of_ok rfl
theorem bankSwitch (d : Fin 16) (w : Word512) : Statement (.bankSwitch d w) := fields_of_ok rfl
theorem endWord (d : Fin 16) (w : Word512) : Statement (.endWord d w) := fields_of_ok rfl
theorem loopCountLoad (d : Fin 16) (w : Word512) : Statement (.loopCountLoad d w) := fields_of_ok rfl
theorem vlenLoad (d : Fin 16) (w : Word512) : Statement (.vlenLoad d w) := fields_of_ok rfl
theorem dieBarrier (d : Fin 16) (w : Word512) : Statement (.dieBarrier d w) := fields_of_ok rfl
theorem contextBarrier (d : Fin 16) (w : Word512) : Statement (.contextBarrier d w) := fields_of_ok rfl
theorem barrierResolve (d : Fin 16) : Statement (.barrierResolve d) := fields_of_ok rfl
theorem semaphoreWait (d : Fin 16) (w : Word512) : Statement (.semaphoreWait d w) := fields_of_ok rfl
theorem semWaitResolve (d : Fin 16) : Statement (.semWaitResolve d) := fields_of_ok rfl
theorem semaphoreSignal (d : Fin 16) (w : Word512) : Statement (.semaphoreSignal d w) := fields_of_ok rfl
theorem remoteSignal (d : Fin 16) (w : Word512) : Statement (.remoteSignal d w) := fields_of_ok rfl
theorem remoteSignalArrive (l : Fin 48) (ch : Fin 64) (die : Fin 128) (sem : Fin 64) (amount : Fin 16) : Statement (.remoteSignalArrive l ch die sem amount) := fields_of_ok rfl
theorem streamTrigger (d : Fin 16) (w : Word512) : Statement (.streamTrigger d w) := fields_of_ok rfl
theorem smallTransfer (d : Fin 16) (w : Word512) : Statement (.smallTransfer d w) := fields_of_ok rfl
theorem yield (d : Fin 16) (w : Word512) : Statement (.yield d w) := fields_of_ok rfl
theorem flagLoadAny (d : Fin 16) (w : Word512) : Statement (.flagLoadAny d w) := fields_of_ok rfl
theorem flagLoadAll (d : Fin 16) (w : Word512) : Statement (.flagLoadAll d w) := fields_of_ok rfl
theorem flagResolution (d : Fin 16) : Statement (.flagResolution d) := fields_of_ok rfl
theorem counterRead (d : Fin 16) (w : Word512) : Statement (.counterRead d w) := fields_of_ok rfl
theorem skipCountRead (d : Fin 16) (w : Word512) : Statement (.skipCountRead d w) := fields_of_ok rfl
theorem controlWordParityError (d : Fin 16) (c : Fin 32) (w : ParityFind) : Statement (.controlWordParityError d c w) := fields_of_ok rfl
theorem wordRedelivered (d : Fin 16) (c : Fin 32) (ok : Bool) : Statement (.wordRedelivered d c ok) := fields_of_ok rfl
theorem mxuCompute (d : Fin 16) (w : Word512) : Statement (.mxuCompute d w) := fields_of_ok rfl
theorem stationaryLoad (d : Fin 16) (w : Word512) : Statement (.stationaryLoad d w) := fields_of_ok rfl
theorem stationaryLoadTransposed (d : Fin 16) (w : Word512) : Statement (.stationaryLoadTransposed d w) := fields_of_ok rfl
theorem transposeRowWrite (d : Fin 16) (w : Word512) : Statement (.transposeRowWrite d w) := fields_of_ok rfl
theorem accumulatorDrain (d : Fin 16) (w : Word512) : Statement (.accumulatorDrain d w) := fields_of_ok rfl
theorem tileReread (d : Fin 16) (agent : Agent) (addr : Nat) (data : List Byte) : Statement (.tileReread d agent addr data) := fields_of_ok rfl
theorem mxuSelfTestDone (d : Fin 16) (c : Fin 32) (pass : Bool) : Statement (.mxuSelfTestDone d c pass) := fields_of_ok rfl
theorem vxPass (d : Fin 16) (k : Fin 4) (w : Word512) : Statement (.vxPass d k w) := fields_slot k _ (by decide)
theorem vxMul (d : Fin 16) (k : Fin 4) (w : Word512) : Statement (.vxMul d k w) := fields_slot k _ (by decide)
theorem vxAdd (d : Fin 16) (k : Fin 4) (w : Word512) : Statement (.vxAdd d k w) := fields_slot k _ (by decide)
theorem vxSub (d : Fin 16) (k : Fin 4) (w : Word512) : Statement (.vxSub d k w) := fields_slot k _ (by decide)
theorem vxRsub (d : Fin 16) (k : Fin 4) (w : Word512) : Statement (.vxRsub d k w) := fields_slot k _ (by decide)
theorem vxFmai (d : Fin 16) (k : Fin 4) (w : Word512) : Statement (.vxFmai d k w) := fields_slot k _ (by decide)
theorem vxFnmai (d : Fin 16) (k : Fin 4) (w : Word512) : Statement (.vxFnmai d k w) := fields_slot k _ (by decide)
theorem vxMin (d : Fin 16) (k : Fin 4) (w : Word512) : Statement (.vxMin d k w) := fields_slot k _ (by decide)
theorem vxMax (d : Fin 16) (k : Fin 4) (w : Word512) : Statement (.vxMax d k w) := fields_slot k _ (by decide)
theorem vxAbs (d : Fin 16) (k : Fin 4) (w : Word512) : Statement (.vxAbs d k w) := fields_slot k _ (by decide)
theorem vxNeg (d : Fin 16) (k : Fin 4) (w : Word512) : Statement (.vxNeg d k w) := fields_slot k _ (by decide)
theorem vxClamp (d : Fin 16) (k : Fin 4) (w : Word512) : Statement (.vxClamp d k w) := fields_slot k _ (by decide)
theorem vxCmpeq (d : Fin 16) (k : Fin 4) (w : Word512) : Statement (.vxCmpeq d k w) := fields_slot k _ (by decide)
theorem vxCmpne (d : Fin 16) (k : Fin 4) (w : Word512) : Statement (.vxCmpne d k w) := fields_slot k _ (by decide)
theorem vxCmplt (d : Fin 16) (k : Fin 4) (w : Word512) : Statement (.vxCmplt d k w) := fields_slot k _ (by decide)
theorem vxCmple (d : Fin 16) (k : Fin 4) (w : Word512) : Statement (.vxCmple d k w) := fields_slot k _ (by decide)
theorem vxCmpgt (d : Fin 16) (k : Fin 4) (w : Word512) : Statement (.vxCmpgt d k w) := fields_slot k _ (by decide)
theorem vxCmpge (d : Fin 16) (k : Fin 4) (w : Word512) : Statement (.vxCmpge d k w) := fields_slot k _ (by decide)
theorem vxSelect (d : Fin 16) (k : Fin 4) (w : Word512) : Statement (.vxSelect d k w) := fields_slot k _ (by decide)
theorem vxFloor (d : Fin 16) (k : Fin 4) (w : Word512) : Statement (.vxFloor d k w) := fields_slot k _ (by decide)
theorem vxCeil (d : Fin 16) (k : Fin 4) (w : Word512) : Statement (.vxCeil d k w) := fields_slot k _ (by decide)
theorem vxRint (d : Fin 16) (k : Fin 4) (w : Word512) : Statement (.vxRint d k w) := fields_slot k _ (by decide)
theorem vxTrunc (d : Fin 16) (k : Fin 4) (w : Word512) : Statement (.vxTrunc d k w) := fields_slot k _ (by decide)
theorem vxFtoi (d : Fin 16) (k : Fin 4) (w : Word512) : Statement (.vxFtoi d k w) := fields_slot k _ (by decide)
theorem vxItof (d : Fin 16) (k : Fin 4) (w : Word512) : Statement (.vxItof d k w) := fields_slot k _ (by decide)
theorem vxIadd (d : Fin 16) (k : Fin 4) (w : Word512) : Statement (.vxIadd d k w) := fields_slot k _ (by decide)
theorem vxIsub (d : Fin 16) (k : Fin 4) (w : Word512) : Statement (.vxIsub d k w) := fields_slot k _ (by decide)
theorem vxImul (d : Fin 16) (k : Fin 4) (w : Word512) : Statement (.vxImul d k w) := fields_slot k _ (by decide)
theorem vxAnd (d : Fin 16) (k : Fin 4) (w : Word512) : Statement (.vxAnd d k w) := fields_slot k _ (by decide)
theorem vxOr (d : Fin 16) (k : Fin 4) (w : Word512) : Statement (.vxOr d k w) := fields_slot k _ (by decide)
theorem vxXor (d : Fin 16) (k : Fin 4) (w : Word512) : Statement (.vxXor d k w) := fields_slot k _ (by decide)
theorem vxShl (d : Fin 16) (k : Fin 4) (w : Word512) : Statement (.vxShl d k w) := fields_slot k _ (by decide)
theorem vxShr (d : Fin 16) (k : Fin 4) (w : Word512) : Statement (.vxShr d k w) := fields_slot k _ (by decide)
theorem vxSar (d : Fin 16) (k : Fin 4) (w : Word512) : Statement (.vxSar d k w) := fields_slot k _ (by decide)
theorem vxImin (d : Fin 16) (k : Fin 4) (w : Word512) : Statement (.vxImin d k w) := fields_slot k _ (by decide)
theorem vxImax (d : Fin 16) (k : Fin 4) (w : Word512) : Statement (.vxImax d k w) := fields_slot k _ (by decide)
theorem vxGset (d : Fin 16) (w : Word512) : Statement (.vxGset d w) := fields_of_ok rfl
theorem scanAdd (d : Fin 16) (w : Word512) : Statement (.scanAdd d w) := fields_of_ok rfl
theorem scanMax (d : Fin 16) (w : Word512) : Statement (.scanMax d w) := fields_of_ok rfl
theorem scanMin (d : Fin 16) (w : Word512) : Statement (.scanMin d w) := fields_of_ok rfl
theorem scanMultiply (d : Fin 16) (w : Word512) : Statement (.scanMultiply d w) := fields_of_ok rfl
theorem scanAffinePair (d : Fin 16) (w : Word512) : Statement (.scanAffinePair d w) := fields_of_ok rfl
theorem rsuSum (d : Fin 16) (w : Word512) : Statement (.rsuSum d w) := fields_of_ok rfl
theorem rsuWelford (d : Fin 16) (w : Word512) : Statement (.rsuWelford d w) := fields_of_ok rfl
theorem rsuMaxArgmax (d : Fin 16) (w : Word512) : Statement (.rsuMaxArgmax d w) := fields_of_ok rfl
theorem rsuSoftmaxNormaliser (d : Fin 16) (w : Word512) : Statement (.rsuSoftmaxNormaliser d w) := fields_of_ok rfl
theorem rsuTopk (d : Fin 16) (w : Word512) : Statement (.rsuTopk d w) := fields_of_ok rfl
theorem rsuFinalise (d : Fin 16) (w : Word512) : Statement (.rsuFinalise d w) := fields_of_ok rfl
theorem vernierLookup (d : Fin 16) (w : Word512) : Statement (.vernierLookup d w) := fields_of_ok rfl
theorem vernierSwap (d : Fin 16) (w : Word512) : Statement (.vernierSwap d w) := fields_of_ok rfl
theorem tableLoadValidate (d : Fin 16) (c : Fin 32) (bank : Fin 2) (reread : List Byte) : Statement (.tableLoadValidate d c bank reread) := fields_of_ok rfl
theorem tableLoadHeldRelease (d : Fin 16) (c : Fin 32) (bank : Fin 2) : Statement (.tableLoadHeldRelease d c bank) := fields_of_ok rfl
theorem bankLoadComplete (d : Fin 16) : Statement (.bankLoadComplete d) := fields_of_ok rfl
theorem dmaGranule (d : Fin 16) (xfer : Nat) : Statement (.dmaGranule d xfer) := fields_of_ok rfl
theorem faultSlotAcquire (d : Fin 16) : Statement (.faultSlotAcquire d) := fields_of_ok rfl
theorem dmaTransferComplete (d : Fin 16) (xfer : Nat) : Statement (.dmaTransferComplete d xfer) := fields_of_ok rfl
theorem streamItemLanded (d : Fin 16) (stream : Fin 64) : Statement (.streamItemLanded d stream) := fields_of_ok rfl
theorem smallTransferComplete (d : Fin 16) : Statement (.smallTransferComplete d) := fields_of_ok rfl
theorem ringStoreArrive (l : Fin 48) (ch : Fin 64) (store : RingStore) : Statement (.ringStoreArrive l ch store) := fields_of_ok rfl
theorem mcastTreeFault (d : Fin 16) : Statement (.mcastTreeFault d) := fields_of_ok rfl
theorem gmeProductJob (d : Fin 16) (cl : Fin 4) : Statement (.gmeProductJob d cl) := fields_of_ok rfl
theorem gmeBankedDrain (d : Fin 16) (cl : Fin 4) : Statement (.gmeBankedDrain d cl) := fields_of_ok rfl
theorem gmeRowScatterAdd (d : Fin 16) (cl : Fin 4) : Statement (.gmeRowScatterAdd d cl) := fields_of_ok rfl
theorem gmeHashDrain (d : Fin 16) (cl : Fin 4) : Statement (.gmeHashDrain d cl) := fields_of_ok rfl
theorem gmeRoundDeliver (d : Fin 16) (c : Fin 32) : Statement (.gmeRoundDeliver d c) := fields_of_ok rfl
theorem gmeRoundHandback (d : Fin 16) (c : Fin 32) : Statement (.gmeRoundHandback d c) := fields_of_ok rfl
theorem puuUpdate (d : Fin 16) (cl : Fin 4) : Statement (.puuUpdate d cl) := fields_of_ok rfl
theorem puuCoefLoad (d : Fin 16) (cl : Fin 4) : Statement (.puuCoefLoad d cl) := fields_of_ok rfl
theorem puuReleaseHold (d : Fin 16) (cl : Fin 4) : Statement (.puuReleaseHold d cl) := fields_of_ok rfl
theorem flitReceive (l : Fin 48) (f : Flit) (codeOk : Bool) : Statement (.flitReceive l f codeOk) := fields_of_ok rfl
theorem nakReceive (l : Fin 48) (ackseq : BitVec 12) : Statement (.nakReceive l ackseq) := fields_of_ok rfl
theorem hopTimeout (l : Fin 48) : Statement (.hopTimeout l) := fields_of_ok rfl
theorem laneErrorThreshold (l : Fin 48) (lane : Fin 5) (count : Nat) : Statement (.laneErrorThreshold l lane count) := fields_of_ok rfl
theorem linkRecoveryTest (l : Fin 48) (good : BitVec 5) : Statement (.linkRecoveryTest l good) := fields_of_ok rfl
theorem channelAbandonNotice (k : Fin 128) : Statement (.channelAbandonNotice k) := fields_of_ok rfl
theorem bulkHoldExpire (dir : Fin 16) : Statement (.bulkHoldExpire dir) := fields_of_ok rfl
theorem linkSignalFound (l : Fin 48) : Statement (.linkSignalFound l) := fields_of_ok rfl
theorem linkTrainingRetry (l : Fin 48) : Statement (.linkTrainingRetry l) := fields_of_ok rfl
theorem linkTrainingDone (l : Fin 48) (good : BitVec 5) (shorted : BitVec 5) : Statement (.linkTrainingDone l good shorted) := fields_of_ok rfl
theorem linkIdentityReceived (l : Fin 48) (id : Identity) : Statement (.linkIdentityReceived l id) := fields_of_ok rfl
theorem reductionIssue (g : Fin 256) : Statement (.reductionIssue g) := fields_of_ok rfl
theorem reductionCodeFlit (l : Fin 48) (f : Flit) : Statement (.reductionCodeFlit l f) := fields_of_ok rfl
theorem reductionSegmentReceive (l : Fin 48) (f : Flit) : Statement (.reductionSegmentReceive l f) := fields_of_ok rfl
theorem reductionSegmentAccepted (l : Fin 48) (f : Flit) : Statement (.reductionSegmentAccepted l f) := fields_of_ok rfl
theorem reductionRetryRequest (l : Fin 48) (f : Flit) : Statement (.reductionRetryRequest l f) := fields_of_ok rfl
theorem reductionAbortReceive (l : Fin 48) (f : Flit) : Statement (.reductionAbortReceive l f) := fields_of_ok rfl
theorem reductionComplete (g : Fin 256) : Statement (.reductionComplete g) := fields_of_ok rfl
theorem reductionHoldExpire (g : Fin 256) : Statement (.reductionHoldExpire g) := fields_of_ok rfl
theorem phaseRebalanceDone (s : Fin 16) : Statement (.phaseRebalanceDone s) := fields_of_ok rfl
theorem pcieLinkTrained (degraded : Bool) : Statement (.pcieLinkTrained degraded) := fields_of_ok rfl
theorem d3hotRequest : Statement (.d3hotRequest) := fields_of_ok rfl
theorem holdUpCharged : Statement (.holdUpCharged) := fields_of_ok rfl
theorem spareTakeoverEnd : Statement (.spareTakeoverEnd) := fields_of_ok rfl
theorem aerUncorrectableError : Statement (.aerUncorrectableError) := fields_of_ok rfl
theorem powerStateD0 : Statement (.powerStateD0) := fields_of_ok rfl

end F

end Sys2Proof.Laws
end

