-- ==== Sys2Proof/Tests/Slice0.lean ====
section
/-! SUPPORT. Tests: ill-formed commands, single steps against the spec, and for each statement operands and a state that meet its
hypotheses. -/

namespace Sys2Proof.Tests

open Sys2Proof.Machine

set_option Elab.async false

/-! ### Ill-formed commands -/

def flit0 : Flit := ⟨0, [], 0⟩

theorem test_wf_field : (Instr.jump 0 0).wf = false := by decide +kernel
theorem test_wf_opcode : (Instr.launch 0 0).wf = false := by decide +kernel
theorem test_wf_jump : (Instr.jump 0 (rowBits (.jump 0 0))).wf = true := by decide +kernel
theorem test_wf_buddy : (Instr.buddyRegionRequest 0 0 true 0 []).wf = false := by decide +kernel
theorem test_wf_access : (Instr.barUnsupportedAccess 8388608 true).wf = false := by decide +kernel
theorem test_wf_write : (Instr.registerWrite 4 true 0).wf = false := by decide +kernel
theorem test_wf_write_end : (Instr.registerWrite 8388608 true 0).wf = false := by decide +kernel
theorem test_wf_vin : (Instr.inputQualified 399 default).wf = false := by decide +kernel
theorem test_wf_vin_high : (Instr.inputQualified 601 default).wf = false := by decide +kernel
theorem test_wf_window : (Instr.powerWindow 2 1).wf = false := by decide +kernel
theorem test_wf_scrub : (Instr.patrolScrubRead 0 0 ⟨[(1, 1), (1, 2)], []⟩).wf = false := by decide +kernel
theorem test_wf_store : (Instr.ringStoreArrive 0 0 ⟨0, 0, 0, false, 0, []⟩).wf = false := by decide +kernel
theorem test_wf_flit : (Instr.flitReceive 0 ⟨put 1 43 8, [], 0⟩ true).wf = false := by decide +kernel
theorem test_wf_flit_len : (Instr.flitReceive 0 ⟨put 225 43 8, List.replicate 225 0, 0⟩ true).wf = false := by decide +kernel

/-! ### States -/

/-- A module that serves its host. -/
def up : State := { State.reset with
  hw := { State.reset.hw with host := { HostIf.init with bme := true, ready := true, bootStep := 9, perst := false } }
  power := { Power.init with mod := { Power.init.mod with input := .qualified } } }

/-- Context 1 on die 0. -/
def ctx1 : Ctx where
  num := 1
  role := 0
  ents := [⟨0, 0, 0, 0⟩]
  st := .running
  cmd := none
  pre := []
  segcnt := 1
  preLater := none
  chans := []
  tol := none
  save := []
  raised := []
  ending := 0
  stopCode := 0
  stopSeq := 0
  resets := []
  holding := false
  arrivals := []
  loads := []
  restored := false

/-- Die 0 as it runs context 1: one healthy core, 16 words in bank 0, one level of calls, counter 0 at 2. -/
def die1 : Die := { Die.init with
  healthy := 1
  owner := some 1
  phase := .running
  cx := { DieCtx.init with
    helm := { Helm.init with st := .issuing, stack := [131077], lc := #v[2, 1, 0, 0, 0, 0, 0, 0] }
    banks := #v[{ IBank.init with valid := true, words := 16 }, { IBank.init with valid := true, words := 16 }] } }

def run1 (f : Die → Die) (g : Ctx → Ctx := id) : State :=
  up.onHw fun h => h.onChip fun c => { c with dies := c.dies.set 0 (f die1), ctxs := [g ctx1] }

def live : State := run1 id

/-- The same with Helm or the context's part changed. -/
def withHelm (f : Helm → Helm) : State := run1 fun d => { d with cx := { d.cx with helm := f d.cx.helm } }
def withCx (f : DieCtx → DieCtx) : State := run1 fun d => { d with cx := f d.cx }

/-! ### The conditions of words and commands as tests -/

theorem vget_mem_or {α : Type} {n : Nat} (v : Vector α n) (i : Nat) (d : α) : vget v i d ∈ v.toList ∨ vget v i d = d := by
  by_cases h : i < n
  · left; rw [vget_lt v d h]; exact Vector.mem_toList_iff.2 (Vector.getElem_mem h)
  · right; exact vget_ge v d (by omega)

theorem clean_of {h : Hw} (a : (h.chip.stk.toList.all fun k => k.errs == []) = true) : h.clean := by
  intro k
  rcases vget_mem_or h.chip.stk k Stack.init with m | m
  · exact beq_iff_eq.1 (List.all_eq_true.1 a _ m)
  · exact (congrArg Stack.errs m).trans rfl

def fetchesB (h : Hw) (n : Nat) : Bool :=
  h.canIssue n && ((h.cx n).bank (h.cx n).helm.bank.toNat).valid &&
    decide ((h.cx n).helm.index.toNat < ((h.cx n).bank (h.cx n).helm.bank.toNat).words.toNat) && (h.cx n).pre == .none

theorem fetches_of {h n} (b : fetchesB h n = true) : Fetches h n := by
  simp only [fetchesB, Bool.and_eq_true, decide_eq_true_eq, beq_iff_eq] at b
  exact ⟨b.1.1.1, b.1.1.2, b.1.2, b.2⟩

def readyB (h : Hw) (n : Nat) (w : Word512) : Bool :=
  (checkWord (h.legalEnv n) w).isNone && decide (cwClass w ≠ 5 ∨ (h.cx n).helm.stack.length < 8) &&
    decide (cwClass w ≠ 6 ∨ (h.cx n).helm.stack ≠ []) &&
    decide (cwClass w ≠ 7 ∨ ((h.cx n).bank (1 - (h.cx n).helm.bank.toNat)).valid = true) &&
    (decide (cwClass w ≠ 3 ∧ cwClass w ≠ 4) || (flagLoads (h.cx n).helm (cwFlag w) (h.cx n).helm.step).all fun q => h.flagKnown n (h.cx n).helm.step q) &&
    ((h.healthyCores n).all fun i => decide (((h.cx n).core i).fifo.length < 64)) &&
    decide (cwBar w ≠ 1 ∨ h.barReady n = true) && decide (cwBar w ≠ 2 ∨ h.ctxBarReady n = true ∧ ∀ d ∈ h.diesOf n, d = n) &&
    decide (cwSemop w ≠ 1 ∨ cwSemn w + 1 ≤ ((h.cx n).sem (cwSem w)).toNat)

theorem issuable_of {h n w} (a : fetchesB h n = true) (b : readyB h n w = true) : Issuable h n w := by
  simp only [readyB, Bool.and_eq_true, Bool.or_eq_true, decide_eq_true_eq, List.all_eq_true, Option.isNone_iff_eq_none] at b
  obtain ⟨⟨⟨⟨⟨⟨⟨⟨b1, b2⟩, b3⟩, b4⟩, b5⟩, b6⟩, b7⟩, b8⟩, b9⟩ := b
  exact ⟨fetches_of a, b1, fun c => b2.resolve_left fun n => n c, fun c => b3.resolve_left fun n => n c, fun c => b4.resolve_left fun n => n c,
    fun c q hq => (b5.resolve_left fun n => c.elim n.1 n.2) q hq, b6, fun c => b7.resolve_left fun n => n c,
    fun c => b8.resolve_left fun n => n c, fun c => b9.resolve_left fun n => n c⟩

def startsB (s : State) (q : Fin 64) (w : Word512) : Bool :=
  (s.hw.host.cmds.all fun c => decide (c.id < s.hw.host.nextCmd) && c.q != q && c.wait == .running) && s.hw.host.bme && cmStatic w == 0 &&
    s.hw.cmReason w (s.argOf w) == 0 && !s.hw.host.handover && !s.sec.recovery && s.sec.stage != 3 && s.sec.stage != 4

theorem starts_of {s q w} (b : startsB s q w = true) : Starts s q w := by
  simp only [startsB, Bool.and_eq_true, List.all_eq_true, decide_eq_true_eq, beq_iff_eq, bne_iff_ne, Bool.not_eq_true'] at b
  obtain ⟨⟨⟨⟨⟨⟨⟨b1, b2⟩, b3⟩, b4⟩, b5⟩, b6⟩, b7⟩, b8⟩ := b
  exact ⟨fun c h => (b1 c h).1.1, fun c h => (b1 c h).1.2, fun c h => (b1 c h).2, b2, b3, b4, b5, b6, b7, b8⟩

/-! ### Control words -/

theorem wit_issue (i : Instr) (hi : i ∈ [Instr.nextWord 0 0, .loopEnd 0 0, .jump 0 0, .branchIfSet 0 0, .branchIfClear 0 0, .call 0 0, .returnWord 0 0,
    .bankSwitch 0 0, .endWord 0 0]) : wordDie i = some 0 ∧ Issuable live.hw 0 (rowBits i) ∧ (live.hw.cx 0).helm.redo = none ∧
      ((live.hw.cx 0).core 0).split = none ∧ live.hw.clean := by
  fin_cases hi <;> exact ⟨rfl, issuable_of (by decide +kernel) (by decide +kernel), rfl, rfl, clean_of (by decide +kernel)⟩

def fullStack : State := withHelm fun x => { x with stack := List.replicate 8 0 }
def noStack : State := withHelm fun x => { x with stack := [] }

theorem wit_call_stops : fullStack.hw.canIssue 0 = true ∧ (fullStack.hw.die 0).owner = some 1 ∧
    checkWord (fullStack.hw.legalEnv 0) (rowBits (.call 0 0)) = none ∧ cwClass (rowBits (.call 0 0)) = 5 ∧ fetchesB fullStack.hw 0 = true ∧
    8 ≤ (fullStack.hw.cx 0).helm.stack.length := by decide +kernel

theorem wit_return_stops : noStack.hw.canIssue 0 = true ∧ checkWord (noStack.hw.legalEnv 0) (rowBits (.returnWord 0 0)) = none ∧
    cwClass (rowBits (.returnWord 0 0)) = 6 ∧ (noStack.hw.cx 0).helm.stack = [] := by decide +kernel

theorem wit_loop_zero : cwClass (rowBits (.loopEnd 0 (BitVec.ofNat 512 (put 7 489 3)))) = 1 ∧
    vget (live.hw.cx 0).helm.lc (cwLc (rowBits (.loopEnd 0 (BitVec.ofNat 512 (put 7 489 3))))) 0 = 0 := by decide +kernel

theorem wit_skip : Fetches live.hw 0 ∧ (checkWord (live.hw.legalEnv 0) (rowBits (.nextWord 0 1))).isSome = true ∧
    ∀ k ∈ live.hw.healthyCores 0, ((live.hw.cx 0).core k).fifo.length < 64 := ⟨fetches_of (by decide +kernel), by decide +kernel, by decide +kernel⟩

/-- A wait on semaphore 0, which holds 0. -/
theorem wit_wait_sem : let w := rowBits (.semaphoreWait 0 0)
    Fetches live.hw 0 ∧ checkWord (live.hw.legalEnv 0) w = none ∧ (live.hw.cx 0).helm.redo = none ∧ NotYet live.hw 0 w .sem ∧
      ∀ y : HeldWhy, y.rank < HeldWhy.sem.rank → ¬ NotYet live.hw 0 w y := by
  refine ⟨fetches_of (by decide +kernel), by decide +kernel, rfl, ⟨by decide +kernel, by decide +kernel⟩, ?_⟩
  intro y h
  cases y
  · exact fun n => absurd n.1 (by decide +kernel)
  · exact fun n => absurd n.1 (by decide +kernel)
  · exact fun n => absurd n (by show ¬ ∃ i ∈ live.hw.healthyCores 0, 64 ≤ ((live.hw.cx 0).core i).fifo.length; decide +kernel)
  · exact absurd h (by decide)
  · exact fun n => absurd n.1 (by decide +kernel)
  · exact fun n => absurd n.1 (by decide +kernel)

/-- A switch to bank 1, which is still loading. -/
def loadingBank : State := withCx fun x => { x with
  banks := x.banks.set 1 IBank.init, loads := [{ bank := 1, seg := 0, drv := false, held := false, started := true, next := 0, retried := false, cmd := none, stall := .run, after := none }] }

theorem wit_wait_bank : let w := rowBits (.bankSwitch 0 0)
    Fetches loadingBank.hw 0 ∧ checkWord (loadingBank.hw.legalEnv 0) w = none ∧ (loadingBank.hw.cx 0).loadOf 1 = true ∧ NotYet loadingBank.hw 0 w .bank ∧
      ∀ y : HeldWhy, ¬ y.rank < HeldWhy.bank.rank :=
  ⟨fetches_of (by decide +kernel), by decide +kernel, by decide +kernel, ⟨by decide +kernel, by decide +kernel⟩, by intro y; cases y <;> decide⟩

/-- A die that holds a wait on semaphore 0, which now holds 1. -/
def semHeld : State := withCx fun x => { x with
  helm := { x.helm with held := some (rowBits (.semaphoreWait 0 0), .sem) }, sems := x.sems.set 0 1 }

theorem wit_wait_ends : (semHeld.hw.cx 0).helm.held = some (rowBits (.semaphoreWait 0 0), .sem) ∧ (semHeld.hw.cx 0).helm.st = HeldWhy.sem.shown ∧
    waitEnd 0 .sem = some (.semWaitResolve 0) ∧ Issuable (semHeld.hw.letGo 0) 0 (rowBits (.semaphoreWait 0 0)) :=
  ⟨rfl, rfl, rfl, issuable_of (by decide +kernel) (by decide +kernel)⟩

/-- The last word of the segment has been issued; the other bank holds nothing. -/
def atEnd : State := withHelm fun x => { x with index := 16 }
def oneBank : State := withCx fun x => { x with banks := x.banks.set 1 IBank.init }

theorem wit_past_end : atEnd.hw.canIssue 0 = true ∧ (atEnd.hw.die 0).owner = some 1 ∧ ((atEnd.hw.cx 0).bank 0).valid = true ∧
    ¬ (atEnd.hw.cx 0).helm.index.toNat < ((atEnd.hw.cx 0).bank 0).words.toNat := by decide +kernel

theorem wit_no_bank : let w := rowBits (.bankSwitch 0 0)
    oneBank.hw.canIssue 0 = true ∧ fetchesB oneBank.hw 0 = true ∧ checkWord (oneBank.hw.legalEnv 0) w = none ∧ cwClass w = 7 ∧
      ((oneBank.hw.cx 0).bank 1).valid = false ∧ (oneBank.hw.cx 0).loadOf 1 = false := by decide +kernel

theorem wit_skip_limit : let s := withHelm fun x => { x with st := .stopped, skips := 256 }
    (s.hw.cx 0).helm.st = .stopped ∧ (s.hw.cx 0).helm.skips = 256 ∧ (s.hw.cx 0).stop = 0 ∧ (s.hw.die 0).owner = some 1 := by decide +kernel

theorem wit_yield_timeout : let s := withCx fun x => { x with pre := .atYield 0 }
    (s.hw.cx 0).pre = .atYield 0 ∧ (s.hw.die 0).phase = .running ∧ (s.hw.die 0).owner = some 1 := by decide +kernel

theorem wit_parity : let w := rowBits (.jump 0 0)
    Issuable live.hw 0 w ∧ (live.hw.cx 0).helm.redo = none ∧ cwBar w = 0 ∧ cwSemop w ≠ 1 ∧ bit (live.hw.die 0).healthy 0 = true ∧
      ((live.hw.cx 0).core 0).fifo = [] ∧ ((live.hw.cx 0).core 0).split = none :=
  ⟨issuable_of (by decide +kernel) (by decide +kernel), by decide +kernel, by decide +kernel, by decide +kernel, by decide +kernel, by decide +kernel, by decide +kernel⟩

def entry0 : FifoEntry := ⟨rowBits (.jump 0 0), false, 0, 0, false⟩

theorem wit_redelivered : let s := withCx fun x => { x with cores := x.cores.set 0 { Core.init with fifo := [{ entry0 with bad := true }], await := true } }
    ((s.hw.cx 0).core 0).await = true ∧ ((s.hw.cx 0).core 0).fifo = [{ entry0 with bad := true }] ∧ (s.hw.die 0).owner = some 1 ∧
      (s.hw.die 0).phase = .running ∧ (s.hw.cx 0).helm.held = none ∧ ((live.hw.cx 0).core 0).await = false ∧
      (s.hw.chip.stk.toList.all fun k => k.errs == []) = true := by decide +kernel

/-! ### One word on one core -/

theorem wit_core : (Core.init.exec 0 entry0).isSome = true := by decide +kernel

/-- A word with VLEN 5 in IMM. -/
def vlen5 : Word512 := rowBits (.vlenLoad 0 5)

theorem wit_vlen : Issuable live.hw 0 vlen5 ∧ cwImmuse vlen5 = 3 ∧ cwImm vlen5 = 5 ∧
    ∀ g ∈ ((live.hw.cx 0).core 0).commit.commitPred.guards, g.st ≠ .unverified :=
  ⟨issuable_of (by decide +kernel) (by decide +kernel), by decide +kernel, by decide +kernel, by decide +kernel⟩

theorem test_vlen : ((Core.init.exec 0 ⟨vlen5, false, 0, 0, false⟩).map fun o => (o.core.vlen, o.core.pos)) = some (5, 0) := by decide +kernel

/-- A tile that fails verification where AG0 reads. -/
theorem wit_guard : let k := { Core.init with guards := [⟨0, 64, 0, .unverified⟩] }
    k.commit.commitPred.guards.any (fun g => g.st == .unverified) = true := by decide +kernel

theorem wit_distances : let k := { Core.init with spadPend := [⟨6, [(0, 7)]⟩], accPend := [⟨10, 3, false, [1]⟩] }
    k.spadPend = [⟨6, [(0, 7)]⟩] ∧ k.accPend = [⟨10, 3, false, [1]⟩] ∧ k.bad = [] ∧ smWf (0 : Word32) none k.acc = true := by decide +kernel

theorem wit_matrix : mxMode (rowBits (.mxuCompute 0 0)) = 1 ∧ mxMode (rowBits (.stationaryLoad 0 0)) = 2 ∧ mxMode (rowBits (.stationaryLoadTransposed 0 0)) = 3 ∧
    mxTwr (rowBits (.transposeRowWrite 0 0)) = 1 ∧ mxDrn (rowBits (.accumulatorDrain 0 0)) = 1 ∧ Core.init.bad = [] ∧ Core.init.ttile.wf = true ∧
    Core.init.stat.wf = true ∧ (∀ f, f ≤ 5 → 0 < mxK f) := by
  refine ⟨by decide +kernel, by decide +kernel, by decide +kernel, by decide +kernel, by decide +kernel, rfl, rfl, rfl, by decide +kernel⟩

theorem wit_mxu_test : let s := run1 fun d => { d with owner := none, phase := .idle, cx := { d.cx with cores := d.cx.cores.set 0 { Core.init with mxuFail := true } } }
    ((s.hw.cx 0).core 0).mxuFail = true ∧ (s.hw.die 0).owner = none := by decide +kernel

theorem wit_floats : isNan32 0x7FC00000 = true ∧ isNan32 0x3F800000 = false ∧ isNan32 0xBF800000 = false ∧ isZero32 0 = true ∧ isZero32 0x80000000 = true := by
  decide +kernel

theorem test_max : (vxOp 0x09 ⟨0x3F800000, false⟩ ⟨0xC0000000, false⟩ 0 false).1 = .f 0x3F800000 := by decide +kernel
theorem test_add : (vxOp 0x03 ⟨0x3F800000, false⟩ ⟨0x40000000, false⟩ 0 false).1 = .f 0x40400000 := by decide +kernel

theorem wit_vxe : vxN (rowBits (.vxAdd 0 0 0)) ≠ 0 ∧ slotOp (vxSlot (rowBits (.vxAdd 0 0 0)) 0) ≠ 0x3F ∧ vxN (rowBits (.vxGset 0 0)) ≠ 0 ∧
    slotOp (vxSlot (rowBits (.vxGset 0 0)) 0) = 0x3F ∧ vxCx (rowBits (.vxAdd 0 0 0)) = 0 := by decide +kernel

theorem wit_scan : scOp (rowBits (.scanAdd 0 0)) ≠ 0 ∧ scSeg (rowBits (.scanAdd 0 0)) = 0 ∧ scCarry (rowBits (.scanAdd 0 0)) = 0 ∧
    1 ≤ rsuOp (rowBits (.rsuSum 0 0)) ∧ rsuOp (rowBits (.rsuTopk 0 0)) ≤ 5 ∧ rsuOp (rowBits (.rsuFinalise 0 0)) = 6 := by decide +kernel

theorem wit_vernier : vfBank (rowBits (.vernierLookup 0 0)) < 2 ∧ vfEn (rowBits (.vernierLookup 0 0)) = 1 ∧ vfSwap (rowBits (.vernierSwap 0 0)) = 1 ∧
    (({ Core.init with vtab := Core.init.vtab.set 0 { VBank.init with sst := .ready } } : Core).bank 0).sst = .ready := by decide +kernel


/-! ### Tables, banks and stacks -/

def xfer0 : Xfer where
  id := 1
  stream := 0
  item := 0
  core := 0
  rank := 0
  rcd := 0
  srcD := 0
  dstD := 0
  lst := 0
  win := 0
  origin := []
  sp := 0
  snap := []
  snapGuards := []
  next := 0
  total := 1
  stall := .run
  dropped := false
  chained := false
  ack := none

/-- Stack 0 with the table of root 0, which maps 32 MiB from address 0 to its own offset 0. -/
def mapMem : Memory := (Memory.writeLE [] 0 8 (2 ^ 63 + 16)).writeLE 65536 8 (2 ^ 63 + 2 ^ 60 + 2 ^ 58 + 0x200)

def withStk (s : State) (f : Stack → Stack) : State := s.onHw fun h => h.onChip fun c => { c with stk := c.stk.set 0 (f Stack.init) }
def withDie (s : State) (f : Die → Die) : State := s.onHw fun h => h.onChip fun c => { c with dies := c.dies.set 0 (f (h.die 0)) }
def mapped (s : State) : State := withStk s fun k => { k with mem := mapMem }
def withCore (f : Core → Core) : State := withCx fun x => { x with cores := x.cores.set 0 (f Core.init) }
def withXfer (x : Xfer) : State := withCx fun c => { c with xfers := [x] }

/-- A load of bank 0 of core 0 has arrived. -/
def arrivedS : State := withCx fun x => { x with
  xfers := [{ xfer0 with rcd := BitVec.ofNat 512 (put 4 468 4 + put 1 410 32), next := 1 }]
  cores := x.cores.set 0 { Core.init with vtab := Core.init.vtab.set 0 { VBank.init with sst := .loading } } }

theorem wit_table_load : ((arrivedS.hw.cx 0).core 0).vtab[0].sst = .loading ∧ arrivedS.hw.tableArrived 0 0 0 = true ∧ arrivedS.hw.chip.hostX = [] ∧
    arrivedS.hw.host.cmds = [] := by decide +kernel

theorem wit_table_held : let s := withCore fun k => { k with vtab := k.vtab.set 0 { VBank.init with sst := .held } }
    ((s.hw.cx 0).core 0).vtab[0].sst = .held ∧ ((s.hw.cx 0).core 0).oldLookups ((s.hw.cx 0).core 0).vtab[0] = false := by decide +kernel

def load0 : LoadReq := { bank := 1, seg := 0, drv := false, held := false, started := true, next := 0, retried := false, cmd := none, stall := .run, after := none }
def loadS : State := mapped (withCx fun x => { x with loads := [load0] })

/-- An image of zeros: its segment 0 is empty, and its CRC holds. -/
theorem wit_bank_load : let w : Who := ⟨.program, 1, srcBytes 0 0xFF 0x09⟩
    loadS.hw.agentsRun 0 = true ∧ (loadS.hw.cx 0).loads = [load0] ∧ (loadS.hw.cx 0).helm.held = none ∧
      (match Hw.loadPages 0 w (pagesOfRange 112 4) [] loadS.hw with
      | .ok t0 => match Hw.loadPages 0 w (pagesOfRange (leNat t0.1) 16) [] t0.2 with
        | .ok t1 =>
          let e := segEntry (leNat t1.1)
          match Hw.loadPages 0 w (pagesOfRange e.offset (64 * e.words)) [] t1.2 with
          | .ok t2 => crc32c t2.1 == e.crc
          | .error _ => false
        | .error _ => false
      | .error _ => false) = true := by decide +kernel

theorem wit_stacks : let s := withStk up fun k => { k with mst := .off }
    let r := withStk up fun k => { k with mst := .retention }
    (s.hw.stk 0).mst = .off ∧ (s.hw.die 0).unpowered = false ∧ (s.hw.die 0).idFail = false ∧ (r.hw.stk 0).mst = .retention ∧ (up.hw.stk 0).mst = .on ∧
      ((⟨0, 0, [1, 2, 3]⟩ : ViaResult).dead.map (·.val)).Nodup := by decide +kernel

/-- One wrong symbol of a burst is corrected; with the burst uncorrectable nothing is. -/
theorem wit_scrub : let s := withStk up fun k => { k with bad := [1] }
    (s.hw.stk 0).mst = .on ∧ (s.hw.stk 0).scrub ≠ 0 ∧ (s.hw.stk 0).mem.wf = true ∧ (s.hw.stk 0).burstBad 0 = false ∧ (s.hw.stk 0).burstBad 1 = true ∧
      rsDecode [] [(3, 5)] = some [(3, 5)] := by decide +kernel

/-- A transfer that waits for the re-read of burst 1 of stack 0, or of a tile. -/
def burstS : State := withStk (withXfer { xfer0 with stall := .burst 0 1 }) fun k => { k with bad := [1] }

theorem wit_reread : (burstS.hw.die 0).owner = some 1 ∧ (burstS.hw.cx 0).stallOf (.xfer 1) = .burst 0 1 ∧ (burstS.hw.stk 0).chanFailed 64 = false ∧
    (burstS.hw.die 0).phase = .running ∧ ((withXfer { xfer0 with stall := .tile .mem 64 1 [] }).hw.cx 0).stallOf (.xfer 1) = .tile .mem 64 1 [] := by decide +kernel

/-- Core 0 stands before a word that reads a tile which fails. -/
def coreTileS : State := withCore fun k => { k with
  spad := [(0, 1)], guards := [⟨0, 64, 0, .unverified⟩], fifo := [⟨rowBits (.mxuCompute 0 (BitVec.ofNat 512 (put 1 223 1))), false, 0, 0, false⟩] }

theorem wit_core_tile : coreTileS.hw.coreAtTile 0 0 0 = true ∧ (coreTileS.hw.die 0).phase = .running ∧
    (((coreTileS.hw.cx 0).core 0).guards.all fun g => g.base != 0 || !(decide (([] : List Byte).length = g.size) && tileVerify g.fmt [])) = true := by
  decide +kernel

/-! ### Movement of data -/

def granule0 (s : State) (x : Xfer) : Except Stop (Unit × GSt) := (x.granule ⟨0, (s.hw.cx 0).root, x.who 0, x.stall.rereadsOf⟩).run { h := s.hw }

def stopOf (r : Except Stop (Unit × GSt)) : Option Stop := match r with
  | .ok _ => none
  | .error e => some e

/-- With address 0 mapped the granule is done; with nothing mapped it faults. -/
theorem wit_granule : let s := mapped (withXfer xfer0)
    (s.hw.cx 0).xfers.find? (fun t => t.id == 1) = some xfer0 ∧ s.hw.agentsRun 0 = true ∧ xfer0.stall.ready = true ∧ xfer0.next < xfer0.total ∧
      (s.hw.engineNext 0 (xfer0.stream.val % 8)).map (·.id) = some 1 ∧ stopOf (granule0 s xfer0) = none ∧
      stopOf (granule0 (withXfer xfer0) xfer0) = some (.fault 0 1 1 1) := by decide +kernel

/-- The transfer tries again after a map, with the address mapped or not. -/
def retryX : Xfer := { xfer0 with stall := .retry 0 1 1 1 (some 0) }

theorem wit_granule_retry : let s := mapped (withXfer retryX)
    (s.hw.engineNext 0 0).map (·.id) = some 1 ∧ ((withXfer retryX).hw.engineNext 0 0).map (·.id) = some 1 ∧ stopOf (granule0 s retryX) = none ∧
      stopOf (granule0 (withXfer retryX) retryX) = some (.fault 0 1 1 1) := by decide +kernel

def doneX : Xfer := { xfer0 with next := 1, rcd := BitVec.ofNat 512 (put 5 365 6 + put 1 364 1) }
def stream0 : StreamSt where
  slot := 0
  rcd := BitVec.ofNat 512 (put 1 454 32 + put 7 448 6 + put 1 447 1)
  isOpen := true
  trig := []
  issued := []
  landed := [(0, 2)]
  signalled := 1
  started := 0
  q := none
  lastStart := none
  snaps := []
def small0 : Small := { id := 1, step := 0, slot := 0, rcd := 0, parts := [], stall := .run, sent := false, ack := none }
def endsS : State := withCx fun x => { x with
  xfers := [doneX], streams := [(0, stream0)], smalls := [small0], waitq := [.xfer 2], fslots := [0] }

theorem wit_ends : (endsS.hw.die 0).owner = some 1 ∧ (endsS.hw.die 0).phase = .running ∧ doneX.total ≤ doneX.next ∧ endsS.hw.validated 0 doneX = true ∧
    (endsS.hw.cx 0).stream? 0 = some stream0 ∧ stream0.signalled < endsS.hw.leastLanded 0 stream0 ∧ (endsS.hw.smallServed 0 small0).length ≤ 0 ∧
    endsS.hw.ackedUpTo doneX.ack = true ∧ (endsS.hw.cx 0).earlier doneX = false ∧ endsS.hw.ackedUpTo (endsS.hw.smallAck small0) = true ∧
    (endsS.hw.cx 0).sigs = [] ∧ (endsS.hw.cx 0).freeSlot = some 1 := by decide +kernel

def waitX : Xfer := { xfer0 with stall := .fault 0 1 1 1 none }
def waitS : State := withCx fun x => { x with xfers := [waitX], waitq := [.xfer 1], fslots := [0] }

theorem wit_slot : (waitS.hw.cx 0).waitq = [.xfer 1] ∧ (waitS.hw.cx 0).freeSlot = some 1 ∧ (waitS.hw.cx 0).stallOf (.xfer 1) = .fault 0 1 1 1 none := by decide +kernel

/-- Channel 3 of direction 0 bound to context 1, or as `b` says. -/
def withChan (s : State) (b : ChBind) : State := s.onHw fun h => { h with links := { h.links with chb := h.links.chb.set 3 b } }
def store0 : RingStore := ⟨0, 0, 64, false, 0, [1, 2, 3]⟩

theorem wit_arrivals : let s := withChan live ⟨true, true, false, 1, 0, 0, 0, []⟩
    s.hw.linkChan 0 3 = some 3 ∧ (s.hw.chb 3).opened = true ∧ s.hw.ctx? 1 = some ctx1 ∧ ctx1.holding = false ∧ ctx1.arrivals = [] ∧
      bit (s.hw.die 0).healthy 0 = true ∧ s.hw.resident 0 1 = true ∧ (live.hw.chb 3).opened = false ∧ (live.hw.chb 3).abandoned = false ∧
      ((run1 id fun c => { c with holding := true }).hw.ctx? 1).map (·.holding) = some true := by decide +kernel

theorem wit_tree : (live.hw.die 0).mcFault = false ∧ ((run1 fun d => { d with mcFault := true }).hw.die 0).mcFault = true := by decide +kernel

/-! ### Links -/

def withPort (f : Port → Port) (s : State := up) : State := s.onHw fun h => { h with links := { h.links with ports := h.links.ports.set 0 (f (Port.init 0)) } }
def upPort : State := withPort fun p => { p with st := .up }

/-- A flit as port 0 sends it, with its CRC. -/
def sealed (hd trailer : Nat) : Flit :=
  let f : Flit := ⟨BitVec.ofNat 128 hd, [], BitVec.ofNat 128 trailer⟩
  ⟨BitVec.ofNat 128 hd, [], BitVec.ofNat 128 (trailer + put (flitCrc f) 96 32)⟩
def mgmt0 : Flit := sealed (put 3 124 4) 0
def order0 : Flit := sealed (put 3 118 6) 0
def late0 : Flit := sealed (put 3 124 4) (put 5 84 12)

theorem wit_flits : (upPort.hw.port 0).st = .up ∧ flCrc mgmt0 = flitCrc mgmt0 ∧ flNak mgmt0 = false ∧ flClass mgmt0 = 3 ∧ flSeq mgmt0 = 0 ∧ flAckv mgmt0 = false ∧
    flCrc order0 = flitCrc order0 ∧ flClass order0 = 0 ∧ flChan order0 = 3 ∧ flSeq late0 ≠ 0 ∧ flCrc late0 = flitCrc late0 ∧
    upPort.hw.links.spare = false ∧ ((withChan upPort ⟨true, true, false, 1, 0, 0, 0, []⟩).hw.chb 3).opened = true ∧
    (withChan upPort ⟨true, true, false, 1, 0, 0, 0, []⟩).hw.linkChan 0 (flChan order0) = some 3 := by decide +kernel

def replayS (n : Nat) : State := withPort fun p => { p with st := .up, replay := [mgmt0, sealed (put 3 124 4) (put 1 84 12), late0], reps := [n, n, n] }

/-- Idle flits: one brings a credit, one acknowledges the first flit of the replay buffer. -/
def idle0 : Flit := sealed (put 4 124 4) 1
def idleAck : Flit := sealed (put 4 124 4) (put 1 70 1)

theorem wit_idle : flClass idle0 = 4 ∧ flNak idle0 = false ∧ flAckv idle0 = false ∧ flCredit idle0 = 1 ∧ flCrc idle0 = flitCrc idle0 ∧
    flClass idleAck = 4 ∧ flNak idleAck = false ∧ flAckv idleAck = true ∧ flCrc idleAck = flitCrc idleAck ∧
    (flAckseq idleAck - flSeq mgmt0).toNat ≤ 2 ∧ ((withChan upPort (ChBind.init)).hw.chb 3).stale = 0 ∧ upPort.hw.links.takeover = false := by
  decide +kernel

theorem wit_nak : ((replayS 0).hw.port 0).waiting = [] ∧ (0 - flSeq mgmt0).toNat < 2 ∧ ((replayS 0).hw.port 0).reps.length = 3 ∧
    ((replayS 0).hw.port 0).replay ≠ [] := by decide +kernel

theorem wit_training : let p (st : PortSt) := (withPort fun p => { p with st := st }).hw.port 0
    (p .down).locked = false ∧ bit up.power.ldon (0 / 16) = true ∧ (p .training).st = .training ∧ 4 ≤ popCount ((15 : BitVec 5) &&& ~~~0).toNat 5 ∧
      popCount ((7 : BitVec 5) &&& ~~~0).toNat 5 < 4 ∧ (p .training).resets = [] ∧ bit up.power.mod.cpres (0 / 4) = false ∧ up.hw.links.bulkHeld = [] ∧
      (p .identity).waiting = [] := by decide +kernel

/-- The identity of the neighbour in direction 1 of a torus, at this module's position stepped once. -/
def idS : State := (withPort fun p => { p with st := .identity }).onHw fun h => { h with links := { h.links with idValid := true } }

theorem wit_identity : (idS.hw.port 0).st = .identity ∧ idS.hw.links.idValid = true ∧
    idS.hw.links.identityReason 0 ⟨true, 1, false, 0, stepPos 0 0, 5, true⟩ = 0 ∧ idS.hw.links.identityReason 0 ⟨true, 0, false, 0, 1, 5, true⟩ ≠ 0 ∧
    idS.hw.links.identityReason 0 ⟨true, 1, false, 0, 1, 5, false⟩ ≠ 0 := by decide +kernel

def recS (f : Port → Port := id) (s : State := up) : State := withPort (fun p => f { p with st := .recovering }) s

theorem wit_recovery : (recS.hw.port 0).st = .recovering ∧ recS.hw.links.bulkHeld = [] ∧ recS.hw.chip.takes = [] ∧ (recS.hw.port 0).waiting = [] ∧
    (recS.hw.port 0).spared = 7 ∧ (recS.hw.port 0).active = [0, 1, 2, 3] ∧ (upPort.hw.port 0).lanethr = 8 ∧
    8 ≤ ((recS fun p => { p with dirNow := 8 }).hw.port 0).dirNow.toNat := by decide +kernel

/-- No other port is in direction 1. -/
theorem wit_last_link : let s := (recS fun p => { p with dirNow := 1 }).onHw fun h => { h with links := { h.links with
      ports := h.links.ports.map fun p => if p.st = .recovering then p else { p with dirNow := 9 } } }
    (s.hw.port 0).dirNow.toNat < 2 ∧ ((List.range 48).all fun m => m == 0 || (s.hw.port m).dirNow != (s.hw.port 0).dirNow) = true := by decide +kernel

theorem wit_channels : (live.hw.chb 3).abandoned = false ∧ ((withChan live ⟨true, false, true, 1, 0, 0, 0, []⟩).hw.chb 3).abandoned = true ∧
    ((up.onHw fun h => { h with links := { h.links with bulkHeld := [(2, sealed (put 2 124 4) 0)] } }).hw.links.bulkHeld.any
      fun e => e.1 == 2 && flClass e.2 == 2) = true := by decide +kernel

/-! ### Gather-and-merge and parameter update -/

def job0 : GJob where
  id := 9
  stream := 0
  addr := 0
  rcd := 0
  slotA := 0
  slotB := 0
  win := 0
  known := true
  foreign := false
  started := false
  dealt := false
  lastw := []
  todo := []
  next := 0
  stall := .run

def withGme (f : Gme → Gme) (slots : List (Nat × Word512) := []) : State := mapped (withCx fun x => { x with
  gmes := x.gmes.set 0 (f Gme.init), streams := [(0, { stream0 with rcd := setFld stream0.rcd 485 454 1 })], slots := slots })

/-- A matrix of one tile of the 8-bit format 4 at address 65,536, of `r` rows and `c` columns. -/
def tiled (fmt r c : Nat) : Word512 :=
  BitVec.ofNat 512 (put 65536 464 48 + put 1 356 4 + put fmt 348 8 + put 2 345 3 + put 1 343 2 + put 1 340 1 + put r 192 20 + put c 212 20 + put 1 0 32 + put 1 32 32)

/-- A product of one block column of zeros: its tile of A holds no block. -/
def product0 : GJob := { job0 with rcd := BitVec.ofNat 512 (put 1 508 4 + put 1 500 8 + put 1 476 12 + put 1 462 5 + put 8 424 6 + put 8 418 6) }
def productSlots : List (Nat × Word512) := [(0, tiled 4 16 64), (1, tiled 4 64 128)]
/-- A compressed tile with no block present. -/
def emptyTile : List Byte := let pre := List.replicate 16 0xFF ++ List.replicate 16 0
  tileHeader 4 true 0 0 (crc32c pre) ++ pre
def productS : State := (withGme (fun g => { g with bjobs := [product0] }) productSlots).onHw fun h => h.onChip fun c => { c with
  stk := c.stk.set 0 { Stack.init with mem := mapMem.writeN (0x200 * 65536 + 65536) emptyTile } }

/-- The job with its slots as they stand. -/
def startedAs (s : State) (j : GJob) : GJob := { (s.hw.cx 0).jobSlots j with started := true }

theorem wit_product : (productS.hw.gme 0 0).bjobs = [product0] ∧ gjOp product0.rcd = 1 ∧ (productS.hw.gme 0 0).hjobs = [] ∧
    productS.hw.gjReason 0 0 (startedAs productS product0) = 0 ∧ productS.hw.agentsRun 0 = true ∧
    ((productRounds ((productS.hw.updJob 0 0 9 fun _ => startedAs productS product0).gmeEnv 0 0 (startedAs productS product0)) 0
      (startedAs productS product0)).run { h := productS.hw.updJob 0 0 9 fun _ => startedAs productS product0 }).toOption.isSome = true := by decide +kernel

/-- A product whose record is reserved, a drain with no window, a drain of the empty hash accumulator, and a scatter-add of no entries. -/
def badProduct : GJob := { job0 with rcd := BitVec.ofNat 512 (put 1 508 4 + put 1 0 1) }
def drain0 : GJob := { job0 with rcd := BitVec.ofNat 512 (put 2 508 4 + put 1 476 12) }
def hashDrain0 : GJob := { job0 with rcd := BitVec.ofNat 512 (put 4 508 4 + put 1 476 12) }
def destSlots : List (Nat × Word512) := [(1, tiled 1 64 64)]
def scatter0 : GJob := { job0 with rcd := BitVec.ofNat 512 (put 3 508 4 + put 1 476 12 + put 1 409 9) }
def scatterSlots : List (Nat × Word512) := [(0, BitVec.ofNat 512 (put 1 356 4 + put 10 348 8 + put 1 345 3 + put 1 340 1)),
  (1, BitVec.ofNat 512 (put 1 356 4 + put 1 348 8 + put 2 345 3 + put 1 340 1 + put 16 192 20))]

theorem wit_jobs : let h (j : GJob) (l : List (Nat × Word512)) : State := withGme (fun g => { g with bjobs := [j] }) l
    let hash := withGme (fun g => { g with hjobs := [hashDrain0] }) destSlots
    let scatter := withGme (fun g => { g with hjobs := [scatter0], ovLog2 := 10, nseg := some 1 }) scatterSlots
    (h badProduct []).hw.gjReason 0 0 (startedAs (h badProduct []) badProduct) = 1 ∧ gjOp badProduct.rcd = 1 ∧
      (h drain0 destSlots).hw.gjReason 0 0 (startedAs (h drain0 destSlots) drain0) = 0 ∧ gjOp drain0.rcd = 2 ∧
      ((h drain0 destSlots).hw.gme 0 0).win = none ∧ hash.hw.gjReason 0 0 (startedAs hash hashDrain0) = 0 ∧ (hash.hw.gme 0 0).drainTotal = 0 ∧
      scatter.hw.gjReason 0 0 (startedAs scatter scatter0) = 0 ∧ dsSize (startedAs scatter scatter0).slotA 0 = 0 := by decide +kernel

/-- An empty round for core 0, and one that core 0 has handed back with the partials of strip 3. -/
def round0 : Round := ⟨0, 9, 0, 0, 0, [], true, 0, 0⟩
def back0 : Back := ⟨{ round0 with strips := [3] }, [], 0⟩
def roundJob : GJob := { product0 with started := true, dealt := true, todo := [round0] }
def roundS : State := withGme fun g => { g with bjobs := [roundJob], win := some ⟨0, 0, 8, 8, 0⟩, back := [back0] }

theorem wit_rounds : (roundS.hw.gme 0 0).bjobs = [roundJob] ∧ roundJob.todo.find? (fun r => r.core == 0) = some round0 ∧
    (roundS.hw.gme 0 0).extra = [] ∧ (roundS.hw.gme 0 0).back = [back0] ∧ (roundS.hw.gme 0 0).adding = [] ∧ (roundS.hw.gme 0 0).badElems = [] ∧
    ((List.range 32).all fun k => vget (roundS.hw.gme 0 0).queues k [] == [] && vget (roundS.hw.gme 0 0).waits k [] == []) = true ∧
    roundJob.id = back0.round.job ∧ (roundS.hw.gme 0 0).hjobs = [] ∧ (roundS.hw.cx 0).sigs = [] ∧ roundS.hw.agentsRun 0 = true ∧
    (withGme fun g => { g with bjobs := [roundJob] }).hw.gme 0 0 = { Gme.init with bjobs := [roundJob] } ∧
    ((withGme id).hw.gme 0 0).occupied 0 0 < stDepth stream0.rcd ∧ smWf (0 : Word64) none Gme.init.elems = true := by decide +kernel

def seg0 : Seg := ⟨5, List.replicate 16 0, [], [1]⟩

theorem wit_segments : [seg0].find? (fun x => x.pos == seg0.pos) = some seg0 ∧ [seg0].find? (fun x => x.pos == ({ seg0 with pos := 6 } : Seg).pos) = none ∧
    seg0.bad = [] ∧ seg0.pos < 128 := by decide +kernel

/-- A row whose key is resident, and one whose bucket is empty. -/
def hash0 : HEntry := ⟨8 * hashBucket 5, 5, List.replicate 16 0⟩

theorem wit_hash : ([hash0].find? fun x => x.key == 5) = some hash0 ∧ ([hash0].find? fun x => x.key == 6) = none ∧
    (List.range 8).find? (fun k => !(([hash0].filter fun x => x.place / 8 == hashBucket 6).map fun x => x.place % 8).contains k) = some 0 := by decide +kernel

def pcmd (w : Word512) : PCmd := { id := 4, stream := 0, addr := 0, rcd := some w, begun := false, tagged := false, pD := 0, gD := 0, next := 0, stall := .run }

/-- Parameters, gradients and a table for updates of one tile. -/
def params0 : Word512 := BitVec.ofNat 512 (put 1 356 4 + put 1 348 8 + put 3 345 3 + put 1 343 2 + put 1 340 1 + put 1 392 36 + put 3 192 20 + put 64 212 20 + put 64 232 20)
def grads0 : Word512 := setFld (tiled 1 64 64) 463 392 (put 1 36 36 + 1)
def withPuu (w : Word512) (holds : List Nat := []) : State := mapped (withCx fun x => { x with
  puus := x.puus.set 0 { Puu.init with queue := [pcmd w], tables := [(0, 0)] }, slots := [(0, params0), (1, grads0)], holds := holds, coef := 4
  streams := [(0, stream0)] })
def update0 : Word512 := BitVec.ofNat 512 (put 1 508 4 + put 1 484 12)
def tagged0 : Word512 := BitVec.ofNat 512 (put 1 508 4 + put 1 484 12 + put 1 475 1 + put 7 432 32)
def coef0 : Word512 := BitVec.ofNat 512 (put 2 508 4 + put 1 466 9 + put 4096 320 48)
def release0 : Word512 := BitVec.ofNat 512 (put 3 508 4)

theorem wit_puu : let h (w : Word512) (l : List Nat) : Hw := (withPuu w l).hw
    ((h update0 []).puu 0 0).queue = [pcmd update0] ∧ ((h update0 []).puuHead 0 0).1 = some (pcmd update0, update0) ∧
      (h update0 [0]).puuReason 0 0 update0 = 0 ∧ ((h update0 []).updateBegin 0 0 (pcmd update0) update0).1.isSome = true ∧
      ((h update0 []).updateTag 0 0 (pcmd update0) update0).1.isSome = true ∧ ((h tagged0 []).updateBegin 0 0 (pcmd tagged0) tagged0).1.isSome = true ∧
      (h tagged0 []).puuReason 0 0 tagged0 = 0 ∧ puTagchk tagged0 = true ∧ (h coef0 []).puuReason 0 0 coef0 = 0 ∧ puNtab coef0 = 1 ∧
      (h release0 [0]).puuReason 0 0 release0 = 0 ∧ puOp release0 = 3 ∧ (h (setFld update0 483 476 9) []).puuReason 0 0 (setFld update0 483 476 9) ≠ 0 := by
  decide +kernel

/-- The tag word at address 0 is no tag of the command; the coefficient record at 4,096 can be read. -/
theorem wit_puu_reads : ((withPuu tagged0).hw.vaRead 0 0 8 (puuWho 0 0)).toOption.any
      (fun r => !((leNat r.1).testBit 63 && leNat r.1 % 2 ^ 32 == puTag tagged0)) = true ∧
    ((withPuu coef0).hw.vaRead 0 4096 64 (puuWho 0 0)).toOption.isSome = true := by decide +kernel

/-! ### Reductions -/

/-- Group 5 of context 1, on die 0 and, with `x` participants of dimension X, on the modules at its positions. -/
def group5 (x : Nat) : Word512 := BitVec.ofNat 512 (put 1 511 1 + put 1 486 16 + put 1 470 16 + put 3 464 6 + put 4 458 6 + put 1 434 12 +
  put (2 ^ x - 1) 242 16 + put 1 258 16 + put 1 274 16 + put 1 290 16)

def redS (x : Nat) (issues : List RedIssue) (src : Word512 := tiled 1 256 256) : State :=
  (run1 (fun d => { d with cx := { d.cx with sems := d.cx.sems.set 3 2, slots := [(0, src), (1, tiled 1 256 256)] } }) fun c => { c with chans := [7] }).onHw fun h =>
    { (h.onChip fun c => { c with
        groups := c.groups.set 5 { Group.init with rcd := group5 x, issues := issues }, redq := issues.map fun _ => (7, 5) }) with
      links := { h.links with ports := h.links.ports.map fun p => { p with st := .up } } }

def issue0 (ph : RedPhase) : RedIssue := ⟨0, ph, [], [], [], 0, [], [], [], [⟨true, 0, 0, [], true⟩], [], .run, [tiled 1 256 256], [tiled 1 256 256], 0⟩

theorem wit_red_issue : let s := redS 1 [] (tiled 1 0 0)
    s.hw.links.alive 6 = true ∧ s.hw.links.alive 7 = true ∧ (s.hw.redCtx 5).map (·.num) = some 1 ∧ grValid (group5 1) = true ∧
      (s.hw.redCtx 5).map (grDies (group5 1)) = some [0] ∧ s.hw.resident 0 1 = true ∧ 1 ≤ ((s.hw.cx 0).sem (grIsem (group5 1))).toNat ∧
      s.hw.chip.redq = [] ∧ (s.hw.group 5).issues = [] ∧ (∀ d, d < 4 → popCount (grPmask (group5 1) d) 16 ≤ 1) ∧
      redSrcOk ((s.hw.cx 0).slot (grSrc (group5 1))) = true ∧ redDstOk (group5 1) ((s.hw.cx 0).slot (grDst (group5 1))) = true ∧
      (((s.hw.redQueue 5 [0] []).redSlots 5 0 { ctx1 with chans := [7] }).redSources { ctx1 with chans := [7] } (redWho 6) []
        [(0, (s.hw.cx 0).slot (grSrc (group5 1)))]).toOption.isSome = true := by decide +kernel

theorem wit_red_alone : let s := redS 1 [issue0 .written]
    (s.hw.group 5).issues = [issue0 .written] ∧ s.hw.redChan 5 = 7 ∧ s.hw.chip.redq = [(7, 5)] ∧ (grDies (group5 1) { ctx1 with chans := [7] }).Nodup := by
  decide +kernel

/-- An issue that has its sums, of an empty destination, with its tag word's page mapped for writes. -/
def redDone : State := withStk (redS 1 [{ issue0 .written with srcD := [tiled 1 0 0], dstD := [tiled 1 0 0] }]) fun k => { k with
  mem := (Memory.writeLE [] 0 8 (2 ^ 63 + 16)).writeLE 65536 8 (2 ^ 63 + 2 ^ 60 + 2 ^ 59 + 2 ^ 58 + 0x200) }

theorem wit_red_done : let h := redDone.hw
    ((redWrite ⟨0, (h.partOf 1 0).root, redWho (h.stagePort 5 (h.rs (group5 1) (h.redG 5)).getLast?), []⟩ (group5 1) (tiled 1 0 0)
      (h.redRange (group5 1) (h.redG 5)) 0 #[] #[]).run { h := h }).toOption.isSome = true := by decide +kernel

theorem wit_red_hold : let s := redS 1 []
    let w := (redS 1 [issue0 .written]).onHw fun h => { h with links := { h.links with bulkHeld := [(6, s.hw.redFlit 7 0 1 0 5 0 0 [])] } }
    (s.hw.links.bulkHeld = []) ∧ (w.hw.links.bulkHeld.find? fun e => flClass e.2 == 1 && rfSlot e.2 == 5).map (fun e => rfIdx e.2) = some 0 := by
  decide +kernel

/-- A group of two modules: stage 0 of this one takes piece 0 from the other. -/
def redFl (data : List Byte) : Flit := live.hw.redFlit 7 0 1 0 5 0 0 data
def partsS (b : Byte) : State := redS 2 [{ issue0 .sums with parts := [(true, 0, 0, List.replicate 4032 b)] }]

theorem wit_red_flits : let s := redS 2 [issue0 .codes]
    let st := s.hw.rs (group5 2) (s.hw.redG 5)
    st = [⟨0, 2, 0, 0, 1024⟩] ∧ flDst (redFl []) = 0 ∧ rfSlot (redFl []) = 5 ∧ rfIdx (redFl []) = 0 ∧ stagePos 1 (rfStage (redFl [])) = 0 ∧
      pieceOf false ⟨0, 2, 0, 0, 1024⟩ 0 true 224 0 [] = some 0 ∧ stageDone false ⟨0, 2, 0, 0, 1024⟩ 0 0 224 [unitKey 0 0 0] = false ∧
      pieceOf false ⟨0, 2, 0, 0, 1024⟩ 0 true 16 0 [] = some 0 ∧ stageDone false ⟨0, 2, 0, 0, 1024⟩ 0 0 16 [unitKey 0 0 0] = false ∧
      (issue0 .codes).keptFor (redFl []) = some ⟨true, 0, 0, [], true⟩ ∧ rfUnit (redFl []) = 0 ∧
      rfUnit (live.hw.redFlit 7 0 1 0 5 0 64 []) = 64 ∧ stageDone false ⟨0, 2, 0, 0, 1024⟩ 0 0 224 [] = false := by decide +kernel

theorem leNat_zeros (n : Nat) : leNat (List.replicate n 0) = 0 := by
  induction n with
  | zero => rfl
  | succ n ih => rw [List.replicate_succ, leNat, ih]; rfl

theorem leAt_zeros (k o n : Nat) (e : List Byte) (h : o + n ≤ k) : leAt (List.replicate k 0 ++ e) o n = 0 := by
  have : bytesAt (List.replicate k (0 : Byte) ++ e) o n = List.replicate n 0 := by
    rw [bytesAt, List.eq_replicate_iff]
    refine ⟨by simp, fun b hb => ?_⟩
    obtain ⟨i, hi, rfl⟩ := List.mem_map.1 hb
    have := List.mem_range.1 hi
    rw [List.getD_eq_getElem?_getD, List.getElem?_append_left (by simp; omega), List.getElem?_replicate]
    split <;> rfl
  rw [leAt, this, leNat_zeros]

theorem segVals_zeros (e : List Byte) : segVals 32 (List.replicate 4252 0 ++ e) = List.replicate 1024 0 := by
  rw [segVals, List.eq_replicate_iff]
  refine ⟨by rw [List.length_map, List.length_range], fun b hb => ?_⟩
  obtain ⟨i, hi, rfl⟩ := List.mem_map.1 hb
  have := List.mem_range.1 hi
  rw [leAt_zeros _ _ _ _ (by omega)]
  rfl

theorem wit_red_segments : segOk 32 (List.replicate 4252 0 ++ [0, 0, 0, 0]) = true ∧ segOk 32 (List.replicate 4252 0 ++ [1, 0, 0, 0]) = false := by
  constructor <;> rw [segOk, segVals_zeros] <;> decide +kernel

/-! ### Host commands -/

def argAt (n : Nat) : Word512 := BitVec.ofNat 512 (put 64 384 64 + n)
def inCtx (n : Nat) : Word512 := BitVec.ofNat 512 (put 1 448 16 + n)
def argCtx (n : Nat) : Word512 := BitVec.ofNat 512 (put 1 448 16 + put 64 384 64 + n)

/-- A row of each host command, with the state that it starts in. -/
def hostRows : List (Instr × State) :=
  [(.launch 0 (argCtx (put 1 376 5 + put 1 381 3)), up), (.segmentLoad 0 (inCtx (put 1 368 16)), live), (.preemptImmediate 0 (inCtx 0), live),
    (.preemptAtYield 0 (inCtx 0), live), (.resume 0 (argCtx (put 1 376 5)), live), (.dmaFlat 0 (BitVec.ofNat 512 (put 64 336 32)), up),
    (.dmaTransferRecord 0 0, up), (.mapLeaves 0 0, up), (.mapTablePointer 0 (BitVec.ofNat 512 (put 1 252 20 + put 1 194 2)), up), (.unmap 0 0, up),
    (.descCreate 0 (argAt 0), up), (.descDestroy 0 0, up), (.redSetup 0 (argAt 0), up), (.wpTake 0 (argCtx 0), live), (.wpReserve 0 (argCtx 0), up),
    (.wpRelease 0 0, up), (.wpRestoreHost 0 (argCtx 0), up), (.wpRestoreBuddy 0 (argCtx 0), up), (.latTolDevice 0 0, up),
    (.latTolRole 0 (BitVec.ofNat 512 (put 3 349 3)), up), (.latTolContext 0 (inCtx 0), live), (.pwrGrant 0 0, up), (.fwBlock 0 (argAt 0), up),
    (.fwCommit 0 0, up), (.fwAbort 0 0, up), (.attestSpdm 0 (argAt (put 4 304 16 + put 64 288 16)), up), (.attestDebugUnlock 0 (argAt (put 256 304 16)), up),
    (.ctrCfg 0 (argAt (put 1 379 5)), up), (.configApply 0 (argAt 0), up), (.resetWarm 0 0, up), (.resetDie 0 0, up), (.resetLinkPort 0 0, up)]

theorem wit_host_start : ∀ p ∈ hostRows, ringOf p.1 = some 0 ∧ Starts p.2 0 (rowBits p.1) := by
  have h : hostRows.all (fun p => ringOf p.1 == some 0 && startsB p.2 0 (rowBits p.1)) = true := by decide +kernel
  intro p hp
  have := List.all_eq_true.1 h p hp
  rw [Bool.and_eq_true, beq_iff_eq] at this
  exact ⟨this.1, starts_of this.2⟩

/-- A command outstanding on ring 0, as `f` says. -/
def cmd0 : Cmd := ⟨3, 0, rowBits (.resetLinkPort 0 0), .running, [], .none⟩
def withCmd (c : Cmd) (s : State := up) : State := s.onHw fun h => h.onHost fun x => { x with cmds := [c], nextCmd := 4 }

def fenced : Word512 := rowBits (.fwAbort 0 (BitVec.ofNat 512 (put 1 479 1)))

theorem wit_admission : let s := up.onHw fun h => h.onHost fun x => { x with bme := false }
    let hand := up.onHw fun h => h.onHost fun x => { x with handover := true }
    let rec_ : State := { up with sec := { up.sec with recovery := true } }
    cmStatic (0 : Word512) = 1 ∧ cmStatic (rowBits (.fwAbort 0 1)) = 2 ∧ up.hw.cmReason (rowBits (.launch 0 (argCtx 0))) [] ≠ 0 ∧
      cmFence fenced = true ∧ (withCmd cmd0).hw.host.cmds = [cmd0] ∧ (withCmd { cmd0 with wait := .fence }).hw.host.cmds = [{ cmd0 with wait := .fence }] ∧
      s.argOf (rowBits (.descCreate 0 (argAt 0))) ≠ [] ∧ s.hw.host.bme = false ∧ cmStatic (rowBits (.fwAbort 0 0)) = 0 ∧ cmMgmt (rowBits (.fwAbort 0 0)) = true ∧
      hand.hw.cmReason (rowBits (.fwAbort 0 0)) [] = 0 ∧ rec_.mgmtWaits (rowBits (.resetWarm 0 0)) = false ∧ recoveryOk (rowBits (.ctrCfg 0 (argAt 0))) = false := by
  decide +kernel

/-- Ring 0 with one command to fetch. -/
def ring0 : Ring := { Ring.init with st := .running, log2 := 4, base := 4096, tail := 1 }
def ringS : State := up.onHw fun h => h.onHost fun x => { x with rings := x.rings.set 0 ring0, mem := Memory.writeLE [] 4096 64 (rowBits (.fwAbort 0 0)).toNat }

theorem wit_fetch : ringS.hw.host.bme = true ∧ ringS.hw.host.cmds.length < 4096 ∧ ringS.hw.host.fetchable ((ringS.hw.host.rr.val + 0) % 64) = true ∧
    (ringS.hw.ring 0).st = .running ∧ ((List.range 64).any fun r => up.hw.host.fetchable r) = false := by decide +kernel

theorem wit_fence : let c : Cmd := { cmd0 with wait := .fence, w := fenced }
    let s := withCmd c
    s.hw.host.cmds = [c] ∧ cmStatic c.w = 0 ∧ s.hw.cmReason c.w (s.argOf c.w) = 0 ∧ s.mgmtWaits c.w = false ∧ s.sec.recovery = false ∧
      cmd0.id < ({ c with id := 5 } : Cmd).id := by decide +kernel

/-- A completion ring that runs. -/
def complS (f : Ring → Ring := id) : State := (withCmd cmd0).onHw fun h => h.onHost fun x => { x with
  rings := x.rings.set 64 (f { Ring.init with st := .running, log2 := 4, base := 8192, wb := 64 }) }

theorem wit_completion : (complS.hw.cmd? 3) = some cmd0 ∧ complS.hw.host.canWrite 64 = true ∧ (complS.hw.ring 64).held = [] ∧ complS.hw.host.mem.wf = true ∧
    (complS.hw.ring 64).tail.toNat < (complS.hw.ring 64).size ∧ (complS.hw.ring 64).wb.toNat + 8 ≤ (complS.hw.ring 64).base.toNat ∧
    (withCmd cmd0).hw.host.canWrite 64 = false ∧ ((withCmd cmd0).hw.ring 64).st = .disabled := by decide +kernel

/-! ### Contexts -/

/-- An image of one segment of one word. -/
def image1 : List Byte :=
  let x := put 0x47444931 992 32 + put 1 976 16 + put 1 968 8 + put 1 963 5 + put 1 948 12 + put 128 896 32 + put 256 864 32 + put 1 858 6
  let b := leBytes 128 x
  let code := leBytes 64 (rowBits (.endWord 0 0)).toNat
  leBytes 4 (crc32c (b.drop 4)) ++ b.drop 4 ++ leBytes 16 (put 192 96 32 + put 1 79 17 + put 0xFFF 67 12 + put (crc32c code) 0 32) ++
    List.replicate 48 0 ++ code

/-- A pinned, writable page of 32 MiB at a stack offset in 64 KiB units. -/
def page32 (off : Nat) : Nat := 2 ^ 63 + 2 ^ 60 + 2 ^ 59 + 2 ^ 58 + off

/-- Stack 0: seven pages, the image at address 0, the scratchpad image at 32 MiB, the save area at 160 MiB with its header in state `st`. -/
def launchMem (st : Nat) : Memory :=
  let m := (List.range 7).foldl (fun m i => m.writeLE (65536 + 8 * i) 8 (page32 (0x200 * (i + 1)))) (Memory.writeLE [] 0 8 (2 ^ 63 + 16))
  (m.writeN (0x200 * 65536) image1).writeLE (0xC00 * 65536 + 0x40000) 64 (put st 508 4 + put (2 ^ 25) 352 48)

def ent1 : DieEnt := ⟨0, 0xC00, 0, BitVec.ofNat 48 (5 * 2 ^ 25)⟩
def launchS (st : Nat) (s : State := up) : State := (withStk s fun k => { k with mem := launchMem st }).onHw fun h => h.onHost fun x => { x with
  mem := Memory.writeLE [] 64 16 (put 0xC00 104 16 + put (5 * 2 ^ 25) 0 48) }
def launchI : Instr := .launch 0 (argCtx (put 1 376 5 + put 1 381 3))

theorem wit_preempt : live.hw.ctx? 1 = some ctx1 ∧ ctx1.st = .running ∧ ctx1.preLater = none ∧ live.hw.chip.takes = [] ∧
    (live.hw.die 0).owner = some 1 ∧ (live.hw.die 0).phase = .running ∧ (live.hw.cx 0).helm.held = none ∧ (live.hw.cx 0).helm.st ≠ .waitBank ∧
    live.hw.take? 1 = none ∧
    ((run1 id fun c => { c with st := .saved }).hw.ctx? 1).map (·.st) = some .saved := by decide +kernel

/-- The die drains; its scratchpad image and save area are mapped. -/
def drainS : State := launchS 1 (run1 (fun d => { d with phase := .draining, cx := { d.cx with
  spImg := 2 ^ 25, saveBase := BitVec.ofNat 48 (5 * 2 ^ 25), saveOff := 0xC00 } }) fun c => { c with ents := [ent1], st := .stopping, cmd := some 3 })

theorem wit_drain : (drainS.hw.die 0).phase = .draining ∧ (drainS.hw.die 0).owner = some 1 ∧ drainS.hw.drained 0 = true ∧ drainS.hw.chip.hostX = [] ∧
    (drainS.hw.cx 0).busyAgents = [] ∧ (drainS.hw.cx 0).frecs = [] ∧ (drainS.hw.cx 0).fslots = [] ∧ (drainS.hw.cx 0).helm.skips ≠ 256 ∧
    ((List.range 4).all fun cl => (drainS.hw.gme 0 cl).back == [] && (drainS.hw.gme 0 cl).adding == []) = true ∧
    (drainS.hw.stk 0).chanFailed (hdrOff (drainS.hw.cx 0).saveOff.toNat) = false ∧ (drainS.hw.chip.stk.toList.all fun k => k.errs == []) = true ∧
    ((drainS.hw.healthyCores 0).all fun k => ((drainS.hw.cx 0).core k).split == none) = true := by decide +kernel

def savedS : State := launchS 2 (run1 (fun d => { d with owner := none, phase := .idle }) fun c => { c with
  ents := [ent1], st := .saved, save := [(0, { die1.cx with spImg := 2 ^ 25, saveBase := BitVec.ofNat 48 (5 * 2 ^ 25), saveOff := 0xC00 })] })
def resumeI : Instr := .resume 0 (argCtx (put 1 376 5))

theorem wit_saves : let s := run1 id fun c => { c with st := .stopping, cmd := some 3, save := [(0, die1.cx)] }
    (s.hw.ctx? 1).any (fun c => c.st == .stopping && c.cmd == some 3 && c.ending == 0 && c.ents.all fun e => c.save.any fun x => x.1 == e.die.val) = true := by
  decide +kernel

theorem wit_complete : let s := run1 (fun d => { d with cx := { d.cx with helm := { d.cx.helm with st := .idle } } }) fun c => { c with cmd := some 3 }
    (s.hw.ctx? 1).any (fun c => c.st == .running && c.cmd == some 3 && s.hw.segCmds c == []) = true ∧ s.hw.redBusy 1 = false ∧ s.hw.resident 0 1 = true ∧
      s.hw.dieDone 0 = true ∧ s.hw.take? 1 = none ∧ live.hw.dieDone 0 = false := by decide +kernel

def leaf32 (k : Nat) : Leaf := mkLeaf 0 2 (page32 (0x200 * (k + 1))) 0 (65536 + 8 * k)

theorem leaf32_facts : ∀ k : Fin 7, tePin (leaf32 k.val).entry = true ∧ (leaf32 k.val).host = false ∧ (leaf32 k.val).stk = 0 ∧
    (leaf32 k.val).base = 33554432 * (k.val + 1) ∧ (leaf32 k.val).size = 33554432 := by decide +kernel

/-- The pages of address range 0 to 224 MiB. -/
def Mapped7 (h : Hw) : Prop := ∀ k : Fin 7, (h.walk 0 ⟨0, 0⟩ (k.val * 33554432) 1).toOption = some (leaf32 k.val)

theorem mapped_walk {h : Hw} (m : Mapped7 h) {a : Nat} (ha : a < 7 * 33554432) : h.walk 0 ⟨0, 0⟩ a 1 = .ok (leaf32 (a / 33554432)) := by
  obtain ⟨k, hk⟩ : ∃ k, k = a / 33554432 := ⟨_, rfl⟩
  have hl : k < 7 := by omega
  rw [← hk]
  have h1 := m ⟨k, hl⟩
  have hs := (leaf32_facts ⟨k, hl⟩).2.2.2.2
  simp only at h1 hs
  cases hw : h.walk 0 ⟨0, 0⟩ (k * 33554432) 1 with
  | error e => rw [hw] at h1; exact absurd h1 (by simp [Except.toOption])
  | ok l =>
    rw [hw] at h1
    have : l = leaf32 k := by simpa [Except.toOption] using h1
    subst this
    exact Hw.walk_page (va' := k * 33554432) (by omega) (by omega) hw

theorem imagePinned_of {h : Hw} (m : Mapped7 h) {va : Nat} (hv : va % 65536 = 0) (ht : va + 2 ^ 27 ≤ 7 * 33554432) :
    h.imagePinned 0 ⟨0, 0⟩ va = true := by
  rw [Hw.imagePinned, Bool.and_eq_true, beq_iff_eq, List.all_eq_true]
  refine ⟨hv, fun p hp => ?_⟩
  have := mem_pagesOf hp
  have f := leaf32_facts ⟨p.1 / 33554432, by omega⟩
  rw [mapped_walk m (by omega)]
  simp only at f
  simp [f]

theorem saveMib_of {h : Hw} (m : Mapped7 h) {e : DieEnt} (he : e = ent1) (fuel k : Nat) (hk : k + fuel ≤ 64) : h.saveMib e ⟨0, 0⟩ fuel k = k + fuel := by
  subst he
  induction fuel generalizing k with
  | zero => rfl
  | succ f ih =>
    have hp : h.pinnedAt 0 ⟨0, 0⟩ (5 * 33554432 + 2 ^ 20 * k) (2 ^ 20) 0 (65536 * 0xC00 + 2 ^ 20 * k) = true := by
      rw [Hw.pinnedAt, List.all_eq_true]
      intro p hp
      have := mem_pagesOf hp
      have f := leaf32_facts ⟨p.1 / 33554432, by omega⟩
      rw [mapped_walk m (by omega)]
      simp only at f
      simp only [f, Bool.not_false, Bool.and_true, Bool.true_and, beq_self_eq_true, beq_iff_eq]
      omega
    rw [Hw.saveMib]
    rw [show h.pinnedAt ent1.die.val ⟨0, 0⟩ (ent1.saveBase.toNat + 2 ^ 20 * k) (2 ^ 20) ent1.die.val (65536 * ent1.saveOff.toNat + 2 ^ 20 * k) = true from hp, if_pos rfl,
      ih (k + 1) (by omega)]
    omega

theorem avail_of {h : Hw} (m : Mapped7 h) {w : Word512} (hh : h.header 0 0xC00 = some w) {st : Nat} (hst : hdState w = st)
    (hr : hdRoot w = ⟨0, 0⟩) (hsp : hdSpimg w = 33554432) : h.saveAvail ent1 st = 64 := by
  have hd : h.header ent1.die.val ent1.saveOff.toNat = some w := hh
  rw [Hw.saveAvail, hd]
  simp only [hst, hr, hsp]
  rw [show h.imagePinned ent1.die.val ⟨0, 0⟩ 33554432 = true from imagePinned_of m (by decide) (by decide), saveMib_of m rfl 64 0 (by decide)]
  simp

theorem short_of {h : Hw} (m : Mapped7 h) {w : Word512} (hh : h.header 0 0xC00 = some w) {st : Nat} (hst : hdState w = st)
    (hr : hdRoot w = ⟨0, 0⟩) (hsp : hdSpimg w = 33554432) (hd : h.dieAvail 0 = true) : h.placeShort [ent1] st = [] := by
  have ha := avail_of m hh hst hr hsp
  have hd' : h.dieAvail ent1.die.val = true := hd
  rw [Hw.placeShort]
  have h1 : ∀ (res req : Nat) (f : DieEnt → Nat), req ≤ f ent1 → dieShort [ent1] res req f = [] := by
    intro res req f hf
    rw [dieShort, List.flatMap_eq_nil_iff]
    intro n _
    rw [List.filterMap_eq_nil_iff]
    intro e he
    have : e = ent1 := by simpa using List.mem_of_mem_filter he
    subst this
    rw [if_neg (by omega)]
  rw [h1 9 64 _ (by rw [ha]), h1 0xA 1 _ (by rw [hd']; decide)]
  rfl

/-- What a launch looks at before the places of its dies. -/
def frontShort (h : Hw) (ents : List DieEnt) (x : Nat) (segs : List Nat) : List Nat :=
  dieShort ents 1 (ihCoresmin x) (fun e => popCount (h.die e.die.val).healthy.toNat 32) ++
    dieShort ents 2 (ihSpadkib x) (fun _ => 4096) ++ dieShort ents 3 (ihAccrows x) (fun _ => 1024) ++
    ((List.range segs.length).zip segs).filterMap (fun s =>
      if 65536 < (segEntry s.2).words then some (shortfall 4 0xFF (segEntry s.2).words 65536 s.1) else none) ++
    dieShort ents 5 (ihDslots x) (fun _ => 4096) ++
    (if h.freeChans.length < ihRedch x then [shortfall 6 0xFF (ihRedch x) h.freeChans.length 0] else []) ++
    dieShort ents 7 (ihVtabkib x) (fun _ => 32) ++ dieShort ents 8 (ihCoef x) (fun _ => 256)

/-- What a launch reads, as its reads leave it. -/
def launchR (s : State) : Hw := (s.taken 0 (rowBits launchI)).hw.imgReads [ent1]

theorem launch_mapped : Mapped7 (launchR (launchS 0)) := by unfold Mapped7; decide +kernel

theorem wit_launch : startsB (launchS 0) 0 (rowBits launchI) = true ∧ cmDies (rowBits launchI) ((launchS 0).argOf (rowBits launchI)) = [ent1] ∧
    (launchS 0).hw.clean ∧ ∃ x segs, (launchR (launchS 0)).image [ent1] = some (x, segs) ∧ (launchR (launchS 0)).shortfalls [ent1] x segs = [] := by
  refine ⟨by decide +kernel, by decide +kernel, clean_of (by decide +kernel), ?_⟩
  have hi : ((launchR (launchS 0)).image [ent1]).any (fun p => frontShort (launchR (launchS 0)) [ent1] p.1 p.2 == []) = true := by decide +kernel
  obtain ⟨p, hp, hf⟩ := (Option.any_eq_true _ _).1 hi
  refine ⟨p.1, p.2, hp, ?_⟩
  rw [show (launchR (launchS 0)).shortfalls [ent1] p.1 p.2 = frontShort (launchR (launchS 0)) [ent1] p.1 p.2 ++
      (launchR (launchS 0)).placeShort [ent1] 0 from rfl, beq_iff_eq.1 hf,
    short_of launch_mapped (w := BitVec.ofNat 512 (put (2 ^ 25) 352 48)) (by decide +kernel) (by decide +kernel) (by decide +kernel) (by decide +kernel)
      (by decide +kernel)]
  rfl

def downDie (s : State) : State := s.onHw fun h => h.updDie 0 fun d => { d with stFail := true }

theorem downDie_short (h : Hw) (st : Nat) (hd : h.dieAvail 0 = false) : h.placeShort [ent1] st ≠ [] := by
  have hd' : h.dieAvail ent1.die.val = false := hd
  rw [Hw.placeShort]
  have : (dieShort [ent1] 0xA 1 fun e => b2n (h.dieAvail e.die.val)) ≠ [] := by
    refine List.ne_nil_of_mem (List.mem_flatMap.2 ⟨0, by decide, List.mem_filterMap.2 ⟨ent1, by decide, ?_⟩⟩) (a := shortfall 0xA 0 1 0 0)
    simp only [hd']
    rfl
  exact List.append_ne_nil_of_right_ne_nil _ this

/-- A die that failed its self-test is a shortfall. -/
theorem wit_launch_short : let s := downDie (launchS 0)
    (launchR up).image [ent1] = none ∧ startsB up 0 (rowBits launchI) = true ∧ ((launchR s).image [ent1]).isSome = true ∧
      startsB s 0 (rowBits launchI) = true ∧ ∀ x segs, (launchR s).shortfalls [ent1] x segs ≠ [] := by
  refine ⟨by decide +kernel, by decide +kernel, by decide +kernel, by decide +kernel, fun x segs => ?_⟩
  exact List.append_ne_nil_of_right_ne_nil _ (downDie_short _ 0 (by decide +kernel))

theorem restoreBad_of {h : Hw} {e : DieEnt} (hb : (h.stk e.die.val).bad = []) (he : (h.stk e.die.val).errs = []) : h.restoreBad e = none := by
  have n (p : Nat → Bool) : (h.stk e.die.val).badAmong p = none := by simp [Stack.badAmong, hb, he]
  rw [Hw.restoreBad, n]
  simp only [n]
  rw [List.findSome?_eq_none_iff]
  intro p _
  split <;> rfl

theorem wakeEnts_on {h : Hw} {e : DieEnt} (hm : (h.stk e.die.val).mst = .on) : h.wakeEnts [e] = h := by
  simp [Hw.wakeEnts, Hw.wakeStks, Hw.wakeStk, hm]

/-- What RESUME works on: the command taken, and the stack awake. -/
def resumeH (s : State) : Hw := (s.taken 0 (rowBits resumeI)).hw
def lostS : State := savedS.onHw fun h => h.updStk 0 fun k => { k with bad := [0xC00 * 1024] }

theorem resume_mapped : Mapped7 (resumeH savedS) := by unfold Mapped7; decide +kernel
theorem lost_mapped : Mapped7 (resumeH lostS) := by unfold Mapped7; decide +kernel

theorem resume_short {h : Hw} (m : Mapped7 h) (hh : h.header 0 0xC00 = some (BitVec.ofNat 512 (put 2 508 4 + put (2 ^ 25) 352 48)))
    (hd : h.dieAvail 0 = true) : h.placeShort [ent1] 2 = [] :=
  short_of m hh (by decide +kernel) (by decide +kernel) (by decide +kernel) hd

theorem wit_resume : startsB savedS 0 (rowBits resumeI) = true ∧ (resumeH savedS).wakeEnts [ent1] = resumeH savedS ∧
    (resumeH savedS).placeShort [ent1] 2 = [] ∧ (resumeH savedS).restoreBad ent1 = none ∧
    (savedS.hw.savedCx 1 0).any (fun x => (x.bank x.helm.bank.toNat).valid) = true ∧
    (savedS.hw.ctx? 1).any (fun k => k.ents == [ent1] && k.arrivals == []) = true := by
  exact ⟨by decide +kernel, wakeEnts_on (by decide +kernel), resume_short resume_mapped (by decide +kernel) (by decide +kernel),
    restoreBad_of (by decide +kernel) (by decide +kernel), by decide +kernel, by decide +kernel⟩

/-- A burst of the save area has been lost. -/
theorem wit_resume_lost : startsB lostS 0 (rowBits resumeI) = true ∧ (resumeH lostS).wakeEnts [ent1] = resumeH lostS ∧
    (resumeH lostS).placeShort [ent1] 2 = [] ∧ (resumeH lostS).restoreBad ent1 = some (0xC00 * 1024) := by
  refine ⟨by decide +kernel, wakeEnts_on (by decide +kernel), resume_short lost_mapped (by decide +kernel) (by decide +kernel), ?_⟩
  have hb : ((resumeH lostS).stk ent1.die.val).badAmong (fun b => let a := 64 * b
      (decide (65536 * ent1.saveOff.toNat ≤ a) && decide (a < 65536 * ent1.saveOff.toNat + 282624)) ||
        (decide (65536 * ent1.saveOff.toNat + 16777216 ≤ a) && decide (a < 65536 * ent1.saveOff.toNat + 59768832))) = some (0xC00 * 1024) := by decide +kernel
  rw [Hw.restoreBad, hb]

theorem wit_resume_short : startsB (downDie savedS) 0 (rowBits resumeI) = true ∧ (downDie savedS).hw.placeShort [ent1] 2 ≠ [] ∧
    ((downDie savedS).hw.header 0 0xC00).map hdState = some 2 := by
  exact ⟨by decide +kernel, downDie_short _ 2 (by decide +kernel), by decide +kernel⟩

/-! ### Host transfers, tables and descriptors -/

def flatI (dir : Nat) : Instr := .dmaFlat 0 (BitVec.ofNat 512 (put dir 382 2 + put 1 336 32 + (if dir = 2 then put 64 208 32 else if dir = 0 then put 4096 272 64 else put 4096 272 64)))

theorem wit_flat : ∀ dir, dir < 3 → startsB up 0 (rowBits (flatI dir)) = true ∧ up.hw.flatOff (rowBits (flatI dir)) = false ∧ dfDir (rowBits (flatI dir)) = dir ∧
    (up.hw.stk (dfSstk (rowBits (flatI dir)))).badRead (dfSoff (rowBits (flatI dir))) (dfBytes (rowBits (flatI dir))) = none ∧
    (dir = 2 → dfSoff (rowBits (flatI dir)) + dfBytes (rowBits (flatI dir)) ≤ dfDoff (rowBits (flatI dir))) ∧
    (withStk up fun k => { k with mst := .off }).hw.flatOff (rowBits (flatI 2)) = true := by decide +kernel

/-- Table entry 2 of a save area at offset 0 of stack 0: a transfer between two tensors of the mapped page. -/
def tensor1 : Word512 := BitVec.ofNat 512 (put (2 ^ 20) 464 48 + put 256 428 36 + put 1 392 36 + put 1 356 4 + put 1 348 8 + put 1 345 3 + put 1 340 1 + put 16 192 20 + put 1 0 32)
def record1 : Word512 := BitVec.ofNat 512 (put 4 356 4 + put 1 500 12 + put 1 488 12 + put 0xFFF 476 12 + put 16 110 20)
def recordS (x : Word512) (mem : Memory := mapMem) : State := withStk up fun k => { k with
  mem := (mem.writeLE (0xC00 * 65536 + 64) 64 tensor1.toNat).writeLE (0xC00 * 65536 + 128) 64 x.toNat }
def recordI : Instr := .dmaTransferRecord 0 (BitVec.ofNat 512 (put 2 364 12 + put 0xC00 344 16))
def hostX1 (x : Word512) : Xfer := hostXfer (((recordS x).hw.stk 0).tableEntry (65536 * 0xC00)) 0 2

theorem wit_record : startsB (recordS record1) 0 (rowBits recordI) = true ∧ (recordS record1).hw.stkUnavailable 0 = false ∧
    ((recordS record1).hw.header 0 0xC00).map hdRoot = some ⟨0, 0⟩ ∧
    (recordS record1).hw.recordBad 0 0xC00 (hostX1 record1) 2 = none ∧ (recordS 0).hw.recordBad 0 0xC00 (hostX1 0) 2 = none ∧ (recordS record1).hw.chip.hostX = [] ∧
    dsKind (hostX1 record1).rcd = 4 ∧ tfSkind (hostX1 record1).rcd = 0 ∧ tfDkind (hostX1 record1).rcd = 0 ∧ (hostX1 record1).usable = true ∧
    (hostX1 record1).granules = 1 ∧ dsKind (hostX1 0).rcd ≠ 4 ∧
    tfDkind (hostX1 (setFld record1 471 468 2)).rcd = 2 ∧ (recordS (setFld record1 471 468 2)).hw.residentAt 0 0xC00 = none := by decide +kernel

/-- The granule of that record on a state that maps its addresses, and on one that does not. -/
def recordGranule (mem : Memory) : Except Stop (Unit × GSt) :=
  let s := recordS record1 mem
  let y : Xfer := { hostX1 record1 with total := 1 }
  let at0 : Hw := ((s.taken 0 (rowBits recordI)).hw.updCmd 0 fun d => { d with work := .rcd 0 0 }).onChip fun c => { c with hostX := c.hostX ++ [⟨0, 0, y⟩] }
  (y.granule ⟨0, ⟨0, 0⟩, hostWho, []⟩).run { h := at0 }

theorem wit_record_granule : stopOf (recordGranule mapMem) = none ∧ stopOf (recordGranule []) = some (.fault (2 ^ 20) 1 1 1) := by decide +kernel

/-- One leaf of the small page at 64 MiB, through a table that is there, and a refused range. -/
def mapI : Instr := .mapLeaves 0 (BitVec.ofNat 512 (put 1 329 32 + put 1 328 1 + put (2 ^ 26) 272 48 + put 1 252 20 + put 1 245 1 + put 0x400 196 48))
def unmapI : Instr := .unmap 0 (BitVec.ofNat 512 (put 1 329 32 + put 1 328 1 + put 1 252 20))
def pointerI : Instr := .mapTablePointer 0 (BitVec.ofNat 512 (put 1 329 32 + put (2 ^ 25) 272 48 + put 1 252 20 + put 32 196 48 + put 2 194 2))

/-- What a map works on, as its walks leave it. -/
def mapR (s : State) (op : MapOp) (w : Word512) : Hw := (s.taken 0 w).hw.mapTouch op w

theorem wit_map : let s := mapped up
    let w := rowBits mapI
    let r := mapR s .leaves w
    startsB s 0 w = true ∧ mpRangeBad .leaves w = false ∧ r.mapRefusal .leaves w (r.mapAll .leaves w) = 0 ∧
      (r.mapAll .leaves w).map (fun x => match x with | .ok p => some p.off | .error _ => none) = [some (65536 + 16)] ∧ mpDies w = [0] ∧
      (s.hw.chip.stk.toList.all fun k => k.errs == []) = true ∧
      (mapR up .leaves w).mapRefusal .leaves w ((mapR up .leaves w).mapAll .leaves w) ≠ 0 := by decide +kernel

theorem wit_map_forms : let s := mapped up
    let u := rowBits unmapI
    let p := rowBits pointerI
    startsB s 0 u = true ∧ mpRangeBad .unmap u = false ∧ (mapR s .unmap u).mapRefusal .unmap u ((mapR s .unmap u).mapAll .unmap u) = 0 ∧
      startsB s 0 p = true ∧ mpRangeBad .pointer p = false ∧ (mapR s .pointer p).mapRefusal .pointer p ((mapR s .pointer p).mapAll .pointer p) = 0 := by
  decide +kernel

/-- An agent that stands at a fault in the range which a leaf now covers. -/
def faultS : State := mapped (withCx fun x => { x with xfers := [{ xfer0 with stall := .fault (2 ^ 26) 1 2 1 (some 0) }], fslots := [0] })

theorem wit_map_fault : let w := rowBits mapI
    let r := mapR faultS .leaves w
    startsB faultS 0 w = true ∧ r.mapRefusal .leaves w (r.mapAll .leaves w) = 0 ∧ (faultS.hw.cx 0).agents.contains (.xfer 1) = true ∧
      (faultS.hw.cx 0).stallOf (.xfer 1) = .fault (2 ^ 26) 1 2 1 (some 0) ∧ (faultS.hw.cx 0).root = mpRoot w ∧ (faultS.hw.die 0).phase = .running ∧
      ((faultS.hw.cx 0).stallOf (.xfer 1)).faulted.any (fun f => decide (mpVa w ≤ f.1) && decide (f.1 < mpVa w + mpPages w * mpSize .leaves w)) = true := by
  decide +kernel

def withArg (b : List Byte) (s : State := up) : State := s.onHw fun h => h.onHost fun x => { x with mem := x.mem.writeN 64 b }
def createI : Instr := .descCreate 0 (argAt (put 5 364 12))
/-- A stream record that names slot 5. -/
def streamOf5 : Word512 := BitVec.ofNat 512 (put 1 502 4 + put 5 486 12 + put 5 356 4)

theorem wit_desc : let s := withArg (leBytes 64 tensor1.toNat)
    startsB s 0 (rowBits createI) = true ∧ s.hw.descBad (s.nextCmd 0 (rowBits createI)) = none ∧
      BitVec.ofNat 512 (leNat (bytesAt (s.argOf (rowBits createI)) 0 64)) = tensor1 ∧
      descReason (fun _ => 0) (fun _ => false) none tensor1 = 0 ∧ descReason (fun _ => 0) (fun _ => false) none (0 : Word512) ≠ 0 ∧
      startsB up 0 (rowBits (.descDestroy 0 0)) = true ∧ up.hw.descBad (up.nextCmd 0 (rowBits (.descDestroy 0 0))) = none ∧
      destroyReason [(3, streamOf5)] 5 tensor1 = 0xC ∧ destroyReason [(5, tensor1)] 5 tensor1 = 0 := by decide +kernel

theorem wit_red_setup : startsB up 0 (rowBits (.redSetup 0 (argAt 0))) = true ∧ up.hw.redReason 0 (0 : Word512) = 0 ∧ up.hw.redReason 0 (1 : Word512) = 1 ∧
    (live.hw.redReason 5 (group5 1) ≠ 0) := by decide +kernel

/-! ### Waypoints -/

/-- A take to the host region at 1 MiB, of one unit of stack 0. -/
def takeArg : List Byte := (leBytes 8 0 ++ leBytes 8 (2 ^ 20) ++ leBytes 8 (2 ^ 20) ++ leBytes 8 1 ++ leBytes 8 (put 1 16 17 + 0x3000))
def wpS : State := withArg takeArg (launchS 1 (run1 id fun c => { c with ents := [ent1] }))
def takeI : Instr := .wpTake 0 (argCtx (put 1 383 1 + put 1 376 6 + put 2 370 6))

theorem wit_take : startsB wpS 0 (rowBits takeI) = true ∧ (wpS.hw.ctx? 1).map (fun k => wpS.hw.takeReason (wpS.nextCmd 0 (rowBits takeI)) k) = some 0 ∧
    (wpS.hw.regMem true 0 0).wf = true ∧ (live.hw.takeReason (live.nextCmd 0 (rowBits takeI)) ctx1) ≠ 0 := by decide +kernel

def reserveArg : List Byte := leBytes 24 0 ++ leBytes 8 1 ++ leBytes 8 (put 1 16 17 + 0x3000)
def reserveI : Instr := .wpReserve 0 (argAt (put 3 366 4 + put 1 350 16))
def releaseI : Instr := .wpRelease 0 (BitVec.ofNat 512 (put 3 366 4))
def heldRegion : State := up.onHw fun h => h.onChip fun c => { c with regions := c.regions.set 3 ⟨some 1, [BitVec.ofNat 64 (put 1 16 17 + 0x3000)]⟩ }

theorem wit_regions : let s := withArg reserveArg
    startsB s 0 (rowBits reserveI) = true ∧ s.hw.reserveReason (s.nextCmd 0 (rowBits reserveI)) = 0 ∧ up.hw.reserveReason (up.nextCmd 0 (rowBits reserveI)) ≠ 0 ∧
      startsB heldRegion 0 (rowBits releaseI) = true ∧ wpRegion (rowBits releaseI) = 3 ∧ cmArg (rowBits releaseI) = 0 ∧
      (vget heldRegion.hw.chip.regions 3 ⟨none, []⟩).owner = some 1 ∧ exOverlap [BitVec.ofNat 64 (put 1 16 17 + 0x3000)] = false := by decide +kernel

/-- Slot A of the host region at 1 MiB holds context 1 of generation 4: the bytes of its header that are not zero, and the command's argument. -/
def slotX : Nat := slotHeader true { ctx1 with ents := [ent1] } 4 0 [BitVec.ofNat 64 (put 1 16 17 + 0x3000)]
def slotMem : Memory := [(74, 16#8), (82, 16#8), (1048577, 48#8), (1048578, 1#8), (1048707, 10#8), (1048718, 12#8), (1049006, 18#8), (1049007, 8#8),
  (1049012, 4#8), (1049016, 1#8), (1049018, 32#8), (1049019, 132#8), (1049020, 49#8), (1049021, 80#8), (1049022, 87#8), (1049023, 71#8), (1049024, 198#8),
  (1049025, 122#8), (1049026, 64#8), (1049027, 182#8)]
def slotS : State := up.onHw fun h => h.onHost fun x => { x with mem := slotMem }

theorem readN_append (m : Memory) (a p q : Nat) : m.readN a (p + q) = m.readN a p ++ m.readN (a + p) q := by
  simp only [Memory.readN, List.range_add, List.map_append, List.map_map]
  congr 1
  apply List.map_congr_left
  intro i _
  simp [Nat.add_assoc]

theorem leNat_append (l r : List Byte) : leNat (l ++ r) = leNat l + 256 ^ l.length * leNat r := by
  induction l with
  | nil => simp [leNat]
  | cons x l ih => simp only [List.cons_append, leNat, ih, List.length_cons]; ring

/-- A number read in pieces of `k` bytes. -/
theorem leNat_pieces (m : Memory) (a k x : Nat) : ∀ n, (∀ i, i < n → leNat (m.readN (a + k * i) k) = x / 256 ^ (k * i) % 256 ^ k) →
    leNat (m.readN a (k * n)) = x % 256 ^ (k * n)
  | 0, _ => by simp [Memory.readN, leNat, Nat.mod_one]
  | n + 1, h => by
    rw [Nat.mul_succ, readN_append, leNat_append, leNat_pieces m a k x n fun i hi => h i (by omega), h n (by omega)]
    simp only [Memory.readN, List.length_map, List.length_range]
    rw [pow_add, Nat.mod_mul]

/-- A fold over bytes read in pieces. -/
theorem fold_pieces {α : Type} (f : α → Byte → α) (m : Memory) (a k : Nat) (s : Nat → α) :
    ∀ n, (∀ i, i < n → (m.readN (a + k * i) k).foldl f (s i) = s (i + 1)) → (m.readN a (k * n)).foldl f (s 0) = s n
  | 0, _ => by simp [Memory.readN]
  | n + 1, h => by
    rw [Nat.mul_succ, readN_append, List.foldl_append, fold_pieces f m a k s n fun i hi => h i (by omega), h n (by omega)]

/-- The CRC after each 32 bytes of that header. -/
def slotCrc : List Nat := [4294967295, 3509331620, 1407036246, 2768758190, 2383024182, 657622298, 3284334494, 3594558562, 3418284010, 763624708, 255607383,
  4236201856, 3604594806, 231085288, 1237288249]

theorem slot_number : leNat (slotMem.readN (2 ^ 20) 448) = slotX := by
  have h : leNat (slotMem.readN (2 ^ 20) 448) = slotX % 256 ^ (32 * 14) := leNat_pieces slotMem (2 ^ 20) 32 slotX 14 (by decide +kernel)
  exact h.trans (by decide +kernel)

theorem slot_crc : (slotMem.readN (2 ^ 20) 448).foldl crc32cByte 0xFFFFFFFF = 1237288249 :=
  fold_pieces crc32cByte slotMem (2 ^ 20) 32 (fun i => slotCrc.getD i 0) 14 (by decide +kernel)

theorem headerAt_of {m : Memory} {a x y : Nat} (h : leNat (m.readN a 448) = x) (g : (m.readN a 448).foldl crc32cByte 0xFFFFFFFF = y)
    (hm : natFld x 3552 32 = 0x47575031) (hc : m.readLE (a + 448) 4 = y ^^^ 0xFFFFFFFF) : headerAt m a = some x := by
  simp [headerAt, crc32c, h, g, hm, hc]

theorem slot_valid : validAt slotMem (2 ^ 20) = some slotX := by
  rw [validAt, headerAt_of slot_number slot_crc (by decide +kernel) (by decide +kernel)]
  decide +kernel

def restoreI : Instr := .wpRestoreHost 0 (argCtx 0)

theorem wit_restore : startsB slotS 0 (rowBits restoreI) = true ∧ slotS.hw.restoreReason (slotS.nextCmd 0 (rowBits restoreI)) true = 0 ∧
    slotS.hw.ctx? 1 = none ∧ wpLen true (slotS.nextCmd 0 (rowBits restoreI)) = 2 ^ 20 ∧ wpHostbase (slotS.nextCmd 0 (rowBits restoreI)).arg = 2 ^ 20 ∧
    shGen slotX = 4 ∧ slotDies slotX = [ent1] ∧ slotDiesOk slotX = true ∧ slotS.hw.dieAvail 0 = true ∧ slotS.hw.stkUnavailable 0 = false ∧
    65536 * shUnits slotX ≤ 32768 * 2 ^ 20 ∧ chooseSlot (some slotX) none 0 = some (slotX, false) ∧ validAt [] (2 ^ 20) = none ∧
    slotS.hw.restoreReason (slotS.nextCmd 0 (rowBits (.wpRestoreBuddy 0 (argCtx 0)))) false ≠ 0 := by decide +kernel

def take0 (st : TakeSt) : Take := ⟨1, 3, st, true, 0, 0, false, 1, 2, 0, BitVec.ofNat 64 (2 ^ 20), 2 ^ 35, [], false, 1⟩
def takeS (st : TakeSt) (s : State := run1 fun d => { d with cx := { d.cx with sems := d.cx.sems.set 1 1 } }) : State :=
  s.onHw fun h => h.onChip fun c => { c with takes := [take0 st] }

theorem wit_copies : (takeS .declare).hw.take? 1 = some (take0 .declare) ∧ (takeS .declare).hw.ctxRuns 1 = some ctx1 ∧
    (ctx1.ents.map (·.die)).Nodup ∧ ((takeS .declare).hw.cx 0).sem 1 = 1 ∧ (takeS .drain).hw.redBusy 1 = false ∧
    (List.range 8).any (redS 1 []).hw.links.alive = true ∧ (takeS .copy).hw.host.handover = false ∧ (takeS .copy).hw.host.bme = true := by decide +kernel

/-- A take to the buddy, the next module in dimension 0, with every port Up. -/
theorem wit_stripes : let h := (redS 1 []).hw
    h.stripeTurns (stepPos h.links.lpos 0) ≠ [] ∧ (takeS .copy).hw.stripeTurns 0 = [] ∧
      ((takeS .copy).hw.chip.stk.toList.all fun k => k.errs == []) = true := by decide +kernel

/-- Memory is sound where every stack, scratchpad and remote memory passes its check. -/
theorem soundMem_of_checks (h : Hw)
    (ks : (h.chip.stk.toList.all fun k => k.bad == [] && k.mem.wf && k.chans.toList.all fun c => c.st != .failed) = true)
    (ds : (h.chip.dies.toList.all fun d => d.cx.cores.toList.all fun c => c.spad.wf) = true)
    (hm : h.host.mem.wf = true) (rm : ∀ e ∈ h.chip.remote, e.2.wf = true) : h.soundMem := by
  have i : (Stack.init.bad == [] && Stack.init.mem.wf && Stack.init.chans.toList.all fun c => c.st != .failed) = true := by decide +kernel
  have j : (Die.init.cx.cores.toList.all fun c => c.spad.wf) = true := by decide +kernel
  refine ⟨fun k => ?_, fun n c => ?_, hm, rm⟩
  · have e : (h.stk k).bad == [] && (h.stk k).mem.wf && (h.stk k).chans.toList.all (fun c => c.st != .failed) := by
      rcases vget_mem_or h.chip.stk k Stack.init with hm | hm
      · exact List.all_eq_true.1 ks _ hm
      · exact (congrArg (fun z : Stack => z.bad == [] && z.mem.wf && z.chans.toList.all fun c => c.st != .failed) hm).trans i
    simp only [Bool.and_eq_true, beq_iff_eq, List.all_eq_true, bne_iff_ne] at e
    exact ⟨e.1.1, e.1.2, e.2⟩
  · have e : ((h.die n).cx.cores.toList.all fun c => c.spad.wf) = true := by
      rcases vget_mem_or h.chip.dies n Die.init with hm | hm
      · exact List.all_eq_true.1 ds _ hm
      · exact (congrArg (fun z : Die => z.cx.cores.toList.all fun c => c.spad.wf) hm).trans j
    rcases vget_mem_or (h.cx n).cores c Core.init with hm | hm
    · exact List.all_eq_true.1 e _ hm
    · exact (congrArg (fun z : Core => z.spad.wf) hm).trans (by decide +kernel)

theorem wit_sound_mem : (takeS .copy).hw.soundMem :=
  soundMem_of_checks _ (by decide +kernel) (by decide +kernel) (by decide +kernel) (by decide +kernel)

theorem wit_region_mem : heldRegion.hw.soundMem ∧ (heldRegion.hw.chip.stk.toList.all fun k => k.errs == []) = true :=
  ⟨soundMem_of_checks _ (by decide +kernel) (by decide +kernel) (by decide +kernel) (by decide +kernel), by decide +kernel⟩

/-! ### The power manager -/

def setPower (f : Power → Power) (s : State := up) : State := { s with power := f s.power }
def grantI (g q : Nat) : Instr := .pwrGrant 0 (BitVec.ofNat 512 (put g 368 16 + put q 352 16))
/-- A grant of 2,000 W with number 5 is in force, from the I3C path. -/
def grantS : State := setPower fun p => { p with cfg := { p.cfg with gsrc := 0, gtmo := 5 }, grant := { p.grant with accepted := true, last := 5, grant := 2000 } }

theorem wit_grants : startsB up 0 (rowBits (.latTolDevice 0 (BitVec.ofNat 512 (put 100 352 32)))) = true ∧
    startsB up 0 (rowBits (.latTolRole 0 (BitVec.ofNat 512 (put 100 352 32 + put 1 349 3)))) = true ∧
    startsB live 0 (rowBits (.latTolContext 0 (inCtx (put 100 352 32)))) = true ∧ live.hw.ctx? 1 = some ctx1 ∧
    startsB up 0 (rowBits (grantI 800 1)) = true ∧ up.power.cfg.gsrc = 2 ∧ up.power.grant.accepted = false ∧ startsB up 0 (rowBits (grantI 799 1)) = true ∧
    grantS.power.cfg.gsrc = 0 ∧ ((5 : BitVec 16) - grantS.power.grant.last).toNat = 0 ∧ ((32772 : BitVec 16) - grantS.power.grant.last).toNat = 32767 ∧
    ((32773 : BitVec 16) - grantS.power.grant.last).toNat = 32768 ∧ grantS.power.cfg.gtmo ≠ 0 ∧ grantS.power.grant.lapsed = false ∧
    grantS.power.grant.next = none ∧ grantS.mctpUp .i3c = true ∧ State.reset.mctpUp .i3c = false ∧ grantS.hw.host.handover = false ∧
    (setPower fun p => { p with cfg := { p.cfg with gsrc := 1 } }).power.cfg.gsrc = 1 ∧ 2 ≤ up.power.cfg.gsrc.toNat := by decide +kernel

theorem wit_power : live.power.shutdown = false ∧ (idleUnits.all fun u => !live.asleep u) = true ∧ live.power.cfg.reclaim = true ∧ live.hw.occupied 0 = true ∧
    live.hw.occupied 1 = false ∧ bit (live.power.die 0).droop 5 = false ∧
    bit ((setPower fun p => p.updDie 0 fun d => { d with droop := 32 }).power.die 0).droop 5 = true ∧
    bit (setPower fun p => { p with rebalancing := 8 }).power.rebalancing 3 = true ∧ live.mayEnter (.matrixGated 0) = true ∧
    idleLatency (.matrixGated 0) ≤ live.unitTol (.matrixGated 0) ∧ live.mayEnter (.dieOff 0) = false ∧ live.mayEnter (.dieOff 1) = true ∧
    ¬ idleLatency (.dieOff 1) ≤ live.unitTol (.dieOff 1) := by decide +kernel

/-- A thermal shutdown that has put everything off, with die 3 the last one hot. -/
def shutS : State := setPower fun p => { p with shutdown := true, shutOff := true, aboveCool := [3] }

theorem wit_heat : live.power.shutdown = false ∧ live.power.shutOff = false ∧ live.hw.host.handover = false ∧ live.hw.chip.takes = [] ∧
    (live.hw.chip.ctxs.all fun c => c.st == .saved) = false ∧ (up.hw.chip.ctxs.all fun c => c.st == .saved) = true ∧ shutS.power.shutdown = true ∧
    shutS.power.shutOff = true ∧ (shutS.power.aboveCool.all fun m => m == (3 : Fin 100).val) = true ∧ shutS.power.cool ≠ .shutdown ∧
    (setPower (fun p => { p with aboveCool := [] }) shutS).power.aboveCool = [] ∧ up.power.mod.revflow = false ∧
    (setPower fun p => { p with revLimit := true, mod := { p.mod with revflow := true } }).power.mod.revflow = true := by decide +kernel

/-! ### The security root -/

def withSec (f : Sec → Sec) (s : State := up) : State := { s with sec := f s.sec }

theorem bytesAt_mid (l m r : List Byte) : bytesAt (l ++ (m ++ r)) l.length m.length = m := by
  apply List.ext_getElem
  · simp [bytesAt]
  · intro i h1 h2
    simp [bytesAt, List.getElem?_append_right, List.getElem?_append_left h2, h2]

theorem bytesAt_length (l : List Byte) (a n : Nat) : (bytesAt l a n).length = n := by simp [bytesAt]

/-- Block 0 of an image of three blocks, whose digest table block has the digest of `d`. -/
def head1 : List Byte := [0x31, 0x4D, 0x46, 0x47, 1, 0, 0, 0, 1, 0, 1, 0, 9, 0, 0, 0, 1, 0, 0, 0, 0, 0, 1, 0] ++ List.replicate 232 0
def image3 (d : List Byte) : List Byte := head1 ++ (digestOf d ++ [])

theorem image3_digest (k : FwBank) (d : List Byte) : k.digest (image3 d) 1 = some (digestOf d) := by
  have h : fhTable (image3 d) = 1 := by
    have : fhNblk (image3 d) = 1 := by rfl
    rw [fhTable, this]
  have e : bytesAt (image3 d) 256 64 = digestOf d := by
    have := bytesAt_mid head1 (digestOf d) []
    rwa [show head1.length = 256 from by decide +kernel, show (digestOf d).length = 64 from bytesAt_length _ _ _] at this
  simp [FwBank.digest, h, e]

/-- Block 1 of that image is accepted, whatever it holds. -/
theorem wit_block1 (d : List Byte) : (withSec fun x => { x with stage := 1, banks := x.banks.set 1 ⟨[(0, image3 d)], false⟩ }).sec.blockReason 1 d = 0 := by
  have g : ∀ k : FwBank, k.digest (image3 d) 1 = some (digestOf d) := fun k => image3_digest k d
  have b : ¬ fhBlocks (image3 d) ≤ 1 := by
    have : fhNblk (image3 d) = 1 := by rfl
    simp [fhBlocks, fhTable, this]
  have e : (withSec fun x => { x with stage := 1, banks := x.banks.set 1 ⟨[(0, image3 d)], false⟩ }).sec.inactive = ⟨[(0, image3 d)], false⟩ := rfl
  unfold Sec.blockReason
  rw [e]
  simp [FwBank.block, b, g, withSec, up, State.reset, Sec.init]

/-- Block 0 is accepted where its signature verifies (log 63: Config holds the verification). -/
theorem wit_block0 (d : List Byte) (hf : fhFieldsOk d = true) (hc : fhCompsBad d = false) (hr : (fhRevoke d).testBit (fhKeyidx d) = false)
    (hv : Config.verifySig (Config.fwKey (fhKeyidx d)) (bytesAt d 0 0xF8E) (bytesAt d 0xF8E 114) = true) : up.sec.blockReason 0 d = 0 := by
  have k : bit up.sec.keyRev (fhKeyidx d) = false := by simp [bit, up, State.reset, Sec.init]
  simp [Sec.blockReason, hf, hc, Sec.keyBad, hr, hv, k, show up.sec.svnFuse.toNat = 0 from rfl, show up.sec.lock = false from rfl,
    show up.sec.stage = 0 from rfl]

theorem zeroAt_end {b : List Byte} {lo n : Nat} (h : b.length ≤ lo) : zeroAt b lo n = true := by
  simp [zeroAt, bytesAt]
  intro i _
  rw [List.getElem?_eq_none (by omega)]; rfl

theorem wit_block_fields : fhFieldsOk head1 = true ∧ fhCompsBad head1 = false ∧ (fhRevoke head1).testBit (fhKeyidx head1) = false := by
  refine ⟨?_, by decide +kernel, by decide +kernel⟩
  have l : head1.length = 256 := by decide +kernel
  unfold fhFieldsOk
  rw [zeroAt_end (lo := 0x900) (by omega), zeroAt_end (lo := 0x100 + 64 * fhTable head1) (by omega)]
  decide +kernel

/-- A staging that may be committed: an image of one block, with a hold-up bank and an input that last. -/
def commitS (active : List (Nat × List Byte)) : State := setPower (fun p => { p with mod := { p.mod with holdup := 1, vin := 520 } })
  (withSec fun x => { x with stage := 2, svnFuse := 1, keyRev := 2, banks := #v[⟨active, true⟩, ⟨[(0, [0x31, 0x4D, 0x46, 0x47, 1, 0, 2, 0, 0, 0, 0, 8])], false⟩] })
def handS : State := (withSec (fun x => { x with stage := 4, commit := some 3 }) (commitS [])).onHw fun h => h.onHost fun x => { x with handover := true }

theorem wit_commit : startsB (commitS [(0, [])]) 0 (rowBits (.fwCommit 0 0)) = true ∧ (commitS [(0, [])]).commitReason = 0 ∧
    (commitS [(0, [])]).sec.inactive.whole (((commitS [(0, [])]).sec.inactive.block 0).getD []) = true ∧
    (commitS [(0, [])]).sec.inactive.payload 1 = (commitS [(0, [])]).sec.active.payload 1 ∧ (commitS [(0, [])]).sec.active.block 0 ≠ none ∧
    (commitS []).commitReason = 0 ∧ (commitS []).sec.active.block 0 = none ∧ up.commitReason = 8 ∧
    (withSec (fun x => { x with banks := x.banks.set 1 ⟨[(0, head1)], false⟩ }) (commitS [])).sec.inactive.whole head1 = false ∧
    startsB up 0 (rowBits (.fwAbort 0 0)) = true ∧ startsB (commitS []) 0 (rowBits (.fwAbort 0 0)) = true ∧
    handS.hw.host.handover = true ∧ handS.sec.commit = some 3 ∧ handS.power.grant.held = [] ∧ handS.hw.host.cmds = [] := by decide +kernel

theorem wit_fuses : startsB up 0 (rowBits (.fwBlock 0 (argAt 0))) = true ∧ fld (rowBits (.fwBlock 0 (argAt 0))) 383 372 = 0 ∧
    fhSvn head1 < (withSec fun x => { x with svnFuse := 1 }).sec.svnFuse.toNat ∧ bit (withSec fun x => { x with keyRev := 1 }).sec.keyRev (fhKeyidx head1) = true ∧
    startsB (withSec fun x => { x with stage := 1, svnFuse := 3, banks := x.banks.set 1 ⟨[(0, head1)], false⟩ }) 0 (rowBits (.fwCommit 0 0)) = true ∧
    (withSec fun x => { x with stage := 1, svnFuse := 3, banks := x.banks.set 1 ⟨[(0, head1)], false⟩ }).sec.staged = some head1 ∧ fhSvn head1 < 3 := by
  decide +kernel

def spdmI (room : Nat) : Instr := .attestSpdm 0 (argAt (put 4096 320 64 + put 4 304 16 + put room 288 16))
def tokenI : Instr := .attestDebugUnlock 0 (argAt (put 256 304 16))

theorem wit_attest : spdmRowOf (.getVersion .i3c [0x10]) = some (0x84, .i3c, [0x10]) ∧ up.spdmUp .i3c = true ∧ State.reset.spdmUp .i3c = false ∧
    startsB up 0 (rowBits (spdmI 64)) = true ∧ spdmCodes.contains ((bytesAt (up.argOf (rowBits (spdmI 64))) 0 4).getD 1 0).toNat = false ∧
    startsB up 0 (rowBits tokenI) = true ∧ leAt (up.argOf (rowBits tokenI)) 0 4 ≠ 0x47444B31 ∧ up.hw.chip.ctxs = [] ∧ up.sec.lock = false ∧
    live.hw.chip.ctxs ≠ [] := by decide +kernel

/-- A token with the magic number, the serial number and the nonce last read, and a signature that verifies, is good (log 63). -/
theorem wit_token (r : List Byte) : let tok := leBytes 4 0x47444B31 ++ (leBytes 4 0 ++ (leBytes 8 Config.hubSerial.toNat ++ (leBytes 8 (Config.nonce 0).toNat ++ r)))
    leAt tok 0 4 = 0x47444B31 ∧ leAt tok 8 8 = Config.hubSerial.toNat ∧ (Config.nonce 0).toNat = leAt tok 16 8 := by
  refine ⟨?_, ?_, ?_⟩
  · have := bytesAt_mid [] (leBytes 4 0x47444B31) (leBytes 4 0 ++ (leBytes 8 Config.hubSerial.toNat ++ (leBytes 8 (Config.nonce 0).toNat ++ r)))
    simp only [List.nil_append, List.length_nil, leBytes_length] at this
    rw [leAt, this, leNat_leBytes]; rfl
  · have := bytesAt_mid (leBytes 4 0x47444B31 ++ leBytes 4 0) (leBytes 8 Config.hubSerial.toNat) (leBytes 8 (Config.nonce 0).toNat ++ r)
    simp only [List.length_append, leBytes_length, List.append_assoc] at this
    rw [leAt, this, leNat_leBytes]
    exact Nat.mod_eq_of_lt Config.hubSerial.isLt
  · have := bytesAt_mid (leBytes 4 0x47444B31 ++ (leBytes 4 0 ++ leBytes 8 Config.hubSerial.toNat)) (leBytes 8 (Config.nonce 0).toNat) r
    simp only [List.length_append, leBytes_length, List.append_assoc] at this
    rw [leAt, this, leNat_leBytes]
    exact (Nat.mod_eq_of_lt (Config.nonce 0).isLt).symm

theorem wit_lock : (withSec fun x => { x with lock := true, key := 7, fails := 14 }).sec.lock = true ∧
    (withSec fun x => { x with lock := true, key := 7, fails := 14 }).sec.fails ≠ 15 ∧ BitVec.ofNat 32 (fld (BitVec.ofNat 64 (put 7 16 32)) 47 16) = 7#32 ∧
    BitVec.ofNat 32 (fld (0 : Word64) 47 16) ≠ 7#32 ∧ State.reset.power.mod.input ≠ .qualified ∧
    startsB (withSec fun x => { x with lock := true }) 0 (rowBits (.fwBlock 0 (argAt 0))) = true ∧
    startsB (withSec fun x => { x with lock := true }) 0 (rowBits (.fwCommit 0 0)) = true ∧
    startsB (withSec fun x => { x with lock := true }) 0 (rowBits tokenI) = true := by decide +kernel

/-! ### Configuration and resets -/

def filtI : Instr := .ctrCfg 0 (argAt (put 1 379 5))
def applyI : Instr := .configApply 0 (argAt (put 8192 312 64 + put 16 296 16))

theorem wit_config : startsB up 0 (rowBits filtI) = true ∧ filtReason 1 ((List.range 1).map (filtEnt (up.argOf (rowBits filtI)))) = 0 ∧
    startsB up 0 (rowBits (.ctrCfg 0 (argAt (put 29 379 5)))) = true ∧
    filtReason 29 ((List.range 29).map (filtEnt (up.argOf (rowBits (.ctrCfg 0 (argAt (put 29 379 5))))))) = 1 ∧ startsB up 0 (rowBits applyI) = true ∧
    up.hw.host.canWrite 128 = false ∧ up.hw.host.mem.wf = true := by decide +kernel

theorem wit_unclaimed : live.hw.unclaimed live.hw.host.nextCmd := by
  have h : ((live.hw.chip.ctxs.all fun c => c.cmd != some live.hw.host.nextCmd && !(c.pre.contains live.hw.host.nextCmd) &&
    !((live.hw.segCmds c).contains live.hw.host.nextCmd)) && live.hw.chip.takes.all fun t => t.cmd != live.hw.host.nextCmd) = true := by decide +kernel
  simp only [Bool.and_eq_true, List.all_eq_true, bne_iff_ne, Bool.not_eq_true', List.contains_eq_mem, decide_eq_false_iff_not] at h
  exact ⟨fun c hc => ⟨(h.1 c hc).1.1, (h.1 c hc).1.2, (h.1 c hc).2⟩, h.2⟩

def lockedPort : State := withPort fun p => { p with locked := true, st := .disabled }
def cabledPort : State := setPower (fun p => { p with mod := { p.mod with cpres := 1 } }) (withPort fun p => { p with dir := 0, dirNow := 8, st := .up })
def resetPort : State := withPort fun p => { p with resets := [3] }

theorem wit_resets : startsB live 0 (rowBits (.resetWarm 0 0)) = true ∧ live.hw.host.ready = true ∧ State.reset.hw.host.ready = false ∧
    startsB live 0 (rowBits (.resetDie 0 0)) = true ∧ (live.hw.die 0).resetting = false ∧ (live.hw.die 0).owner = some 1 ∧ (live.hw.die 0).phase = .running ∧
    live.hw.ctx? 1 = some ctx1 ∧ ctx1.st ≠ .saved ∧ (live.hw.chip.ctxs.all fun c => c.st != .stopping) = true ∧ live.hw.take? 1 = none ∧ live.hw.chip.hostX = [] ∧ (up.hw.die 0).owner = none ∧
    ((withDie up fun d => { d with resetting := true }).hw.die 0).resetting = true ∧ startsB up 0 (rowBits (.resetLinkPort 0 0)) = true ∧
    (resetPort.hw.port 0).resets ≠ [] ∧ (lockedPort.hw.port 0).resets = [] ∧ (lockedPort.hw.port 0).locked = true ∧ (lockedPort.hw.port 0).st = .disabled ∧
    (cabledPort.hw.port 0).resets = [] ∧ (cabledPort.hw.port 0).locked = false ∧ (cabledPort.hw.port 0).dir ≠ 0xF ∧ cabledPort.hw.host.handover = false ∧
    bit cabledPort.power.ldon 0 = true ∧ (cabledPort.hw.port 0).st = .up ∧ (cabledPort.hw.port 0).replay = [] ∧ (cabledPort.hw.port 0).waiting = [] ∧
    8 ≤ (cabledPort.hw.port 0).dirNow.toNat ∧ cabledPort.hw.links.bulkHeld = [] ∧ cabledPort.hw.chip.takes = [] := by decide +kernel

/-! ### Rings, registers and PCI Express -/

def setRing (r : Nat) (f : Ring → Ring) (s : State := up) : State := s.onHw fun h => h.onHost fun x => { x with rings := vupd x.rings r f }
def heldE : HeldEntry := ⟨0, false, none⟩
def onRing : Ring := { Ring.init with st := .running, log2 := 4, base := 8192, wb := 64 }

theorem wit_rings : let a := setRing 0 fun _ => onRing
    let b := setRing 64 fun _ => { onRing with tail := 1 }
    let c := setRing 64 fun _ => { onRing with head := 2, tail := 1, held := [heldE] }
    let t := setRing 64 fun _ => { onRing with irqen := true, since := 1, timeus := 5 }
    (a.hw.ring 0).size = 16 ∧ (a.hw.ring 0).st = .running ∧ (15 + 16 - 0) % 16 ≤ (0 + 16 - 1 + 16 - 0) % 16 ∧ (b.hw.ring 64).held = [] ∧
    (1 + (b.hw.ring 64).size - 0) % 16 ≤ ((b.hw.ring 64).tail.toNat + 16 - 0) % 16 ∧ (c.hw.ring 64).held = [heldE] ∧
    (3 + 16 - 2) % 16 ≤ (1 + 16 - 2) % 16 ∧ ((c.hw.ring 64).tail.toNat + 1) % 16 ≠ 3 ∧
    (c.hw.ring 64).wb.toNat + 8 ≤ (c.hw.ring 64).base.toNat + 64 * (c.hw.ring 64).tail.toNat ∧ (up.hw.ring 0).en = false ∧
    (up.hw.ring (64 + ((up.hw.ring 0).withCfg 0 (0 : Word64)).target.toNat)).en = false ∧ (b.hw.ring (64 + ((b.hw.ring 0).withCfg 0 (0 : Word64)).target.toNat)).en = true ∧
    (a.hw.ring 0).en = true ∧ (a.hw.ring 0).withCfg 0 (BitVec.ofNat 64 (put 4 56 4)) = a.hw.ring 0 ∧
    (a.hw.ring 0).withCfg 0 (BitVec.ofNat 64 (put 5 56 4)) ≠ a.hw.ring 0 ∧ (t.hw.ring 64).irqen = true ∧ (t.hw.ring 64).timeus ≠ 0 ∧ t.hw.host.bme = true ∧
    (setRing 0 (fun _ => onRing) b).hw.ring 0 = onRing ∧ 64 + onRing.target.toNat = 64 ∧ onRing.st = .running ∧
    (up.onHw fun h => h.onHost fun x => { x with msixPend := 1 }).hw.host.msixPend = 1 := by decide +kernel

theorem wit_errors : ((setRing 0 fun _ => onRing).hw.ring 0).st = .running ∧ (up.hw.ring 0).st ≠ .running ∧
    (let c : Cmd := { cmd0 with w := rowBits (.dmaFlat 0 0) }; (withCmd c).hw.host.cmds.find? (fun c => c.q == 0 && cmCid c.w == 0 &&
      (c.wait != .running || cmOpcode c.w == 4)) = some c ∧ c.work = .none ∧ (withCmd c).hw.chip.hostX = []) ∧
    (let s := withXfer xfer0; (s.hw.die 0).owner = some 1 ∧ (s.hw.die 0).phase = .running ∧ (s.hw.cx 0).xfers = [xfer0] ∧ xfer0.id = 1) ∧
    (let s := withPuu update0; (s.hw.die 0).owner = some 1 ∧ (s.hw.die 0).phase = .running ∧ (s.hw.cx 0).works (.puu 0) = true ∧
      (s.hw.cx 0).works (.gme 0) = false ∧ s.hw.host.mem.wf = true) ∧
    (takeS .copy).hw.take? 1 ≠ none ∧ up.hw.take? 1 = none := by decide +kernel

theorem wit_registers : up.reg? 0x2FF8 = none ∧ (up.reg? 0x3000).isSome = true ∧ (up.hw.ring 5).en = false ∧ up.sec.stage ≠ 3 ∧ up.sec.stage ≠ 4 ∧
    (withSec fun x => { x with stage := 4 }).sec.stage = 4 ∧ ((List.range 130).all fun r => (up.hw.ring r).held == []) = true ∧ (up.hw.ring 128).lostNew = 0 ∧
    up.hw.chip.hostX = [] ∧ up.hw.host.msixPend = 0 ∧ up.hw.host.cmds = [] ∧ (withCmd { cmd0 with wait := .bme }).hw.host.cmds = [{ cmd0 with wait := .bme }] ∧
    up.hw.host.perst = false ∧ State.reset.hw.host.perst = true := by decide +kernel

/-! ### Start-up, reset and the invariant -/

/-- A start that finds nothing wrong. -/
def goodStart : StartUp := ⟨(true, true), false, 0, [], [], [], 0, false, false, 0, true, 0, 100⟩

theorem wit_starts : up.power.mod.input = .qualified ∧ State.reset.power.mod.input ≠ .qualified ∧ up.hw.host.perst = false ∧ 8 ≤ up.hw.host.bootStep.toNat ∧
    State.reset.hw.host.bootStep.toNat < 8 ∧ (setPower fun p => { p with mod := { p.mod with input := .tripped } }).power.mod.input = .tripped ∧
    up.power.mod.holdup ≠ 3 ∧ up.hw.chip.redq = [] ∧ ((List.range 256).all fun g => (up.hw.group g).issues == []) = true ∧ up.hw.chip.takes = [] ∧
    up.sec.stage = 0 ∧ goodStart.pwrFail = 0 ∧ goodStart.idFail = 0 ∧ up.power.mod.leak = false ∧ bit up.power.mod.cpres 0 = false ∧
    (withSec fun x => { x with idDone := true }).sec.idDone = true ∧ bit up.sec.idFail 98 = false ∧ up.hw.chip.ctxs = [] ∧ up.sec.idDone = false ∧
    (up.onHw fun h => h.onHost fun x => { x with bootStep := 8 }).hw.host.bootStep = 8 := by decide +kernel

end Sys2Proof.Tests
end

section
namespace Sys2Proof.Machine

/-! ### A row puts its word to Helm -/

/-- A control-word row puts its operand, with the bits of the row, to Helm of its die. -/
theorem exec_word {i : Instr} {d : Fin 16} (s : State) (h : wordDie i = some d) : exec i s = issueOn d (rowBits i) s := by
  cases i <;> cases h <;> rfl

@[simp] theorem State.wakeFor_hw (s : State) (n : Nat) (w : Word512) : (s.wakeFor n w).hw = s.hw := by
  unfold State.wakeFor; split <;> rfl

/-- In a valid bank and inside its segment Helm meets the word that it comes to. -/
theorem Hw.issueWord_inside {h : Hw} {n : Nat} (w : Word512) (run : h.canIssue n = true)
    (bank : ((h.cx n).bank (h.cx n).helm.bank.toNat).valid = true)
    (inside : (h.cx n).helm.index.toNat < ((h.cx n).bank (h.cx n).helm.bank.toNat).words.toNat) :
    h.issueWord n w = h.meetWord n w ⟨false, false⟩ := by
  simp [Hw.issueWord, run, bank, Nat.not_le.2 inside]

/-- What Helm's own part of the fetch condition says. -/
theorem Hw.canIssue_iff {h : Hw} {n : Nat} : h.canIssue n = true ↔
    (h.die n).phase = .running ∧ (h.cx n).helm.held = none ∧ (h.cx n).helm.st = .issuing ∧ (h.cx n).pre ≠ .atYield 0 := by
  simp [Hw.canIssue, Hw.cx, and_assoc]

/-! ### What a legal word is -/

theorem failIf_eq_nil {b : Bool} {f r : Nat} : failIf b f r = [] ↔ b = false := by
  cases b <;> simp [failIf]

theorem checkWord_eq_none {e : LegalEnv} {w : Word512} : checkWord e w = none ↔ wordFails e w = [] := by
  unfold checkWord
  split <;> simp [*]

theorem seqFails_of_legal {e : LegalEnv} {w : Word512} (h : checkWord e w = none) : seqFails e w = [] := by
  have := checkWord_eq_none.1 h
  simp only [wordFails, List.append_eq_nil_iff, and_assoc] at this
  exact this.1

/-- A legal LOOP_END counts a counter that is not 0, and one that the word does not load (R64, R65). -/
theorem legal_loopEnd {e : LegalEnv} {w : Word512} (h : checkWord e w = none) (c : cwClass w = 1) :
    e.lc (cwLc w) ≠ 0 ∧ ¬ (cwImmuse w = 1 ∧ cwLdlc w = cwLc w) := by
  have := seqFails_of_legal h
  simp only [seqFails, List.append_eq_nil_iff, failIf_eq_nil] at this
  obtain ⟨⟨-, load⟩, zero⟩ := this
  refine ⟨by simpa [c] using zero, fun ⟨imm, same⟩ => ?_⟩
  simp [imm, c, same] at load

/-! ### Elements of vectors -/

theorem vget_map {α β : Type} {n : Nat} (v : Vector α n) (f : α → β) {i : Nat} (a : α) (b : β) (hi : i < n) :
    vget (v.map f) i b = f (vget v i a) := by
  simp [vget_lt _ _ hi]

theorem vget_setIfInBounds {α : Type} {n : Nat} (v : Vector α n) (i k : Nat) (a d : α) :
    vget (v.setIfInBounds i a) k d = if i = k ∧ k < n then a else vget v k d := by
  by_cases hk : k < n
  · simp [vget_lt _ _ hk, Vector.getElem_setIfInBounds, hk]
  · simp [vget_ge _ _ (Nat.le_of_not_lt hk), hk]

/-! ### Helm after a word -/

/-- The loop counters after a word: LOOP_END counts one down, LOOP_COUNT_LOAD sets one (R64, R65). -/
theorem vget_lcAfter_lc (w : Word512) (lc start : Vector Word32 8) {k : Nat} (hk : k < 8) :
    vget (lcAfter w lc start).1 k 0 =
      if cwImmuse w = 1 ∧ cwLdlc w = k then BitVec.ofNat 32 (cwImm w)
      else if cwClass w = 1 ∧ cwLc w = k then vget lc k 0 - 1 else vget lc k 0 := by
  have counted : vget (if cwClass w = 1 then lc.setIfInBounds (cwLc w) (lc.toList.getD (cwLc w) 0 - 1) else lc) k 0 =
      if cwClass w = 1 ∧ cwLc w = k then vget lc k 0 - 1 else vget lc k 0 := by
    by_cases hc : cwClass w = 1
    · rw [if_pos hc, vget_setIfInBounds]
      by_cases e : cwLc w = k
      · subst e; simp [hc, hk, vget]
      · simp [e]
    · simp [hc]
  by_cases hi : cwImmuse w = 1
  · rw [lcAfter, if_pos hi, vget_setIfInBounds, counted]; simp [hk, hi]
  · rw [lcAfter, if_neg hi, counted]; simp [hi]

theorem vget_lcAfter_start (w : Word512) (lc start : Vector Word32 8) {k : Nat} (hk : k < 8) :
    vget (lcAfter w lc start).2 k 0 = if cwImmuse w = 1 ∧ cwLdlc w = k then BitVec.ofNat 32 (cwImm w) else vget start k 0 := by
  unfold lcAfter
  by_cases hi : cwImmuse w = 1
  · simp [hi, vget_setIfInBounds, hk]
  · simp [hi]

@[simp] theorem Helm.next_step (x : Helm) (w : Word512) : (x.next w).step = x.step := by
  unfold Helm.next; dsimp only; split <;> rfl
@[simp] theorem Helm.next_skips (x : Helm) (w : Word512) : (x.next w).skips = x.skips := by
  unfold Helm.next; dsimp only; split <;> rfl
@[simp] theorem Helm.next_lc (x : Helm) (w : Word512) : (x.next w).lc = (lcAfter w x.lc x.lcStart).1 := by
  unfold Helm.next; dsimp only; split <;> rfl
@[simp] theorem Helm.next_lcStart (x : Helm) (w : Word512) : (x.next w).lcStart = (lcAfter w x.lc x.lcStart).2 := by
  unfold Helm.next; dsimp only; split <;> rfl

theorem Helm.next_st (x : Helm) (w : Word512) : (x.next w).st = if cwClass w = 8 then .idle else x.st := by
  unfold Helm.next
  generalize cwClass w = c
  match c with
  | 0 | 1 | 2 | 3 | 4 | 5 | 6 | 7 | 8 | _ + 9 => rfl

theorem Helm.next_bank (x : Helm) (w : Word512) : (x.next w).bank = match cwClass w with
    | 6 => BitVec.ofNat 1 ((x.stack.headD 0).toNat / 131072)
    | 7 => 1 - x.bank
    | _ => x.bank := by
  unfold Helm.next
  generalize cwClass w = c
  match c with
  | 0 | 1 | 2 | 3 | 4 | 5 | 6 | 7 | 8 | _ + 9 => rfl

theorem Helm.next_index (x : Helm) (w : Word512) : (x.next w).index = match cwClass w with
    | 1 => if 1 < (vget x.lc (cwLc w) 0).toNat then BitVec.ofNat 17 (cwTarget w) else x.index + 1
    | 2 => BitVec.ofNat 17 (cwTarget w)
    | 3 => if x.flagNow (cwFlag w) then BitVec.ofNat 17 (cwTarget w) else x.index + 1
    | 4 => if x.flagNow (cwFlag w) then x.index + 1 else BitVec.ofNat 17 (cwTarget w)
    | 5 => BitVec.ofNat 17 (cwTarget w)
    | 6 => BitVec.ofNat 17 ((x.stack.headD 0).toNat % 131072)
    | 7 => BitVec.ofNat 17 (cwTarget w)
    | _ => x.index + 1 := by
  unfold Helm.next
  generalize cwClass w = c
  match c with
  | 0 | 1 | 2 | 3 | 4 | 5 | 6 | 7 | 8 | _ + 9 => rfl

theorem Helm.next_stack (x : Helm) (w : Word512) : (x.next w).stack = match cwClass w with
    | 5 => BitVec.ofNat 18 (131072 * x.bank.toNat + (x.index + 1).toNat) :: x.stack
    | 6 => x.stack.tail
    | _ => x.stack := by
  unfold Helm.next
  generalize cwClass w = c
  match c with
  | 0 | 1 | 2 | 3 | 4 | 5 | 6 | 7 | 8 | _ + 9 => rfl

/-- Helm without its flag loads, whose votes the cores add as they execute. -/
def Helm.unflagged (x : Helm) : Helm := { x with flags := [] }

/-- Helm `x` after it has issued word `w`, without its flag loads. -/
def Helm.issued (x : Helm) (w : Word512) (segs : List (Option (BitVec 12))) : Helm :=
  let y := ((x.record segs w).next w).tick.foldFlags
  { y with
    flags := [], held := none, resolved := none
    statFmt := if 2 ≤ mxMode w then BitVec.ofNat 3 (mxFmts w) else y.statFmt
    st := if y.st = .idle then .idle else .issuing
    redo := if x.again then y.redo else none }

@[simp] theorem Helm.unflagged_held (x : Helm) : x.unflagged.held = x.held := rfl
@[simp] theorem Helm.issued_held (x : Helm) (w : Word512) (segs : List (Option (BitVec 12))) : (x.issued w segs).held = none := rfl

/-- Helm moves as the word that it issues says. -/
theorem Helm.issued_moves (x : Helm) (w : Word512) (segs : List (Option (BitVec 12))) (run : x.st = .issuing) :
    HelmMoves w x (x.issued w segs) where
  step := congrArg (· + 1) (Helm.next_step (x.record segs w) w)
  held := rfl
  skips := Helm.next_skips (x.record segs w) w
  st := by
    have e : (x.issued w segs).st = if ((x.record segs w).next w).st = .idle then .idle else .issuing := rfl
    have r : (x.record segs w).st = .issuing := run
    rw [e, Helm.next_st, r]
    split <;> rfl
  bank := Helm.next_bank (x.record segs w) w
  index := Helm.next_index (x.record segs w) w
  stack := Helm.next_stack (x.record segs w) w
  lc k hk := (congrArg (vget · k 0) (Helm.next_lc (x.record segs w) w)).trans (vget_lcAfter_lc w x.lc x.lcStart hk)
  start k hk := (congrArg (vget · k 0) (Helm.next_lcStart (x.record segs w) w)).trans (vget_lcAfter_start w x.lc x.lcStart hk)

theorem HelmMoves.of_unflagged {w : Word512} {x y z : Helm} (e : y.unflagged = z) (m : HelmMoves w x z) : HelmMoves w x y := by
  subst e
  exact ⟨m.step, m.held, m.skips, m.st, m.bank, m.index, m.stack, m.lc, m.start⟩

/-- What Helm notes of resolved barriers decides nothing of where it moves. -/
theorem HelmMoves.of_resolved {w : Word512} {x y : Helm} {r : Option (BitVec 48)} (m : HelmMoves w { x with resolved := r } y) :
    HelmMoves w x y :=
  ⟨m.step, m.held, m.skips, m.st, m.bank, m.index, m.stack, m.lc, m.start⟩

/-- LOOP_END on a counter that is not 0, and that the word does not load, counts it down by one (R65). -/
theorem HelmMoves.counts_down {w : Word512} {x y : Helm} (m : HelmMoves w x y) (c : cwClass w = 1)
    (kept : ¬ (cwImmuse w = 1 ∧ cwLdlc w = cwLc w)) (positive : 1 ≤ (vget x.lc (cwLc w) 0).toNat) :
    (vget y.lc (cwLc w) 0).toNat = (vget x.lc (cwLc w) 0).toNat - 1 := by
  have inside : cwLc w < 8 := Nat.mod_lt _ (by decide)
  rw [m.lc _ inside, if_neg kept, if_pos ⟨c, rfl⟩]
  bv_omega

/-! ### A change of a die's context -/

@[simp] theorem Hw.diesOf_updHelm (h : Hw) (n : Nat) (f : Helm → Helm) (m : Nat) : (h.updHelm n f).diesOf m = h.diesOf m :=
  Hw.diesOf_updCx ..

/-- A change of a die's context that leaves one part of it leaves that part of every die. -/
theorem Hw.proj_updCx {β : Type} {h : Hw} {n m : Nat} {f : DieCtx → DieCtx} (g : DieCtx → β) (hf : ∀ x, g (f x) = g x) :
    g ((h.updCx n f).cx m) = g (h.cx m) := by
  rw [Hw.cx_updCx]
  split
  · exact hf _
  · rfl

/-! ### The loader's part of an issue (04:R94-R96) -/

/-- From `h` to `h'` requests to bank loaders come, go and start: Helm, pre-emption, contexts and stack memory stay. -/
structure Hw.LoadsOnly (h h' : Hw) : Prop where
  stk : ∀ k, h'.stk k = h.stk k
  dies : ∀ m, h'.diesOf m = h.diesOf m
  helm : ∀ m, (h'.cx m).helm = (h.cx m).helm
  pre : ∀ m, (h'.cx m).pre = (h.cx m).pre

theorem Hw.LoadsOnly.refl (h : Hw) : h.LoadsOnly h := ⟨fun _ => rfl, fun _ => rfl, fun _ => rfl, fun _ => rfl⟩

theorem Hw.LoadsOnly.clean {h h' : Hw} (l : h.LoadsOnly h') (c : h.clean) : h'.clean := fun k => by rw [l.stk]; exact c k

theorem Hw.loadsOnly_updCx {h : Hw} {n : Nat} {f : DieCtx → DieCtx} (hf : ∀ x, (f x).helm = x.helm ∧ (f x).pre = x.pre) :
    h.LoadsOnly (h.updCx n f) where
  stk := Hw.updCx_stk h n f
  dies := Hw.diesOf_updCx h n f
  helm m := by rw [Hw.cx_updCx]; split <;> simp [hf]
  pre m := by rw [Hw.cx_updCx]; split <;> simp [hf]

theorem DieCtx.startLoad_keeps (x : DieCtx) : x.startLoad.helm = x.helm ∧ x.startLoad.pre = x.pre := by
  unfold DieCtx.startLoad
  split
  · exact ⟨rfl, rfl⟩
  · split
    · exact ⟨rfl, rfl⟩
    · dsimp only; split <;> exact ⟨rfl, rfl⟩

theorem Hw.loadsOnly_requestLoad (h : Hw) (n : Nat) (l : LoadReq) : h.LoadsOnly (h.requestLoad n l) :=
  Hw.loadsOnly_updCx fun x => by
    dsimp only
    split <;> exact DieCtx.startLoad_keeps _

theorem Hw.loadsOnly_releaseHeld (h : Hw) (n a : Nat) : h.LoadsOnly (h.releaseHeld n a) := by
  unfold Hw.releaseHeld
  dsimp only
  split
  · exact .refl h
  · exact Hw.loadsOnly_updCx fun x => DieCtx.startLoad_keeps _

theorem Hw.loadsOnly_switchLoads (h : Hw) (n a : Nat) : h.LoadsOnly (h.switchLoads n a) := by
  unfold Hw.switchLoads
  dsimp only
  split
  · exact Hw.loadsOnly_releaseHeld ..
  · split
    · exact Hw.loadsOnly_updCx fun x => DieCtx.startLoad_keeps _
    · split
      · exact .refl h
      · exact Hw.loadsOnly_requestLoad ..

/-! ### A word that is issued -/

theorem Hw.afterIssue_calm {h : Hw} {n : Nat} (y : Bool) (calm : (h.cx n).pre = .none) : h.afterIssue n y = h := by
  unfold Hw.afterIssue; rw [calm]

/-- Where the sides stay and no latent error meets the decoder, Helm stays but for its flag loads, and so do pre-emption and the dies of a context. -/
theorem Hw.Sides.lead {h h' : Hw} (e : h.Sides h') (c : h.clean) (n : Nat) :
    (h'.cx n).helm.unflagged = (h.cx n).helm.unflagged ∧ (h'.cx n).pre = (h.cx n).pre ∧ ∀ m, h'.diesOf m = h.diesOf m := by
  have side := (e.sides c).2
  have at_n := congrFun side n
  simp only [Hw.side, Prod.mk.injEq] at at_n
  obtain ⟨helm, -, -, pre, -⟩ := at_n
  exact ⟨helm, pre, Hw.diesOf_side side⟩

/-- What an issue does to Helm: it moves on as `Helm.issued` says, and the dies of every context stay. -/
theorem Hw.issueNow_helm {h : Hw} {n : Nat} (w : Word512) (hn : n < 16) (c : h.clean) (calm : (h.cx n).pre = .none) :
    (∃ segs, ((h.issueNow n w).cx n).helm.unflagged = (h.cx n).helm.issued w segs) ∧ ∀ m, (h.issueNow n w).diesOf m = h.diesOf m := by
  unfold Hw.issueNow
  extract_lets x again wa pend imm sig h1 segs h2 h3 h4
  have moved : (h2.cx n).helm.unflagged = x.issued w segs := by
    simp only [h2, h1, Hw.cx_updHelm, Hw.cx_updCx, hn, and_self, if_true]
    rfl
  have calm2 : (h2.cx n).pre = .none := by simp [h2, h1, Hw.cx_updHelm, Hw.cx_updCx, hn, calm]
  have dies2 : ∀ m, h2.diesOf m = h.diesOf m := fun m => by simp [h2, h1]
  have loads : h2.LoadsOnly h3 := by
    unfold h3
    split
    · exact Hw.loadsOnly_switchLoads ..
    · split
      · exact Hw.loadsOnly_releaseHeld ..
      · exact .refl h2
  have clean3 : h3.clean := loads.clean c
  have spread : h3.Sides ((h4.broadcast n x.step ⟨w, false, wa, x.skips.toNat, false⟩).release n) :=
    Hw.Sides.after (Hw.sides_release ..) (Hw.Sides.after (Hw.sides_broadcast ..) (Hw.keeps_count ..).sides)
  obtain ⟨helm, pre, dies⟩ := spread.lead clean3 n
  have afterwards := Hw.afterIssue_calm (cwYield w == 1) (pre.trans ((loads.pre n).trans calm2))
  rw [afterwards]
  exact ⟨⟨segs, by rw [helm, loads.helm, moved]⟩, fun m => by rw [dies, loads.dies, dies2]⟩

/-! ### A word that waits for nothing -/

/-- Word `w` has passed its barrier, which orders the writes of its participants' dies, once (02:R52, 03:R71). -/
def Hw.pastBarrier (h : Hw) (n : Nat) (w : Word512) (p : Passed) : Hw :=
  if cwBar w = 0 || ((h.cx n).helm.resolved == some (h.cx n).helm.step && !p.barrier) then h
  else h.updCx n fun c => { c with
    helm := { c.helm with resolved := some c.helm.step }
    cores := c.cores.map fun k => k.fenced (if cwBar w = 1 then [n] else h.diesOf n) }

/-- Word `w` has taken what it waited for from its semaphore (03:R68). -/
def Hw.semTaken (h : Hw) (n : Nat) (w : Word512) : Hw :=
  (h.updCx n fun c => { c with
    sems := vupd c.sems (cwSem w) fun v => v - BitVec.ofNat 32 (cwSemn w + 1)
    cores := c.cores.map fun k => k.acquired (cwSem w) }).count (ctrDie n 16) 1 .program 0 (srcBytes n 0xFF 0x01)

/-- The die once word `w` waits for nothing more. -/
def Hw.pastWaits (h : Hw) (n : Nat) (w : Word512) (p : Passed) : Hw :=
  if cwSemop w = 1 && !((h.cx n).helm.again || p.sem) then (h.pastBarrier n w p).semTaken n w else h.pastBarrier n w p

theorem Hw.pastBarrier_helm (h : Hw) (n : Nat) (w : Word512) (p : Passed) :
    ∃ r, ((h.pastBarrier n w p).cx n).helm = { (h.cx n).helm with resolved := r } := by
  unfold Hw.pastBarrier
  split
  · exact ⟨_, rfl⟩
  · rw [Hw.cx_updCx]; split <;> exact ⟨_, rfl⟩
@[simp] theorem Hw.pastBarrier_pre (h : Hw) (n : Nat) (w : Word512) (p : Passed) (m : Nat) :
    ((h.pastBarrier n w p).cx m).pre = (h.cx m).pre := by
  unfold Hw.pastBarrier
  split
  · rfl
  · exact Hw.proj_updCx DieCtx.pre fun _ => rfl
@[simp] theorem Hw.pastBarrier_sem (h : Hw) (n : Nat) (w : Word512) (p : Passed) (m k : Nat) :
    ((h.pastBarrier n w p).cx m).sem k = (h.cx m).sem k := by
  unfold Hw.pastBarrier
  split
  · rfl
  · exact Hw.proj_updCx (·.sem k) fun _ => rfl
@[simp] theorem Hw.pastBarrier_diesOf (h : Hw) (n : Nat) (w : Word512) (p : Passed) (m : Nat) :
    (h.pastBarrier n w p).diesOf m = h.diesOf m := by
  unfold Hw.pastBarrier; split <;> simp
@[simp] theorem Hw.pastBarrier_stk (h : Hw) (n : Nat) (w : Word512) (p : Passed) (k : Nat) : (h.pastBarrier n w p).stk k = h.stk k := by
  unfold Hw.pastBarrier; split <;> rfl

@[simp] theorem Hw.semTaken_helm (h : Hw) (n : Nat) (w : Word512) (m : Nat) : ((h.semTaken n w).cx m).helm = (h.cx m).helm := by
  rw [Hw.semTaken, Hw.count_cx]; exact Hw.proj_updCx DieCtx.helm fun _ => rfl
@[simp] theorem Hw.semTaken_pre (h : Hw) (n : Nat) (w : Word512) (m : Nat) : ((h.semTaken n w).cx m).pre = (h.cx m).pre := by
  rw [Hw.semTaken, Hw.count_cx]; exact Hw.proj_updCx DieCtx.pre fun _ => rfl
@[simp] theorem Hw.semTaken_diesOf (h : Hw) (n : Nat) (w : Word512) (m : Nat) : (h.semTaken n w).diesOf m = h.diesOf m := by
  simp [Hw.semTaken]
@[simp] theorem Hw.semTaken_stk (h : Hw) (n : Nat) (w : Word512) (k : Nat) : (h.semTaken n w).stk k = h.stk k := rfl

/-- Passing its waits, a word leaves Helm but for the note that its barrier is resolved. -/
theorem Hw.pastWaits_helm (h : Hw) (n : Nat) (w : Word512) (p : Passed) :
    ∃ r, ((h.pastWaits n w p).cx n).helm = { (h.cx n).helm with resolved := r } := by
  unfold Hw.pastWaits
  split
  · rw [Hw.semTaken_helm]; exact Hw.pastBarrier_helm ..
  · exact Hw.pastBarrier_helm ..
@[simp] theorem Hw.pastWaits_pre (h : Hw) (n : Nat) (w : Word512) (p : Passed) (m : Nat) :
    ((h.pastWaits n w p).cx m).pre = (h.cx m).pre := by
  unfold Hw.pastWaits; split <;> simp
@[simp] theorem Hw.pastWaits_diesOf (h : Hw) (n : Nat) (w : Word512) (p : Passed) (m : Nat) : (h.pastWaits n w p).diesOf m = h.diesOf m := by
  unfold Hw.pastWaits; split <;> simp
@[simp] theorem Hw.pastWaits_stk (h : Hw) (n : Nat) (w : Word512) (p : Passed) (k : Nat) : (h.pastWaits n w p).stk k = h.stk k := by
  unfold Hw.pastWaits; split <;> simp

theorem Hw.pastWaits_clean {h : Hw} (c : h.clean) (n : Nat) (w : Word512) (p : Passed) : (h.pastWaits n w p).clean :=
  fun k => by rw [Hw.pastWaits_stk]; exact c k

/-- Helm issues a word that waits for nothing. -/
theorem Hw.tryWord_ready {h : Hw} {n : Nat} {w : Word512} (p : Passed) (r : Ready h n w) :
    h.tryWord n w p = (h.pastWaits n w p).issueNow n w := by
  have stack : ¬ ((cwClass w = 5 && 8 ≤ (h.cx n).helm.stack.length) || (cwClass w = 6 && (h.cx n).helm.stack.isEmpty)) = true := by
    simpa [Nat.not_le] using And.intro r.call r.ret
  have other : ¬ (cwClass w = 7 && !((h.cx n).bank (1 - (h.cx n).helm.bank.toNat)).valid) = true := by
    simpa using r.other
  have flags : ¬ ((cwClass w = 3 || cwClass w = 4) &&
      (flagLoads (h.cx n).helm (cwFlag w) (h.cx n).helm.step).any (fun q => !h.flagKnown n (h.cx n).helm.step q)) = true := by
    simpa using r.flags
  have room : ¬ ((h.healthyCores n).any fun i => decide (64 ≤ ((h.cx n).core i).fifo.length)) = true := by
    simpa using r.room
  have die : ∀ done : Bool, ¬ (cwBar w = 1 && !done && !h.barReady n) = true := by
    simpa using fun a => r.die a
  have ctx : ∀ done : Bool, ¬ (cwBar w = 2 && !done && !h.ctxBarReady n) = true := by
    simpa using fun a => (r.ctx a).1
  unfold Hw.tryWord
  rw [r.legal]
  dsimp only
  rw [if_neg stack, if_neg other, if_neg flags, if_neg room, if_neg (die _), if_neg (ctx _)]
  change (if _ then if _ ≤ ((Hw.cx (h.pastBarrier n w p) n).sem (cwSem w)).toNat then ((h.pastBarrier n w p).semTaken n w).issueNow n w else _
    else (h.pastBarrier n w p).issueNow n w) = _
  rw [Hw.pastBarrier_sem]
  unfold Hw.pastWaits
  split
  · next wait => exact if_pos (r.sem (of_decide_eq_true (Bool.and_eq_true_iff.1 wait).1))
  · rfl

/-! ### The other dies at a context barrier -/

/-- A barrier opens for nobody where the context has no other die and this die's Helm holds no word. -/
theorem Hw.openBarrier_alone {h : Hw} {n : Nat} (alone : ∀ d ∈ h.diesOf n, d = n) (free : (h.cx n).helm.held = none) :
    h.openBarrier n = h := by
  unfold Hw.openBarrier
  generalize h.diesOf n = l at alone
  induction l with
  | nil => rfl
  | cons d r ih =>
    obtain rfl := alone d (List.mem_cons_self ..)
    rw [List.foldl_cons, free]
    exact ih fun k hk => alone k (List.mem_cons_of_mem _ hk)

/-- A word that waits for nothing and comes alone to its context barrier, if it has one, is issued; nothing else happens. -/
theorem Hw.meetWord_ready {h : Hw} {n : Nat} {w : Word512} (p : Passed) (hn : n < 16) (c : h.clean) (calm : (h.cx n).pre = .none)
    (r : Ready h n w) : h.meetWord n w p = (h.pastWaits n w p).issueNow n w := by
  obtain ⟨⟨segs, helm⟩, dies⟩ := Hw.issueNow_helm w hn (Hw.pastWaits_clean c n w p) (by rw [Hw.pastWaits_pre, calm])
  have free : (((h.pastWaits n w p).issueNow n w).cx n).helm.held = none := by
    rw [← Helm.unflagged_held, helm, Helm.issued_held]
  unfold Hw.meetWord
  dsimp only
  rw [Hw.tryWord_ready p r]
  split
  · next all =>
    have bar : cwBar w = 2 := by
      simp only [Hw.endsCtxBar, Bool.and_eq_true, beq_iff_eq, and_assoc] at all
      exact all.1
    refine Hw.openBarrier_alone (fun k hk => (r.ctx bar).2 k ?_) free
    rwa [dies, Hw.pastWaits_diesOf] at hk
  · rfl

/-- Helm moves as an issuable word says. -/
theorem Hw.issueWord_moves {h : Hw} {n : Nat} {w : Word512} (hn : n < 16) (c : h.clean) (i : Issuable h n w) :
    HelmMoves w (h.cx n).helm ((h.issueWord n w).cx n).helm := by
  obtain ⟨r, before⟩ := h.pastWaits_helm n w ⟨false, false⟩
  obtain ⟨⟨segs, after⟩, -⟩ := Hw.issueNow_helm w hn (Hw.pastWaits_clean c n w ⟨false, false⟩) (by rw [Hw.pastWaits_pre, i.calm])
  obtain ⟨-, -, issuing, -⟩ := Hw.canIssue_iff.1 i.run
  rw [Hw.issueWord_inside w i.run i.bank i.inside, Hw.meetWord_ready _ hn c i.calm i.toReady]
  rw [before] at after
  exact .of_unflagged after (.of_resolved (Helm.issued_moves _ w segs issuing))

/-! ### The stop at the return stack (03:R66) -/

theorem Hw.die_preemptCtx (h : Hw) (num : BitVec 16) {n : Nat} (hn : n < 16) :
    (h.preemptCtx num).die n = if (h.die n).owner = some num then (h.die n).preemptNow else h.die n :=
  vget_map _ (fun d : Die => if d.owner = some num then d.preemptNow else d) Die.init Die.init hn

/-- A pre-emption at once keeps the stop code, the cores, and a Helm that has stopped and holds no word. -/
theorem Die.preemptNow_stopped {d : Die} (st : d.cx.helm.st = .stopped) (held : d.cx.helm.held = none) :
    d.preemptNow.cx.stop = d.cx.stop ∧ d.preemptNow.cx.helm = d.cx.helm ∧ d.preemptNow.cx.cores = d.cx.cores := by
  unfold Die.preemptNow
  split
  · refine ⟨rfl, ?_, rfl⟩
    dsimp only
    rw [if_pos (by simp [st]), ← held]
  · exact ⟨rfl, rfl, rfl⟩

theorem Hw.preemptCtx_stopped {h : Hw} {num : BitVec 16} {n : Nat} (hn : n < 16) (st : (h.cx n).helm.st = .stopped)
    (held : (h.cx n).helm.held = none) :
    ((h.preemptCtx num).cx n).stop = (h.cx n).stop ∧ ((h.preemptCtx num).cx n).helm = (h.cx n).helm ∧
      ((h.preemptCtx num).cx n).cores = (h.cx n).cores := by
  simp only [Hw.cx, Hw.die_preemptCtx h num hn]
  split
  · exact Die.preemptNow_stopped st held
  · exact ⟨rfl, rfl, rfl⟩

/-- A stop shows its code and Helm stopped; the cores stay (04:R106). -/
theorem Hw.stopProgram_cx {h : Hw} {n : Nat} (code : Nat) {num : BitVec 16} (hn : n < 16) (own : (h.die n).owner = some num) :
    ((h.stopProgram n code).cx n).stop = BitVec.ofNat 16 code ∧
      ((h.stopProgram n code).cx n).helm = { (h.cx n).helm with st := .stopped, held := none } ∧
      ((h.stopProgram n code).cx n).cores = (h.cx n).cores := by
  unfold Hw.stopProgram
  rw [own]
  extract_lets seq owner raised stopped
  have here : stopped.cx n = { h.cx n with
      stop := BitVec.ofNat 16 code, stopSeq := seq, helm := { (h.cx n).helm with st := .stopped, held := none } } := by
    simp only [stopped, raised, Hw.cx_updCx, Hw.raiseDie_cx, hn, and_self, if_true]
  have updated (f : Ctx → Ctx) : (stopped.updCtx num f).cx n = stopped.cx n := rfl
  have kept (f : Ctx → Ctx) := Hw.preemptCtx_stopped (h := stopped.updCtx num f) (num := num) hn
    (by rw [updated, here]) (by rw [updated, here])
  dsimp only [owner]
  obtain ⟨stop, helm, cores⟩ := kept _
  rw [stop, helm, cores, updated, here]
  exact ⟨rfl, rfl, rfl⟩

/-- A legal CALL with eight entries on the return stack and a legal RETURN with none stop the program (R66). -/
theorem Hw.issueWord_stack {h : Hw} {n : Nat} {w : Word512} {num : BitVec 16} (hn : n < 16) (own : (h.die n).owner = some num)
    (run : h.canIssue n = true) (bank : ((h.cx n).bank (h.cx n).helm.bank.toNat).valid = true)
    (inside : (h.cx n).helm.index.toNat < ((h.cx n).bank (h.cx n).helm.bank.toNat).words.toNat)
    (legal : checkWord (h.legalEnv n) w = none)
    (bad : cwClass w = 5 ∧ 8 ≤ (h.cx n).helm.stack.length ∨ cwClass w = 6 ∧ (h.cx n).helm.stack = []) :
    h.issueWord n w = h.stopProgram n 0x0303 := by
  have stops : h.tryWord n w ⟨false, false⟩ = h.stopProgram n 0x0303 := by
    unfold Hw.tryWord
    rw [legal]
    exact if_pos (by simpa using bad)
  have st : ((h.stopProgram n 0x0303).cx n).helm.st = .stopped := by rw [(Hw.stopProgram_cx _ hn own).2.1]
  rw [Hw.issueWord_inside w run bank inside, Hw.meetWord, stops]
  exact if_neg (by simp [st])

end Sys2Proof.Machine

open Sys2Proof Sys2Proof.Machine

/-- Settles O3: where Helm goes is `HelmMoves`, and the loop counter and the return stack are as a legal word finds them. -/
theorem sequencing : Obligations.Sequencing := by
  intro i d s word
  dsimp only
  have run : exec i s = .next ((s.wakeFor d.val (rowBits i)).onHw fun h => h.issueWord d.val (rowBits i)) := exec_word s word
  refine ⟨fun clean issuable => ⟨_, run, ?_⟩, fun loop zero legal => ?_, fun num can own valid inside legal bad => ⟨_, run, ?_⟩⟩
  · rw [State.onHw_hw, State.wakeFor_hw]
    have moves := Hw.issueWord_moves d.isLt clean issuable
    generalize ((s.hw.issueWord d.val (rowBits i)).cx d.val).helm = y at moves
    generalize rowBits i = w at *
    have bank := moves.bank
    have index := moves.index
    have stack := moves.stack
    refine ⟨?loopEnd, ?jump, ?branchIfSet, ?branchIfClear, ?call, ?ret⟩ <;> intro c <;> simp only [c] at bank index stack
    case loopEnd =>
      obtain ⟨nonzero, kept⟩ := legal_loopEnd issuable.legal c
      have positive := Nat.one_le_iff_ne_zero.2 nonzero
      exact ⟨positive, moves.counts_down c kept positive, bank, index⟩
    case jump => exact ⟨bank, index⟩
    case branchIfSet => exact ⟨bank, index⟩
    case branchIfClear => exact ⟨bank, index⟩
    case call => exact ⟨⟨bank, index⟩, stack⟩
    case ret =>
      obtain ⟨a, r, e⟩ := List.exists_cons_of_ne_nil (issuable.ret c)
      rw [e] at bank index stack
      exact ⟨a, by rw [e, stack]; rfl, bank, index⟩
  · exact (legal_loopEnd legal loop).1 zero
  · rw [State.onHw_hw, State.wakeFor_hw, Hw.issueWord_stack d.isLt own can valid inside legal bad]
    exact Hw.stopProgram_cx _ d.isLt own
end

section
namespace Sys2Proof.Machine

/-! ### Operations that leave the security root -/

/-- So does a sequence of such operations. -/
theorem State.foldl_sec {α : Type} {f : State → α → State} (hf : ∀ s a, (f s a).sec = s.sec) (l : List α) (s : State) :
    (l.foldl f s).sec = s.sec := by
  induction l generalizing s with
  | nil => rfl
  | cons a r ih => exact (ih _).trans (hf s a)

@[simp] theorem State.updCmd_sec (s : State) (id : Nat) (f : Cmd → Cmd) : (s.updCmd id f).sec = s.sec := State.onHw_sec ..
@[simp] theorem State.holdGrant_sec (s : State) (src : BitVec 2) (grant gseq : BitVec 16) (id : Option Nat) :
    (s.holdGrant src grant gseq id).sec = s.sec := by simp only [State.holdGrant]
@[simp] theorem State.refuseCommit_sec (s : State) (id r : Nat) : (s.refuseCommit id r).sec = s.sec := by simp [State.refuseCommit]
@[simp] theorem State.raiseFuse_sec (s : State) : s.raiseFuse.sec = s.sec := State.onHw_sec ..
@[simp] theorem State.raiseCool_sec (s : State) : s.raiseCool.sec = s.sec := State.onHw_sec ..
@[simp] theorem State.setReady_sec (s : State) (ms : Nat) : (s.setReady ms).sec = s.sec := by simp [State.setReady]
@[simp] theorem State.repace_sec (s : State) : s.repace.sec = s.sec := State.onPower_sec ..
@[simp] theorem State.capCodes_sec (s : State) : s.capCodes.sec = s.sec := State.onPower_sec ..
@[simp] theorem State.newCeiling_sec (s : State) : s.newCeiling.sec = s.sec := by simp [State.newCeiling]
@[simp] theorem State.settle_sec (s : State) : s.settle.sec = s.sec := by simp [State.settle]
@[simp] theorem State.writePwr_sec (s : State) (k : Halves) (v : Nat) : (s.writePwr k v).sec = s.sec := by simp [State.writePwr]
@[simp] theorem State.shutOffDies_sec (s : State) : s.shutOffDies.sec = s.sec := by
  unfold State.shutOffDies; rw [State.repace_sec, State.onPower_sec, State.onHw_sec, State.onHw_sec]

@[simp] theorem State.leaveStandby_sec (s : State) : s.leaveStandby.sec = s.sec := by unfold State.leaveStandby; split <;> rfl
@[simp] theorem State.wakeUnit_sec (s : State) (u : IdleUnit) : (s.wakeUnit u).sec = s.sec := by
  cases u with
  | standby => exact State.leaveStandby_sec s
  | stackOff => rfl
  | linkQuiet | stackRetention | linkSleep => unfold State.wakeUnit; rw [State.onHw_sec]
  | matrixGated | vectorGated | dieRetention | dieOff => unfold State.wakeUnit; rw [State.onPower_sec]
@[simp] theorem State.enterIdle_sec (s : State) (u : IdleUnit) : (s.enterIdle u).sec = s.sec := by cases u <;> simp [State.enterIdle]
@[simp] theorem State.mctpWake_sec (s : State) : s.mctpWake.sec = s.sec := State.wakeUnit_sec ..
@[simp] theorem State.wakeFor_sec (s : State) (n : Nat) (w : Word512) : (s.wakeFor n w).sec = s.sec := by
  unfold State.wakeFor; split <;> simp
@[simp] theorem State.tick_sec (s : State) : s.tick.sec = s.sec := by
  unfold State.tick; rw [State.onHw_sec]; exact State.foldl_sec (fun _ _ => State.wakeFor_sec ..) _ s
@[simp] theorem State.wakeDies_sec (s : State) (num : BitVec 16) (fresh : Bool) : (s.wakeDies num fresh).sec = s.sec :=
  State.foldl_sec (fun s n => by split <;> rfl) _ s
@[simp] theorem State.wakeDeep_sec (s : State) : s.wakeDeep.sec = s.sec :=
  State.foldl_sec (fun s u => by split <;> simp) _ s

@[simp] theorem State.offerGrant_sec (s : State) (src : BitVec 2) (grant gseq : BitVec 16) (id : Option Nat) :
    (s.offerGrant src grant gseq id).sec = s.sec := by
  unfold State.offerGrant; dsimp only; split <;> split <;> simp
@[simp] theorem State.handoverOver_sec (s : State) : s.handoverOver.sec = s.sec := by
  unfold State.handoverOver State.heldGrants
  rw [State.foldl_sec fun _ _ => State.offerGrant_sec .., State.onPower_sec, State.onHw_sec]
@[simp] theorem State.shutdownStep_sec (s : State) : s.shutdownStep.sec = s.sec := by
  unfold State.shutdownStep; split
  · rfl
  · split <;> simp
@[simp] theorem State.shutdownEnd_sec (s : State) : s.shutdownEnd.sec = s.sec := by unfold State.shutdownEnd; split <;> simp
@[simp] theorem State.heat_sec (s : State) (n : Nat) (tj : Int) : (s.heat n tj).sec = s.sec := by
  unfold State.heat
  simp only [apply_ite State.sec, State.onPower_sec, State.onHw_sec, State.raise_sec, ite_self]
@[simp] theorem State.setVin_sec (s : State) (vin : BitVec 10) : (s.setVin vin).sec = s.sec := by
  unfold State.setVin; dsimp only; split <;> simp
@[simp] theorem State.reclaim_sec (s : State) (n p : Nat) : (s.reclaim n p).sec = s.sec := by
  unfold State.reclaim; simp only [apply_ite State.sec, State.onPower_sec, State.onHw_sec, ite_self]
@[simp] theorem State.powerWindow_sec (s : State) (avg peak : Nat) : (s.powerWindow avg peak).sec = s.sec := by
  unfold State.powerWindow
  simp only [State.wakeDeep_sec, State.shutdownStep_sec, State.onPower_sec, State.repace_sec, State.newCeiling_sec]
  exact State.foldl_sec (fun s n => by rw [State.onPower_sec, State.onHw_sec]) _ s

@[simp] theorem State.applyField_sec (s : State) (k v : Nat) : (s.applyField k v).1.sec = s.sec := by
  unfold State.applyField; dsimp only; split <;> simp [apply_ite Prod.fst, apply_ite State.sec]
@[simp] theorem State.applyBlock_sec (s : State) (b : Word512) : (s.applyBlock b).1.sec = s.sec := by
  have fields : ∀ (l : List Nat) (a : State × List Applied), (l.foldl (fun (a : State × List Applied) k =>
      ((a.1.applyField k (cbField b k)).1,
        a.2 ++ [⟨k, (a.1.applyField k (cbField b k)).2.1, cbField b k, (a.1.applyField k (cbField b k)).2.2⟩])) a).1.sec = a.1.sec := by
    intro l
    induction l with
    | nil => exact fun _ => rfl
    | cons k r ih => exact fun a => (ih _).trans (State.applyField_sec ..)
  unfold State.applyBlock; dsimp only
  rw [State.settle_sec]
  split
  · exact (State.onLinks_sec ..).trans (fields _ (s, []))
  · exact fields _ (s, [])

@[simp] theorem State.writeId_sec (s : State) (v : Word64) : (s.writeId v).sec = s.sec := by unfold State.writeId; split <;> simp
@[simp] theorem State.idEffect_sec (s : State) (i : Nat) : (s.idEffect i).sec = s.sec := by
  unfold State.idEffect; simp only [apply_ite State.sec, State.onPower_sec, State.onHw_sec, ite_self]
@[simp] theorem State.holdTest_sec (s : State) (ok : Bool) : (s.holdTest ok).sec = s.sec := by unfold State.holdTest; split <;> simp
@[simp] theorem State.trainPort_sec (s : State) (l : Nat) : (s.trainPort l).sec = s.sec := by unfold State.trainPort; split <;> simp
@[simp] theorem State.warm_sec (s : State) (last : BitVec 4) (keep : Option Nat) : (s.warm last keep).sec = s.sec := by
  unfold State.warm
  rw [State.onHw_sec, State.shutdownStep_sec, State.onHw_sec, State.foldl_sec fun _ _ => State.trainPort_sec .., State.onHw_sec, State.onHw_sec,
    State.wakeUnit_sec]
@[simp] theorem State.resetDie_sec (s : State) (n id : Nat) : (s.resetDie n id).sec = s.sec := by
  unfold State.resetDie; split <;> simp
@[simp] theorem State.resetPort_sec (s : State) (l id : Nat) : (s.resetPort l id).sec = s.sec := by
  unfold State.resetPort; simp only [apply_ite State.sec, State.onHw_sec, State.trainPort_sec, ite_self]

end Sys2Proof.Machine
end

section
namespace Sys2Proof.Machine

/-! ### What the fuses and the owner lock keep (21:R443, R449) -/

/-- The 64 one-time fuses can count the SVN of every image in the banks (21:R442, Table 21-5). -/
def Sec.Fits (x : Sec) : Prop := ∀ i b, (x.bankAt i).block 0 = some b → fhSvn b ≤ 63

/-- From `x` to `y` no fuse is undone, where the images in the banks fit the fuses. -/
structure Sec.FusesGrow (x y : Sec) : Prop where
  fits : x.Fits → y.Fits
  svn : x.Fits → x.svnFuse.toNat ≤ y.svnFuse.toNat
  rev : ∀ k, bit x.keyRev k = true → bit y.keyRev k = true

/-- Nor does the owner lock move; its failures are at most forgotten, as a cold start does. -/
structure Sec.LockStays (x y : Sec) : Prop extends Sec.FusesGrow x y where
  lock : y.lock = x.lock
  key : y.key = x.key
  fails : y.fails = x.fails ∨ y.fails = 0

theorem Sec.FusesGrow.trans {x y z : Sec} (a : x.FusesGrow y) (b : y.FusesGrow z) : x.FusesGrow z where
  fits h := b.fits (a.fits h)
  svn h := (a.svn h).trans (b.svn (a.fits h))
  rev k h := b.rev k (a.rev k h)

theorem Sec.LockStays.trans {x y z : Sec} (a : x.LockStays y) (b : y.LockStays z) : x.LockStays z where
  toFusesGrow := a.toFusesGrow.trans b.toFusesGrow
  lock := b.lock.trans a.lock
  key := b.key.trans a.key
  fails := b.fails.elim (fun e => e ▸ a.fails) .inr

/-- An update of the banks alone, among the fields that matter here. -/
theorem Sec.LockStays.of_fits {x y : Sec} (fits : x.Fits → y.Fits) (svn : y.svnFuse = x.svnFuse := by rfl) (rev : y.keyRev = x.keyRev := by rfl)
    (lock : y.lock = x.lock := by rfl) (key : y.key = x.key := by rfl) (fails : y.fails = x.fails := by rfl) : x.LockStays y :=
  ⟨⟨fits, fun _ => svn ▸ le_rfl, fun _ h => rev ▸ h⟩, lock, key, .inl fails⟩

theorem Sec.Fits.of_banks {x y : Sec} (h : x.Fits) (e : y.banks = x.banks) : y.Fits := by
  unfold Sec.Fits Sec.bankAt at *; rwa [e]

/-- An update of none of the fields that matter here. -/
theorem Sec.LockStays.of_same {x y : Sec} (banks : y.banks = x.banks := by rfl) (svn : y.svnFuse = x.svnFuse := by rfl)
    (rev : y.keyRev = x.keyRev := by rfl) (lock : y.lock = x.lock := by rfl) (key : y.key = x.key := by rfl)
    (fails : y.fails = x.fails := by rfl) : x.LockStays y :=
  .of_fits (fun h => h.of_banks banks) svn rev lock key fails

theorem Sec.LockStays.refl (x : Sec) : x.LockStays x := .of_same
theorem Sec.LockStays.of_eq {x y : Sec} (e : y = x) : x.LockStays y := e ▸ .refl x

/-- What works without the management cores never reaches the security root. -/
theorem Sec.LockStays.onHw (s : State) (f : Hw → Hw) : s.sec.LockStays (s.onHw f).sec := .of_eq (State.onHw_sec ..)

theorem Sec.LockStays.ite {c : Prop} [Decidable c] {x : Sec} {a b : State} (ha : x.LockStays a.sec) (hb : x.LockStays b.sec) :
    x.LockStays (if c then a else b).sec := by split <;> assumption

theorem Sec.LockStays.foldl {α : Type} {f : State → α → State} (hf : ∀ (s : State) a, s.sec.LockStays (f s a).sec) (l : List α) (s : State) :
    s.sec.LockStays (l.foldl f s).sec := by
  induction l generalizing s with
  | nil => exact .refl _
  | cons a r ih => exact (hf s a).trans (ih _)

/-! ### Images in the banks (21:R442-R445) -/

theorem Sec.Fits.updInactive {x : Sec} (h : x.Fits) (f : FwBank → FwBank)
    (hf : ∀ k b, (f k).block 0 = some b → fhSvn b ≤ 63 ∨ k.block 0 = some b) : (x.updInactive f).Fits := by
  intro i b e
  simp only [Sec.bankAt, Sec.updInactive, vget_vupd] at e
  split at e
  · exact (hf _ _ e).elim id (h i b)
  · exact h i b e

theorem Sec.Fits.discard {x : Sec} (h : x.Fits) : (x.updInactive fun _ => ⟨[], false⟩).Fits :=
  h.updInactive _ fun _ _ e => by simp [FwBank.block] at e

theorem Sec.fits_updInactive {x : Sec} {f : FwBank → FwBank} (hf : ∀ k, (f k).block 0 = k.block 0) :
    (x.updInactive f).Fits ↔ x.Fits := by
  have e : ∀ i, ((x.updInactive f).bankAt i).block 0 = (x.bankAt i).block 0 := by
    intro i
    simp only [Sec.bankAt, Sec.updInactive, vget_vupd]
    split
    · exact hf _
    · rfl
  simp only [Sec.Fits, e]

/-- What an accepted block 0 has passed: its fields are in range, its key is good and its SVN is not below SVNFUSE. -/
theorem Sec.accepted_of_blockReason {x : Sec} {d : List Byte} (h : x.blockReason 0 d = 0) :
    fhFieldsOk d = true ∧ x.keyBad d = false ∧ x.svnFuse.toNat ≤ fhSvn d := by
  simp only [Sec.blockReason, if_true] at h
  split at h
  · simp at h
  next fields =>
  split at h
  · simp at h
  next key =>
  split at h
  · simp at h
  next svn => exact ⟨by simpa using fields, by simpa using key, Nat.le_of_not_lt svn⟩

theorem fhSvn_le {d : List Byte} (h : fhFieldsOk d = true) : fhSvn d ≤ 63 := by
  simp only [fhFieldsOk, Bool.and_eq_true, decide_eq_true_eq] at h
  omega

theorem Sec.lockStays_stageBlock (x : Sec) {i : Nat} {d : List Byte} (hd : i = 0 → fhSvn d ≤ 63) : x.LockStays (x.stageBlock i d) := by
  unfold Sec.stageBlock
  split
  next first =>
    split
    · exact .refl x
    · exact .of_fits fun h => (h.updInactive (fun _ => ⟨[(0, d)], false⟩) fun k b e => by
        simp only [FwBank.block, List.find?_cons, beq_self_eq_true, Option.map_some, Option.some.injEq] at e
        exact .inl (e ▸ hd first)).of_banks rfl
  next later =>
    split
    · exact .refl x
    · exact .of_fits fun h => (h.updInactive (fun k => { k with blocks := k.blocks ++ [(i, d)] }) fun k b e => by
        right
        simpa [FwBank.block, List.find?_append, later] using e).of_banks rfl

/-! ### Commits (21:R443, R445) -/

theorem State.lockStays_raiseSvn (s : State) {v : Nat} (hv : s.sec.Fits → v ≤ 63) : s.sec.LockStays (s.raiseSvn v).sec := by
  unfold State.raiseSvn
  split
  next lower =>
    refine ⟨⟨fun h => h.of_banks rfl, fun h => ?_, fun _ h => h⟩, rfl, rfl, .inl rfl⟩
    have := hv h
    rw [State.raiseFuse_sec, State.onSec_sec, BitVec.toNat_ofNat, Nat.mod_eq_of_lt (by omega)]
    exact lower.le
  · exact .refl _

theorem State.lockStays_revoke (s : State) (k : Nat) : s.sec.LockStays (s.revoke k).sec := by
  unfold State.revoke
  split
  · exact .refl _
  · refine ⟨⟨fun h => h.of_banks rfl, fun _ => le_rfl, fun j h => ?_⟩, rfl, rfl, .inl rfl⟩
    rw [State.raiseFuse_sec, State.onSec_sec]
    simp only [bit, BitVec.getLsbD_or] at h ⊢
    rw [h, Bool.true_or]

theorem fhSvn_nil : fhSvn [] = 0 := by decide

/-- The inactive bank's image, or none, has an SVN that the fuses can count. -/
theorem Sec.Fits.inactive {x : Sec} (h : x.Fits) : fhSvn ((x.inactive.block 0).getD []) ≤ 63 := by
  cases e : x.inactive.block 0 with
  | none => exact fhSvn_nil ▸ Nat.zero_le _
  | some b => exact h _ b e

/-- A commit makes the staged bank valid and active, and the fuses follow its image. -/
theorem State.lockStays_commitBank (s : State) : s.sec.LockStays s.commitBank.1.sec := by
  unfold State.commitBank
  extract_lets b switched raised revoked uc ended
  have blocks : ∀ k : FwBank, ({ k with valid := true } : FwBank).block 0 = k.block 0 := fun _ => rfl
  have same : switched.sec.Fits ↔ s.sec.Fits :=
    ⟨fun h => (Sec.fits_updInactive blocks).1 (h.of_banks rfl), fun h => ((Sec.fits_updInactive blocks).2 h).of_banks rfl⟩
  have hswitched : s.sec.LockStays switched.sec := .of_fits same.2
  have hraised : switched.sec.LockStays raised.sec := switched.lockStays_raiseSvn fun h => (same.1 h).inactive
  have hrevoked : raised.sec.LockStays revoked.sec := .foldl State.lockStays_revoke _ _
  have hended : revoked.sec.LockStays ended.sec := .of_same
  exact ((hswitched.trans hraised).trans hrevoked).trans (hended.trans (.onHw ..))

theorem State.lockStays_commitEnd (s : State) (id : Option Nat) : s.sec.LockStays (s.commitEnd id).sec := by
  unfold State.commitEnd
  cases id with
  | some k => rw [State.complete_sec]; exact s.lockStays_commitBank
  | none => exact s.lockStays_commitBank

theorem State.lockStays_commit (s : State) (id : Nat) : s.sec.LockStays (s.commit id).sec := by
  unfold State.commit
  refine .ite (.of_eq (State.refuseCommit_sec ..)) (.ite (s.lockStays_commitEnd _) ?_)
  rw [State.onHw_sec, State.onSec_sec]
  exact .of_same

theorem State.lockStays_handoverDone (s : State) : s.sec.LockStays s.handoverDone.sec := by
  unfold State.handoverDone
  refine .ite (.refl _) ?_
  rw [State.handoverOver_sec]
  exact (Sec.LockStays.onHw ..).trans (State.lockStays_commitEnd ..)

theorem State.lockStays_handoverFails (s : State) : s.sec.LockStays s.handoverFails.sec := by
  unfold State.handoverFails
  refine .ite (.refl _) ?_
  rw [State.handoverOver_sec]
  split
  · rw [State.complete_sec, State.onHw_sec]; exact .of_same
  · rw [State.onHw_sec]; exact .of_same

theorem State.lockStays_shutdownBegin (s : State) (die : Nat) : s.sec.LockStays (s.shutdownBegin die).sec := by
  unfold State.shutdownBegin
  refine .ite (.refl _) ?_
  rw [State.shutdownStep_sec, State.repace_sec, State.capCodes_sec, State.onPower_sec, State.onHw_sec]
  exact State.lockStays_handoverFails (s.raise _)

theorem State.lockStays_thermal (s : State) (n : Nat) (tj : Int) : s.sec.LockStays (s.thermal n tj).sec := by
  have same : s.sec.LockStays (s.heat n tj).repace.sec := .of_eq (by simp)
  unfold State.thermal
  exact .ite (same.trans (State.lockStays_shutdownBegin ..)) (.of_eq (by simp))

theorem State.lockStays_coolant (s : State) (a b : Int) (flow : Nat) : s.sec.LockStays (s.coolant a b flow).sec := by
  unfold State.coolant
  extract_lets row enter t u v
  have same : v.sec = s.sec := by
    unfold v u; rw [State.newCeiling_sec, apply_ite State.sec, State.raiseCool_sec, ite_self]; exact State.onPower_sec ..
  exact .ite ((Sec.LockStays.of_eq same).trans (State.lockStays_shutdownBegin ..)) (.of_eq ((State.shutdownEnd_sec v).trans same))

/-! ### Start-ups and resets (23:R460-R466) -/

/-- What a cold start begins from keeps the fuses, the banks and the lock, and forgets the failures (21:R449). -/
theorem Sec.lockStays_kept (x : Sec) : x.LockStays x.kept :=
  ⟨⟨fun h => h.of_banks rfl, fun _ => le_rfl, fun _ h => h⟩, rfl, rfl, .inr rfl⟩

@[simp] theorem State.coldBase_sec (s : State) : s.coldBase.sec = s.sec.kept := rfl

theorem State.lockStays_coldBase (s : State) : s.sec.LockStays s.coldBase.sec := s.sec.lockStays_kept

theorem State.lockStays_moduleBase (s : State) : s.sec.LockStays s.moduleBase.sec := by
  unfold State.moduleBase
  rw [State.repace_sec]
  exact .of_same

theorem Sec.lockStays_boot (x : Sec) (u : StartUp) : x.LockStays (x.boot u) := by
  unfold Sec.boot
  extract_lets discarded base active chosen
  have hbase : x.LockStays base := by
    unfold base
    split
    · exact .refl x
    · exact .of_fits fun h => h.discard.of_banks rfl
  have hchosen : base.LockStays chosen := by
    unfold chosen
    split
    · exact .refl base
    · split <;> exact .of_same
  exact (hbase.trans hchosen).trans .of_same

theorem State.lockStays_step2 (u : StartUp) (s : State) : s.sec.LockStays (s.step2 u).sec := by
  refine (s.sec.lockStays_boot u).trans (.of_eq ?_)
  unfold State.step2
  extract_lets fit booted dies fallback loss trips cleared applied
  have hdies : dies.sec = s.sec.boot u := State.onHw_sec ..
  have hfallback : fallback.sec = dies.sec := by unfold fallback; split <;> simp
  have hloss : loss.sec = fallback.sec := by unfold loss; split <;> simp
  have htrips : trips.sec = loss.sec := by unfold trips; split <;> simp
  have hcleared : cleared.sec = trips.sec := State.onPower_sec ..
  have happlied : applied.sec = s.sec.boot u := by
    unfold applied; rw [State.applyBlock_sec, hcleared, htrips, hloss, hfallback, hdies]
  split
  · rw [State.onHw_sec, State.onHw_sec, happlied]
  · exact happlied

theorem State.lockStays_idFailed (s : State) (i : Nat) : s.sec.LockStays (s.idFailed i).sec := by
  unfold State.idFailed
  refine .ite (.refl _) ?_
  rw [State.idEffect_sec, State.raise_sec, State.onSec_sec]
  exact .of_same

theorem State.lockStays_step6 (u : StartUp) (s : State) : s.sec.LockStays (s.step6 u).sec := by
  unfold State.step6
  extract_lets answered failed judged
  have hanswered : s.sec.LockStays answered.sec := .of_same
  have hjudged : answered.sec.LockStays judged.sec := by
    unfold judged
    split
    · rw [State.onHw_sec, State.onHw_sec, State.onSec_sec]; exact .of_same
    · exact .refl _
  exact (hanswered.trans hjudged).trans (.foldl State.lockStays_idFailed _ _)

theorem State.lockStays_startUp (s : State) (cold : Bool) (last : BitVec 4) (u : StartUp) : s.sec.LockStays (s.startUp cold last u).sec := by
  unfold State.startUp
  extract_lets booted tested known held trained
  have hbooted : s.sec.LockStays booted.sec := (Sec.LockStays.onHw ..).trans (State.lockStays_step2 ..)
  have hknown : booted.sec.LockStays known.sec := (Sec.LockStays.onHw ..).trans (State.lockStays_step6 ..)
  have htrained : trained.sec = known.sec := by
    unfold trained held; rw [State.onHw_sec]
    split <;> simp
  refine (hbooted.trans hknown).trans (.of_eq (Eq.trans ?_ htrained))
  split
  · exact State.onHw_sec ..
  · exact State.setReady_sec ..

theorem State.lockStays_coldStart (s : State) (u : StartUp) : s.coldBase.sec.LockStays (s.coldStart u).sec := by
  unfold State.coldStart
  extract_lets vin base qualified reported
  have hreported : reported.sec = s.coldBase.sec := by
    unfold reported qualified; split
    · rw [State.onHw_sec, State.onPower_sec]
    · exact State.onPower_sec ..
  exact (Sec.LockStays.of_eq hreported).trans (State.lockStays_startUp ..)

theorem State.lockStays_moduleReset (s : State) (last : BitVec 4) (u : StartUp) : s.sec.LockStays (s.moduleReset last u).sec := by
  unfold State.moduleReset
  exact .ite (.refl _) (s.lockStays_moduleBase.trans (State.lockStays_startUp ..))

theorem State.lockStays_commitRestart (s : State) (id : Nat) : s.sec.LockStays (s.commitRestart id).sec := by
  unfold State.commitRestart
  exact .ite (.of_eq (State.refuseCommit_sec ..)) ((s.lockStays_commitEnd _).trans (State.lockStays_moduleReset ..))

theorem State.lockStays_inputLoss (s : State) (cause : BitVec 4) : s.sec.LockStays (s.inputLoss cause).sec := by
  unfold State.inputLoss
  rw [State.onMod_sec, State.coldBase_sec, State.onHw_sec, State.onHw_sec]
  exact s.sec.lockStays_kept

theorem State.lockStays_trip (s : State) : s.sec.LockStays s.trip.sec := by
  unfold State.trip
  rw [State.onMod_sec]
  exact s.lockStays_coldBase

theorem State.lockStays_pcieReset (s : State) (last : BitVec 4) : s.sec.LockStays (s.pcieReset last).sec := by
  unfold State.pcieReset
  refine .ite (.refl _) ?_
  rw [State.warm_sec, State.onSec_sec, State.onPower_sec, State.onHw_sec]
  exact .of_same

/-! ### The responder and debug tokens (21:R436-R440) -/

theorem State.lockStays_spdmServe (s : State) (t : Transport) (req : List Byte) : s.sec.LockStays (s.spdmServe t req).1.sec := by
  unfold State.spdmServe
  dsimp only
  split
  · exact .refl _
  · rw [State.onSec_sec]; exact .of_same

theorem State.lockStays_spdmAnswer (s : State) (t : Transport) (req : List Byte) : s.sec.LockStays (s.spdmAnswer t req).sec := by
  unfold State.spdmAnswer
  refine .ite (.refl _) ?_
  rw [State.onSec_sec]
  refine ((Sec.LockStays.of_eq (State.wakeUnit_sec s .standby)).trans (State.lockStays_spdmServe ..)).trans .of_same

end Sys2Proof.Machine
end

section
namespace Sys2Proof.Machine

/-! ### Host commands and the ring engine (18:R382-R386) -/

theorem lockStays_runFwBlock (c : Cmd) (s : State) : s.sec.LockStays (runFwBlock c s).sec := by
  unfold runFwBlock
  extract_lets i d r
  split
  · rw [State.complete_sec]; exact .onHw ..
  next accepted =>
    rw [State.complete_sec, State.onSec_sec]
    exact s.sec.lockStays_stageBlock fun first => by
      have zero : s.sec.blockReason 0 d = 0 := by simpa [r, first] using accepted
      exact fhSvn_le (Sec.accepted_of_blockReason zero).1

theorem lockStays_runFwCommit (c : Cmd) (s : State) : s.sec.LockStays (runFwCommit c s).sec := by
  unfold runFwCommit
  exact .ite (.of_eq (State.refuseCommit_sec ..)) (.ite (s.lockStays_commitRestart _) (s.lockStays_commit _))

theorem lockStays_runFwAbort (c : Cmd) (s : State) : s.sec.LockStays (runFwAbort c s).sec := by
  unfold runFwAbort
  refine .ite (.of_eq (State.complete_sec ..)) (.ite (.of_eq (State.complete_sec ..)) ?_)
  rw [State.complete_sec, State.onHw_sec, State.onSec_sec]
  exact .of_fits fun h => h.discard.of_banks rfl

theorem lockStays_runAttestSpdm (c : Cmd) (s : State) : s.sec.LockStays (runAttestSpdm c s).sec := by
  have served := s.lockStays_spdmServe .ring (bytesAt c.arg 0 (fld c.w 319 304))
  unfold runAttestSpdm
  refine .ite ?_ ?_
  · rw [State.complete_sec]; exact served
  · rw [State.complete_sec, State.onHw_sec]; exact served

theorem lockStays_runAttestDebugUnlock (c : Cmd) (s : State) : s.sec.LockStays (runAttestDebugUnlock c s).sec := by
  unfold runAttestDebugUnlock
  refine .ite ?_ ?_
  · rw [State.complete_sec, State.onHw_sec, State.onSec_sec]; exact .of_same
  · rw [State.complete_sec, State.onHw_sec, State.onSec_sec, State.onSec_sec]; exact .of_same

theorem lockStays_runConfigApply (c : Cmd) (s : State) : s.sec.LockStays (runConfigApply c s).sec := by
  unfold runConfigApply
  extract_lets b r l n t u bad v
  have ht : s.sec.LockStays t.sec := by
    refine (Sec.LockStays.of_eq (State.applyBlock_sec s b)).trans ?_
    unfold t
    split
    · exact .of_same
    · exact .refl _
  have hv : v.sec = t.sec := by unfold v; split <;> simp [u]
  rw [State.complete_sec, hv]
  exact ht

theorem runLaunch_sec (c : Cmd) (s : State) : (runLaunch c s).sec = s.sec := by
  unfold runLaunch; dsimp only; split
  · rw [State.wakeDies_sec, State.onHw_sec]
  · rw [State.onHw_sec]
theorem runResume_sec (c : Cmd) (s : State) : (runResume c s).sec = s.sec := by
  unfold runResume; rw [State.wakeDies_sec, State.onHw_sec]
theorem runLatTolDevice_sec (c : Cmd) (s : State) : (runLatTolDevice c s).sec = s.sec := by
  unfold runLatTolDevice; rw [State.complete_sec, State.onPower_sec]
theorem runLatTolRole_sec (c : Cmd) (s : State) : (runLatTolRole c s).sec = s.sec := by
  unfold runLatTolRole; rw [State.complete_sec, State.onPower_sec]
theorem runLatTolContext_sec (c : Cmd) (s : State) : (runLatTolContext c s).sec = s.sec := by
  unfold runLatTolContext; rw [State.complete_sec, State.onHw_sec]
theorem runPwrGrant_sec (c : Cmd) (s : State) : (runPwrGrant c s).sec = s.sec := State.offerGrant_sec ..
theorem runCtrCfg_sec (c : Cmd) (s : State) : (runCtrCfg c s).sec = s.sec := by
  unfold runCtrCfg; dsimp only; split <;> rw [State.complete_sec, State.onHw_sec]
theorem runResetWarm_sec (c : Cmd) (s : State) : (runResetWarm c s).sec = s.sec := by
  unfold runResetWarm; rw [State.complete_sec, State.warm_sec]
theorem runResetDie_sec (c : Cmd) (s : State) : (runResetDie c s).sec = s.sec := State.resetDie_sec ..
theorem runResetLinkPort_sec (c : Cmd) (s : State) : (runResetLinkPort c s).sec = s.sec := State.resetPort_sec ..

/-- No host command undoes a fuse or moves the owner lock. -/
theorem lockStays_runCmd (c : Cmd) (s : State) : s.sec.LockStays (runCmd c s).sec := by
  unfold runCmd
  split
  case h_1 => exact .of_eq (runLaunch_sec ..)
  case h_5 => exact .of_eq (runResume_sec ..)
  case h_19 => exact .of_eq (runLatTolDevice_sec ..)
  case h_20 => exact .of_eq (runLatTolRole_sec ..)
  case h_21 => exact .of_eq (runLatTolContext_sec ..)
  case h_22 => exact .of_eq (runPwrGrant_sec ..)
  case h_23 => exact lockStays_runFwBlock ..
  case h_24 => exact lockStays_runFwCommit ..
  case h_25 => exact lockStays_runFwAbort ..
  case h_26 => exact lockStays_runAttestSpdm ..
  case h_27 => exact lockStays_runAttestDebugUnlock ..
  case h_28 => exact .of_eq (runCtrCfg_sec ..)
  case h_29 => exact lockStays_runConfigApply ..
  case h_30 => exact .of_eq (runResetWarm_sec ..)
  case h_31 => exact .of_eq (runResetDie_sec ..)
  case h_32 => exact .of_eq (runResetLinkPort_sec ..)
  case h_35 => exact .refl _
  all_goals exact .onHw ..

section
variable {run : Run} (hr : ∀ (c : Cmd) (s : State), s.sec.LockStays (run c s).sec)
include hr

theorem State.lockStays_act (c : Cmd) (s : State) : s.sec.LockStays (s.act run c).sec := by
  unfold State.act
  refine .ite (.ite ?_ ?_) (.ite ?_ ?_)
  · rw [State.holdGrant_sec]; exact .onHw ..
  · exact .onHw ..
  · rw [State.complete_sec]; exact .onHw ..
  · exact (Sec.LockStays.onHw ..).trans (hr ..)

theorem State.lockStays_start (id : Nat) (s : State) : s.sec.LockStays (s.start run id).sec := by
  unfold State.start
  split
  · exact .refl _
  · exact .ite (.onHw ..) (.ite (.onHw ..) (.ite (.onHw ..) (.ite (.onHw ..) ((Sec.LockStays.onHw ..).trans (State.lockStays_act hr ..)))))

theorem State.lockStays_admitCmd (q : Fin 64) (w : Word512) (s : State) : s.sec.LockStays (s.admitCmd run q w).sec := by
  unfold State.admitCmd
  exact .ite (.onHw ..) ((Sec.LockStays.onHw ..).trans (State.lockStays_start hr ..))

/-- A host-command row, whatever its command does. -/
theorem lockStays_hostCmd (op form : Nat) (q : Fin 64) (w : Word512) (s : State) : s.sec.LockStays (hostCmd op form run q w s).sec :=
  State.lockStays_admitCmd hr ..

end

theorem State.lockStays_afterValidate (s : State) : s.sec.LockStays s.afterValidate.sec := by
  unfold State.afterValidate
  refine .foldl (fun s id => ?_) _ _
  split
  · exact .refl _
  · exact .ite (.refl _) (.ite (.of_eq (State.complete_sec ..)) (State.lockStays_start lockStays_runCmd ..))

theorem State.lockStays_afterBme (s : State) : s.sec.LockStays s.afterBme.sec :=
  (Sec.LockStays.foldl (fun s id => State.lockStays_start lockStays_runCmd id s) _ _).trans (State.lockStays_afterValidate _)

theorem State.lockStays_afterHandover (s : State) : s.sec.LockStays s.afterHandover.sec := by
  unfold State.afterHandover
  refine .foldl (fun s id => ?_) _ _
  split
  · exact .ite (State.lockStays_act lockStays_runCmd ..) (.refl _)
  · exact .refl _

theorem State.lockStays_fetch (s : State) : s.sec.LockStays s.fetch.sec := by
  unfold State.fetch
  refine .ite (.refl _) ?_
  split
  · exact .refl _
  · exact ((Sec.LockStays.onHw ..).trans (State.lockStays_admitCmd lockStays_runCmd ..)).trans (State.lockStays_afterValidate _)

theorem State.lockStays_fenceRelease (s : State) (q : Fin 64) : s.sec.LockStays (s.fenceRelease q).sec := by
  unfold State.fenceRelease
  refine (Sec.LockStays.foldl (fun s id => ?_) _ _).trans (State.lockStays_afterValidate _)
  split
  · exact .ite (State.lockStays_start lockStays_runCmd ..) (.refl _)
  · exact .refl _

theorem State.lockStays_bmeOn (s : State) : s.sec.LockStays s.bmeOn.sec := by
  unfold State.bmeOn
  exact (((Sec.LockStays.onHw ..).trans (.onHw ..)).trans (.onHw ..)).trans (State.lockStays_afterBme _)

/-! ### Register writes (00:R13, R14) -/

theorem State.ite_sec {c : Prop} [Decidable c] {s a b : State} (ha : a.sec = s.sec) (hb : b.sec = s.sec) :
    (if c then a else b).sec = s.sec := by split <;> assumption

/-- Only the owner lock's own register reaches the security root. -/
theorem State.writeReg_sec (s : State) {o : Nat} (k : Halves) (v : Nat) (other : o ≠ 0x20020) : (s.writeReg o k v).sec = s.sec := by
  unfold State.writeReg
  extract_lets v w
  rw [if_neg other]
  have hw : ∀ f, (s.onHw f).sec = s.sec := State.onHw_sec s
  refine State.ite_sec rfl <| State.ite_sec ?_ <| State.ite_sec (State.writeId_sec ..) <| State.ite_sec rfl <| State.ite_sec (hw _) <|
    State.ite_sec (State.writePwr_sec ..) <| State.ite_sec rfl <| State.ite_sec (hw _) <| State.ite_sec (hw _) <|
    State.ite_sec (State.ite_sec (hw _) rfl) <| State.ite_sec (hw _) rfl
  split
  case h_4 => rfl
  all_goals exact hw _

theorem State.barWrite_sec (s : State) {off : Nat} (wide : Bool) (v : Nat) (other : off / 8 * 8 ≠ 0x20020) :
    (s.barWrite off wide v).sec = s.sec := by
  unfold State.barWrite
  simp only [apply_ite State.sec, State.writeReg_sec s _ _ other, State.onHw_sec, ite_self]

end Sys2Proof.Machine
end

section
namespace Sys2Proof.Machine

/-! ### Every command (21:R443, R449) -/

/-- The commands of the owner lock: its own two, and a write to its register. -/
def SetsLock (c : Instr) : Prop :=
  (∃ v, c = .ownerLockSet v) ∨ (∃ v, c = .ownerLockClear v) ∨ ∃ off wide v, c = .registerWrite off wide v ∧ off / 8 * 8 = 0x20020

/-- The command answers a next state, in which no fuse is undone and the owner lock stays. -/
def Leaves (i : Instr) (s : State) : Prop := ∃ t, exec i s = .next t ∧ s.sec.LockStays t.sec

/-- An answer that leaves the security root as it is. -/
theorem Leaves.of_eq {i : Instr} {s t : State} (e : exec i s = .next t) (h : t.sec = s.sec) : Leaves i s := ⟨t, e, .of_eq h⟩

theorem leaves_spdmRow {i : Instr} {code : Nat} {t : Transport} {r : List Byte} (s : State) (h : spdmRowOf i = some (code, t, r)) :
    Leaves i s := by
  have e : exec i s = .next (s.spdmAnswer t (spdmRow code r)) := by cases i <;> cases h <;> rfl
  exact ⟨_, e, State.lockStays_spdmAnswer ..⟩

theorem leaves_hostRow {i : Instr} {q : Fin 64} (s : State) (h : ringOf i = some q) : Leaves i s := by
  have row : ∀ {op form : Nat} {run : Run} {w : Word512}, exec i s = .next (hostCmd op form run q w s) →
      (∀ (c : Cmd) (s : State), s.sec.LockStays (run c s).sec) → Leaves i s := fun e hr => ⟨_, e, lockStays_hostCmd hr ..⟩
  cases i with
  | launch => cases h; exact row rfl fun c s => .of_eq (runLaunch_sec c s)
  | resume => cases h; exact row rfl fun c s => .of_eq (runResume_sec c s)
  | latTolDevice => cases h; exact row rfl fun c s => .of_eq (runLatTolDevice_sec c s)
  | latTolRole => cases h; exact row rfl fun c s => .of_eq (runLatTolRole_sec c s)
  | latTolContext => cases h; exact row rfl fun c s => .of_eq (runLatTolContext_sec c s)
  | pwrGrant => cases h; exact row rfl fun c s => .of_eq (runPwrGrant_sec c s)
  | fwBlock => cases h; exact row rfl lockStays_runFwBlock
  | fwCommit => cases h; exact row rfl lockStays_runFwCommit
  | fwAbort => cases h; exact row rfl lockStays_runFwAbort
  | attestSpdm => cases h; exact row rfl lockStays_runAttestSpdm
  | attestDebugUnlock => cases h; exact row rfl lockStays_runAttestDebugUnlock
  | ctrCfg => cases h; exact row rfl fun c s => .of_eq (runCtrCfg_sec c s)
  | configApply => cases h; exact row rfl lockStays_runConfigApply
  | resetWarm => cases h; exact row rfl fun c s => .of_eq (runResetWarm_sec c s)
  | resetDie => cases h; exact row rfl fun c s => .of_eq (runResetDie_sec c s)
  | resetLinkPort => cases h; exact row rfl fun c s => .of_eq (runResetLinkPort_sec c s)
  | segmentLoad | preemptImmediate | preemptAtYield | dmaFlat | dmaTransferRecord | mapLeaves | mapTablePointer | unmap | descCreate
  | descDestroy | redSetup | wpTake | wpReserve | wpRelease | wpRestoreHost | wpRestoreBuddy =>
    cases h; exact row rfl fun c s => .onHw ..
  | _ => cases h

/-- Every command but those of the owner lock leaves the fuses and the lock. -/
theorem leaves_of_not_setsLock {i : Instr} (s : State) (h : ¬ SetsLock i) : Leaves i s := by
  cases word : wordDie i with
  | some d =>
    refine .of_eq (exec_word s word) ?_
    rw [State.onHw_sec, State.wakeFor_sec]
  | none =>
  cases host : ringOf i with
  | some q => exact leaves_hostRow s host
  | none =>
  cases spdm : spdmRowOf i with
  | some r => exact leaves_spdmRow s spdm
  | none =>
  cases i with
  | ownerLockSet v => exact absurd (.inl ⟨v, rfl⟩) h
  | ownerLockClear v => exact absurd (.inr (.inl ⟨v, rfl⟩)) h
  | registerWrite off wide v =>
    exact .of_eq rfl (State.barWrite_sec s wide _ fun e => h (.inr (.inr ⟨off, wide, v, rfl, e⟩)))
  -- the power manager
  | mctpGrantSet => exact .of_eq rfl (by simp only [apply_ite State.sec, State.holdGrant_sec, State.offerGrant_sec, State.mctpWake_sec, ite_self])
  | mctpGrantReportRead => exact .of_eq rfl (by simp only [apply_ite State.sec, State.onPower_sec, State.mctpWake_sec, ite_self])
  | grantLapse =>
    exact .of_eq rfl (by simp only [apply_ite State.sec, State.onHw_sec, State.newCeiling_sec, State.onPower_sec, ite_self])
  | powerReport => exact .of_eq rfl (by split <;> simp)
  | powerSample => exact .of_eq rfl (by rw [State.repace_sec, State.onPower_sec, State.setVin_sec])
  | powerWindow => exact .of_eq rfl (State.powerWindow_sec ..)
  | reclaimWindow => exact .of_eq rfl (State.reclaim_sec ..)
  | droopDetect => exact .of_eq rfl (by simp only [apply_ite State.sec, State.onHw_sec, State.onPower_sec, ite_self])
  | droopClear | rampResume | thermalThrottleStep => exact .of_eq rfl (State.onPower_sec ..)
  | thermalSample =>
    exact ⟨_, rfl, .ite ((State.lockStays_thermal ..).trans (State.lockStays_afterHandover _)) (State.lockStays_thermal ..)⟩
  | coolantSample =>
    exact ⟨_, rfl, .ite ((State.lockStays_coolant ..).trans (State.lockStays_afterHandover _)) (State.lockStays_coolant ..)⟩
  | reverseFlowDetect => exact .of_eq rfl (by
      simp only [apply_ite State.sec, State.newCeiling_sec, State.raiseCool_sec, State.onHw_sec, State.onPower_sec, ite_self])
  | forwardFlowRestored => exact .of_eq rfl (by rw [State.newCeiling_sec, State.onPower_sec])
  | powerPhaseFail => exact .of_eq rfl (by rw [State.repace_sec, State.onPower_sec])
  | phaseRebalanceDone => exact .of_eq rfl (by
      simp only [apply_ite State.sec, State.capCodes_sec, State.repace_sec, State.raise_sec, State.onPower_sec, ite_self])
  | idleStateEnter => exact .of_eq rfl (State.ite_sec (State.enterIdle_sec ..) rfl)
  | idleStateWake => exact .of_eq rfl (State.wakeUnit_sec ..)
  -- start-ups, the module's input and resets
  | coldStart => exact ⟨_, rfl, .ite (.refl _) ((State.lockStays_coldBase s).trans (State.lockStays_coldStart ..))⟩
  | inputQualified =>
    exact ⟨_, rfl, .ite (.refl _) ((State.lockStays_coldBase (s.onPower _)).trans (State.lockStays_coldStart ..))⟩
  | efuseRetry => exact ⟨_, rfl, .ite ((State.lockStays_coldBase (s.onMod _)).trans (State.lockStays_coldStart ..)) (.refl _)⟩
  | perstAssert => exact ⟨_, rfl, .ite (.refl _) ((Sec.LockStays.onHw ..).trans (State.lockStays_moduleReset ..))⟩
  | mrstPulse => exact ⟨_, rfl, State.lockStays_moduleReset ..⟩
  | perstDeassert => exact .of_eq rfl (by simp only [apply_ite State.sec, State.setReady_sec, State.onHw_sec, ite_self])
  | configRequestRetry => exact .of_eq rfl rfl
  | dieIdentityTimeout => exact ⟨_, rfl, .ite (State.lockStays_idFailed ..) (.refl _)⟩
  | inputLossEnBreak => exact ⟨_, rfl, .ite (State.lockStays_inputLoss ..) (.refl _)⟩
  | inputVoltageLoss => exact ⟨_, rfl, .ite (State.lockStays_inputLoss (s.onMod _) _) (.refl _)⟩
  | efuseTrip => exact ⟨_, rfl, .ite (State.lockStays_trip s) (.refl _)⟩
  | holdupTest => exact .of_eq rfl (State.ite_sec (State.holdTest_sec ..) rfl)
  | holdUpCharged => exact .of_eq rfl (State.ite_sec (State.onMod_sec ..) rfl)
  | leakDetect => exact .of_eq rfl (by simp only [apply_ite State.sec, State.onHw_sec, State.onMod_sec, ite_self])
  | cablePresenceChange =>
    refine .of_eq rfl (State.ite_sec rfl (State.ite_sec (State.onMod_sec ..) ?_))
    refine (State.foldl_sec (fun t k => ?_) _ _).trans ((State.onHw_sec ..).trans (State.onMod_sec ..))
    exact State.ite_sec (State.ite_sec (State.trainPort_sec ..) rfl) (State.onHw_sec ..)
  | functionLevelReset | hotReset => exact ⟨_, rfl, State.lockStays_pcieReset ..⟩
  | pcieLinkDown => exact ⟨_, rfl, (State.lockStays_pcieReset ..).trans (.onHw ..)⟩
  | d3hotRequest => exact .of_eq rfl (State.ite_sec (State.onHw_sec ..) rfl)
  | pcieLinkTrained => exact .of_eq rfl (by simp only [apply_ite State.sec, State.onHw_sec, ite_self])
  -- the ring engine and the registers
  | commandFetch => exact ⟨_, rfl, State.lockStays_fetch s⟩
  | fenceRelease => exact ⟨_, rfl, State.lockStays_fenceRelease ..⟩
  | busMasterEnableChange => exact ⟨_, rfl, .ite (State.lockStays_bmeOn s) (.onHw ..)⟩
  | submissionDoorbell | consumerDoorbell => exact .of_eq rfl (by rw [State.onHw_sec, State.wakeUnit_sec])
  | szlIdWrite => exact .of_eq rfl (State.writeId_sec ..)
  -- firmware, debug and the responder
  | handoverComplete => exact ⟨_, rfl, .ite ((State.lockStays_handoverDone s).trans (State.lockStays_afterHandover _)) (.refl _)⟩
  | handoverTimeout => exact ⟨_, rfl, .ite ((State.lockStays_handoverFails s).trans (State.lockStays_afterHandover _)) (.refl _)⟩
  | debugNonceRead => exact ⟨_, rfl, .of_same⟩
  | debugRequest => exact ⟨_, rfl, .ite (.refl _) (.trans (.of_eq (State.wakeUnit_sec s .standby)) .of_same)⟩
  | spdmUnsupportedRequest => exact ⟨_, rfl, .ite (.trans (.of_eq (State.wakeUnit_sec s .standby)) .of_same) (.refl _)⟩
  -- links and memory
  | flitReceive => exact .of_eq rfl ((State.onHw_sec ..).trans (State.ite_sec (State.leaveStandby_sec s) rfl))
  | linkSignalFound => exact .of_eq rfl (State.ite_sec (State.onHw_sec ..) rfl)
  | burstReread => exact .of_eq rfl ((State.foldl_sec (fun _ _ => State.wakeDies_sec ..) _ _).trans (State.onHw_sec ..))
  | reductionIssue | reductionCodeFlit | reductionSegmentReceive | reductionSegmentAccepted | reductionRetryRequest | reductionAbortReceive
  | reductionComplete | reductionHoldExpire | ringStoreArrive | remoteSignalArrive | nakReceive | hopTimeout | laneErrorThreshold
  | linkRecoveryTest | channelAbandonNotice | bulkHoldExpire | linkTrainingRetry | linkTrainingDone | linkIdentityReceived | spareTakeoverEnd
  | dmaGranule | dmaTransferComplete | streamItemLanded | smallTransferComplete | mcastTreeFault | mcastForceChain | gmeProductJob
  | gmeRoundDeliver | gmeRoundHandback | gmeBankedDrain | gmeRowScatterAdd | gmeHashDrain | barrierResolve | semWaitResolve | flagResolution
  | skipLimitReached | preemptYieldTimeout | controlWordParityError | wordRedelivered | mxuSelfTestDone | tableLoadHeldRelease
  | bankLoadComplete | contextComplete | dieDrainEnd | contextSaveComplete | faultSlotAcquire | puuUpdate | puuCoefLoad | puuReleaseHold
  | tableLoadValidate | stackOffExit | stackWakeComplete | patrolScrubRead | tileReread | dieSelfTestDone | ringEnable | ringDisable
  | msixTimerExpire | msixVectorUnmask | hazardMonitorEnable | channelBind | channelAbandonClear | barUnsupportedAccess | powerStateD0
  | aerUncorrectableError | waypointDeclarationTaken | waypointCopyStart | waypointSeal | buddyRegionRequest | hostRequestError =>
    exact .of_eq rfl (State.onHw_sec ..)
  | _ => simp [wordDie, ringOf, spdmRowOf] at word host spdm

/-! ### The owner lock's own commands (21:R449) -/

theorem Sec.FusesGrow.of_same {x y : Sec} (banks : y.banks = x.banks := by rfl) (svn : y.svnFuse = x.svnFuse := by rfl)
    (rev : y.keyRev = x.keyRev := by rfl) : x.FusesGrow y :=
  ⟨fun h => h.of_banks banks, fun _ => svn ▸ le_rfl, fun _ h => rev ▸ h⟩

theorem Sec.FusesGrow.ite {c : Prop} [Decidable c] {x : Sec} {a b : State} (ha : x.FusesGrow a.sec) (hb : x.FusesGrow b.sec) :
    x.FusesGrow (if c then a else b).sec := by split <;> assumption

theorem State.writeReg_lock (s : State) (k : Halves) (v : Nat) :
    s.writeReg 0x20020 k v = s.writeLock k (k.merge ((s.reg? 0x20020).getD 0) v) := by
  simp [State.writeReg]

theorem State.fusesGrow_writeLock (s : State) (k : Halves) (v : Nat) : s.sec.FusesGrow (s.writeLock k v).sec := by
  unfold State.writeLock
  refine .ite .of_same (.ite (.ite .of_same ?_) (.ite .of_same (.ite ?_ ?_)))
  · rw [State.onSec_sec]; exact .of_same
  · rw [State.onSec_sec]; exact .of_same
  · rw [State.onHw_sec, State.onSec_sec]; exact .of_same

theorem State.fusesGrow_barWrite (s : State) (off : Nat) (wide : Bool) (v : Nat) (lock : off / 8 * 8 = 0x20020) :
    s.sec.FusesGrow (s.barWrite off wide v).sec := by
  unfold State.barWrite
  rw [lock]
  simp only [State.writeReg_lock]
  have written : ∀ k v, s.sec.FusesGrow (s.writeLock k v).sec := s.fusesGrow_writeLock
  exact .ite (Sec.LockStays.onHw ..).toFusesGrow (.ite (written ..) (.ite (written ..) (written ..)))

/-- No command undoes a fuse. -/
theorem exec_fusesGrow (i : Instr) (s : State) : ∃ t, exec i s = .next t ∧ s.sec.FusesGrow t.sec := by
  by_cases h : SetsLock i
  · obtain ⟨v, rfl⟩ | ⟨v, rfl⟩ | ⟨off, wide, v, rfl, lock⟩ := h
    · exact ⟨_, rfl, .ite .of_same .of_same⟩
    · refine ⟨_, rfl, .ite .of_same (.ite .of_same ?_)⟩
      rw [State.onHw_sec]; exact .of_same
    · exact ⟨_, rfl, s.fusesGrow_barWrite off wide _ lock⟩
  · obtain ⟨t, e, stays⟩ := leaves_of_not_setsLock s h
    exact ⟨t, e, stays.toFusesGrow⟩

/-! ### Every step -/

theorem step_fusesGrow {s t : State} (e : step s = .next t) : s.sec.FusesGrow t.sec := by
  unfold step at e
  split at e
  next c r _ =>
    obtain ⟨u, e', grow⟩ := exec_fusesGrow c { s with pending := r }
    rw [e'] at e
    cases e
    exact grow
  · rw [← Host.Outcome.next.inj e, State.tick_sec]
    exact .of_same

/-- A step that moves the owner lock runs a command of the owner lock. -/
theorem step_setsLock {s t : State} (e : step s = .next t) (moved : t.sec.lock ≠ s.sec.lock ∨ t.sec.key ≠ s.sec.key) :
    ∃ c r, s.pending = c :: r ∧ SetsLock c := by
  unfold step at e
  split at e
  next c r front =>
    refine ⟨c, r, front, ?_⟩
    by_contra h
    obtain ⟨u, e', stays⟩ := leaves_of_not_setsLock { s with pending := r } h
    rw [e'] at e
    cases e
    exact moved.elim (· stays.lock) (· stays.key)
  · rw [← Host.Outcome.next.inj e, State.tick_sec] at moved
    exact (moved.elim (· rfl) (· rfl)).elim

end Sys2Proof.Machine
end

section
namespace Sys2Proof.Machine

/-! ### A command that starts as it is fetched (18:R382-R386) -/

@[simp] theorem State.outstanding_cmds (s : State) (c : Cmd) : (s.outstanding c).hw.host.cmds = s.hw.host.cmds ++ [c] := rfl
@[simp] theorem State.outstanding_sec (s : State) (c : Cmd) : (s.outstanding c).sec = s.sec := State.onHw_sec ..
@[simp] theorem State.taken_sec (s : State) (q : Fin 64) (w : Word512) : (s.taken q w).sec = s.sec := State.onHw_sec ..

/-- The newest command is found by its number. -/
theorem State.cmd?_outstanding {s : State} (num : s.numbered) {c : Cmd} (hc : c.id = s.hw.host.nextCmd) : (s.outstanding c).cmd? c.id = some c := by
  have older : s.hw.host.cmds.find? (fun d => d.id == c.id) = none := by
    rw [List.find?_eq_none]
    intro d hd
    have := num d hd
    simp only [beq_iff_eq]
    omega
  unfold State.cmd? Hw.cmd?
  rw [State.outstanding_cmds, List.find?_append, older]
  simp

/-- An update of the newest command changes that command alone. -/
theorem State.updCmd_outstanding {s : State} (num : s.numbered) {c : Cmd} (hc : c.id = s.hw.host.nextCmd) (f : Cmd → Cmd) :
    (s.outstanding c).updCmd c.id f = s.outstanding (f c) := by
  have older : s.hw.host.cmds.map (fun d => if d.id = c.id then f d else d) = s.hw.host.cmds := by
    refine (List.map_congr_left fun d hd => if_neg ?_).trans (List.map_id _)
    have := num d hd
    omega
  simp only [State.updCmd, State.outstanding, State.onHw, Hw.updCmd, Hw.onHost, Hw.countHub, Hw.count, List.map_append, older, List.map_cons,
    List.map_nil, if_true]

/-- A command of a ring with nothing outstanding starts. -/
theorem State.admitCmd_alone {s : State} {q : Fin 64} (w : Word512) (run : Run) (alone : ∀ c ∈ s.hw.host.cmds, c.q ≠ q) :
    s.admitCmd run q w = (s.outstanding ⟨s.hw.host.nextCmd, q, w, .running, [], .none⟩).start run s.hw.host.nextCmd := by
  have first : s.hw.host.earlier q s.hw.host.nextCmd = [] := by
    rw [HostIf.earlier, List.filter_eq_nil_iff]
    intro c hc
    simp [alone c hc]
  unfold State.admitCmd
  simp only [first, List.isEmpty_nil, List.any_nil, Bool.not_true, Bool.and_false, Bool.or_false, Bool.false_eq_true, if_false]
  rfl

/-- Nothing is still to be validated where every command runs. -/
theorem HostIf.validating_of_settled {x : HostIf} (h : ∀ c ∈ x.cmds, c.wait = .running) (num : BitVec 16) : x.validating num = false := by
  rw [HostIf.validating, List.any_eq_false]
  intro c hc
  simp [h c hc]

/-- A valid command whose argument block can be read acts with it. -/
theorem State.start_starts {s : State} {q : Fin 64} {w : Word512} (run : Run) (st : Starts s q w) :
    (s.outstanding ⟨s.hw.host.nextCmd, q, w, .running, [], .none⟩).start run s.hw.host.nextCmd = (s.taken q w).act run (s.nextCmd q w) := by
  generalize hc : (⟨s.hw.host.nextCmd, q, w, .running, [], .none⟩ : Cmd) = c
  have id : c.id = s.hw.host.nextCmd := hc ▸ rfl
  have word : c.w = w := hc ▸ rfl
  have settled : (s.outstanding c).hw.host.validating (cmCtx w) = false :=
    HostIf.validating_of_settled (fun d hd => (List.mem_append.1 hd).elim (st.settled d) fun e => by rw [List.mem_singleton.1 e, ← hc]) _
  have bus : (s.outstanding c).hw.host.bme = true := st.bus
  have valid : (s.outstanding c).hw.cmReason w (s.argOf w) = 0 := st.valid
  have args : (if ((cmShape w).map (·.arg)).getD 0 = 0 then [] else
      (s.outstanding c).hw.host.mem.readN (cmArg w) (((cmShape w).map (·.arg)).getD 0)) = s.argOf w := rfl
  have read : (s.outstanding c).updCmd c.id (fun d => { d with arg := s.argOf w }) = s.taken q w := by
    rw [State.updCmd_outstanding st.numbered id, ← hc]; rfl
  unfold State.start
  rw [← id, State.cmd?_outstanding st.numbered id]
  dsimp only
  rw [word, if_neg (by simp [st.static]), if_neg (by simp [bus]), if_neg (by simp [settled])]
  rw [args, if_neg (not_not.2 valid), read, ← hc]
  rfl

/-- A command for which `Starts` holds acts at once, whatever its row does. -/
theorem State.admitCmd_starts {s : State} {q : Fin 64} {w : Word512} (run : Run) (st : Starts s q w) :
    s.admitCmd run q w = run (s.nextCmd q w) (s.taken q w) := by
  have calm : (s.taken q w).mgmtWaits w = false := by
    have serving : (s.taken q w).hw.host.handover = false := st.serving
    simp only [State.mgmtWaits, serving, State.taken_sec, Bool.false_or, Bool.and_eq_false_iff, Bool.or_eq_false_iff, beq_eq_false_iff_ne]
    exact .inr (.inr st.still)
  rw [State.admitCmd_alone w run st.alone, State.start_starts run st]
  unfold State.act
  rw [if_neg (by simp [State.nextCmd, calm]), if_neg (by simp [st.normal]), State.taken, State.updCmd_outstanding st.numbered rfl]
  rfl

end Sys2Proof.Machine
end

section
namespace Sys2Proof.Machine

/-! ### Refusals by the security root (21 Table 21-6) -/

/-- A condition of the hub in the state that a command has been taken in. -/
theorem State.onlyTaken_raiseHub (s : State) (q : Fin 64) (w : Word512) (code eng a b : Nat) :
    OnlyTaken s ((s.taken q w).onHw fun h => h.raiseHub code eng a b) q w 1 where
  same := ⟨State.onHw_pending .., State.onHw_power .., (State.onHw_sec ..).trans (State.taken_sec ..)⟩
  cmds := by
    have kept : (((s.taken q w).hw.raiseHub code eng a b).host).cmds = (s.taken q w).hw.host.cmds := by
      have := congrArg Prod.fst (HostIf.raise_steady (s.taken q w).hw.host ⟨code, 99, 0xFF, eng, a, b, none⟩)
      rw [Hw.raiseHub, Hw.raise_host]; exact this
    rw [State.onHw_hw, kept, State.taken, State.outstanding_cmds, List.map_append]
    rfl
  chip := (Hw.raiseHub_chip ..).trans rfl
  links := (Hw.raiseHub_links ..).trans rfl
  seq := by rw [State.onHw_hw, Hw.raiseHub, Hw.raise_host, HostIf.raise_seq]; rfl

/-- With the owner lock set no block is accepted (21:R449). -/
theorem Sec.blockReason_locked {x : Sec} (h : x.lock = true) (i : Nat) (d : List Byte) : x.blockReason i d ≠ 0 := by
  unfold Sec.blockReason
  simp only [h, if_true]
  split
  · split_ifs <;> decide
  · split
    · decide
    · split
      · decide
      · split
        · decide
        · split <;> decide

/-- With the owner lock set no commit is accepted. -/
theorem State.commitReason_locked {s : State} (h : s.sec.lock = true) : s.commitReason ≠ 0 := by
  unfold State.commitReason
  dsimp only
  split_ifs <;> simp

/-- With the owner lock set no debug token is accepted. -/
theorem State.tokenReason_locked {s : State} (h : s.sec.lock = true) (t : List Byte) : s.tokenReason t ≠ 0 := by
  unfold State.tokenReason
  simp only [h, Bool.or_true, if_true]
  split_ifs <;> simp

theorem State.commitReason_svn {s : State} {b : List Byte} (staged : s.sec.staged = some b) (h : fhSvn b < s.sec.svnFuse.toNat) :
    s.commitReason = 4 := by
  unfold State.commitReason
  simp [staged, h]

/-! ### FW_BLOCK, FW_COMMIT and ATTEST_DEBUG_UNLOCK as they start (21:R440, R444, R445) -/

theorem runFwBlock_refused {c : Cmd} {s : State} (h : s.sec.blockReason (fld c.w 383 372) (bytesAt c.arg 0 4096) ≠ 0) :
    runFwBlock c s = (s.onHw fun x => x.raiseHub 0x1203 0x66 (s.sec.blockReason (fld c.w 383 372) (bytesAt c.arg 0 4096)) (fld c.w 383 372)).complete
      c.id (refusal (s.sec.blockReason (fld c.w 383 372) (bytesAt c.arg 0 4096)) 0x1203) := if_pos h

theorem runFwCommit_refused {c : Cmd} {s : State} (h : s.commitReason ≠ 0) : runFwCommit c s = s.refuseCommit c.id s.commitReason := if_pos h

/-- A token uses the nonce up, refused or not (21:R440). -/
theorem runAttestDebugUnlock_refused {c : Cmd} {s : State} (h : s.tokenReason c.arg ≠ 0) :
    runAttestDebugUnlock c s = ((s.onSec fun x => { x with lastNonce := none, draws := x.draws + 1 }).onHw fun x =>
      x.raiseHub 0x1207 0x65 (s.tokenReason c.arg)).complete c.id (refusal (s.tokenReason c.arg) 0x1207) := if_pos h

section
variable {s : State} {q : Fin 64} {w0 : Word512}

theorem exec_fwBlock (st : Starts s q (rowBits (.fwBlock q w0))) : exec (.fwBlock q w0) s =
    .next (runFwBlock (s.nextCmd q (rowBits (.fwBlock q w0))) (s.taken q (rowBits (.fwBlock q w0)))) :=
  congrArg Host.Outcome.next (State.admitCmd_starts runFwBlock st)

theorem exec_fwCommit (st : Starts s q (rowBits (.fwCommit q w0))) : exec (.fwCommit q w0) s =
    .next (runFwCommit (s.nextCmd q (rowBits (.fwCommit q w0))) (s.taken q (rowBits (.fwCommit q w0)))) :=
  congrArg Host.Outcome.next (State.admitCmd_starts runFwCommit st)

theorem exec_attestDebugUnlock (st : Starts s q (rowBits (.attestDebugUnlock q w0))) : exec (.attestDebugUnlock q w0) s =
    .next (runAttestDebugUnlock (s.nextCmd q (rowBits (.attestDebugUnlock q w0))) (s.taken q (rowBits (.attestDebugUnlock q w0)))) :=
  congrArg Host.Outcome.next (State.admitCmd_starts runAttestDebugUnlock st)

/-- A block that the security root does not accept changes nothing but the condition (21 Table 21-6). -/
theorem refuses_fwBlock (st : Starts s q (rowBits (.fwBlock q w0))) {r : Nat}
    (hr : s.sec.blockReason (fld (rowBits (.fwBlock q w0)) 383 372) (bytesAt (s.argOf (rowBits (.fwBlock q w0))) 0 4096) = r) (h : r ≠ 0) :
    Refuses (.fwBlock q w0) q s ⟨6, r, 0x1203, 0⟩ 1 := by
  subst hr
  exact ⟨_, (exec_fwBlock st).trans (congrArg Host.Outcome.next (runFwBlock_refused h)), State.onlyTaken_raiseHub ..⟩

/-- A commit that is not accepted changes nothing but the condition. -/
theorem refuses_fwCommit (st : Starts s q (rowBits (.fwCommit q w0))) {r : Nat} (hr : (s.taken q (rowBits (.fwCommit q w0))).commitReason = r)
    (h : r ≠ 0) : Refuses (.fwCommit q w0) q s ⟨6, r, 0x1204, 0⟩ 1 := by
  subst hr
  exact ⟨_, (exec_fwCommit st).trans (congrArg Host.Outcome.next (runFwCommit_refused h)), State.onlyTaken_raiseHub ..⟩

/-- With the lock set the three commands are refused, and the security root is as before but for the nonce that a token uses up (21:R449). -/
theorem refused_of_locked {i : Instr} (row : i = .fwBlock q w0 ∨ i = .fwCommit q w0 ∨ i = .attestDebugUnlock q w0) (lock : s.sec.lock = true)
    (st : Starts s q (rowBits i)) : ∃ (u : State) (r c : Nat), exec i s = .next (u.complete s.hw.host.nextCmd ⟨6, r, c, 0⟩) ∧
      (c = 0x1203 ∨ c = 0x1204 ∨ c = 0x1207) ∧ u.sec = { s.sec with lastNonce := u.sec.lastNonce, draws := u.sec.draws } := by
  have taken : ∀ w, (s.taken q w).sec.lock = true := fun w => by rw [State.taken_sec, lock]
  obtain rfl | rfl | rfl := row
  · obtain ⟨u, e, only⟩ := refuses_fwBlock st rfl (Sec.blockReason_locked lock _ _)
    exact ⟨u, _, _, e, .inl rfl, by rw [only.same.2.2]⟩
  · obtain ⟨u, e, only⟩ := refuses_fwCommit st rfl (State.commitReason_locked (taken _))
    exact ⟨u, _, _, e, .inr (.inl rfl), by rw [only.same.2.2]⟩
  · have refused (c : Cmd) (w : Word512) := runAttestDebugUnlock_refused (State.tokenReason_locked (taken w) c.arg)
    refine ⟨_, _, _, (exec_attestDebugUnlock st).trans (congrArg Host.Outcome.next (refused _ _)), .inr (.inr rfl), ?_⟩
    rw [State.onHw_sec, State.onSec_sec, State.taken_sec]

end

/-! ### The register of the owner lock (21 Table 21-7) -/

/-- A whole write to HUB_FW_LOCK is one of the lock's own commands. -/
theorem exec_writeLock (s : State) (v : Word64) :
    exec (.registerWrite 0x20020 true v) s = exec (if bit v 63 then .ownerLockSet v else .ownerLockClear v) s := by
  have there : (s.reg? 0x20020).isNone = false := by simp [State.reg?, Sec.read]
  have whole : ∀ old, Halves.merge ⟨true, true⟩ old v.toNat = v.toNat := fun old => by
    have := v.isLt
    simp only [Halves.merge, if_true]
    omega
  have written : s.barWrite 0x20020 true v.toNat = s.writeLock ⟨true, true⟩ v.toNat := by
    simp [State.barWrite, there, State.writeReg_lock, whole]
  refine (congrArg Host.Outcome.next written).trans ?_
  have set : v.toNat.testBit 63 = bit v 63 := rfl
  unfold State.writeLock
  rw [set]
  cases bit v 63 <;> rfl

theorem exec_ownerLockSet (v : Word64) (s : State) : exec (.ownerLockSet v) s =
    .next (if s.sec.lock then s else { s with sec := { s.sec with lock := true, key := BitVec.ofNat 32 (fld v 47 16) } }) := rfl

section
variable {s : State} {v : Word64} (lock : s.sec.lock = true) (left : s.sec.fails ≠ 15)
include lock left

/-- A clear of a lock that is set and has failures left goes by its key. -/
theorem exec_ownerLockClear_set : exec (.ownerLockClear v) s =
    .next (if BitVec.ofNat 32 (fld v 47 16) = s.sec.key then s.onSec fun x => { x with lock := false }
      else (s.onSec fun x => { x with fails := x.fails + 1 }).onHw fun h => h.raiseHub 0x120A 0x65) :=
  congrArg Host.Outcome.next (if_neg (by simpa [lock] using left))

end

/-- A cold start forgets the failures, and none of its steps counts one. -/
theorem State.coldStart_fails (s : State) (u : StartUp) : (s.coldStart u).sec.fails = 0 :=
  (s.lockStays_coldStart u).fails.elim id id

end Sys2Proof.Machine

open Sys2Proof Sys2Proof.Machine

/-- Settles O50: no fuse is undone, by the step's frame over every command; the refusals are the checks of Table 21-6 and of the boot. -/
theorem fuses : Obligations.Fuses := by
  refine ⟨fun s t inv e => ?_, ?_, ?_, ?_⟩
  · have grow := step_fusesGrow e
    exact ⟨grow.svn inv.svn, fun k _ => grow.rev k⟩
  · rintro q w0 s w rfl st first d bar
    have refused : s.sec.blockReason (fld (rowBits (.fwBlock q w0)) 383 372) d ≠ 0 := by
      rw [first]
      intro zero
      obtain ⟨-, key, svn⟩ := Sec.accepted_of_blockReason zero
      rcases bar with lower | revoked
      · omega
      · simp [Sec.keyBad, revoked] at key
    exact ⟨_, refused, refuses_fwBlock st rfl refused⟩
  · rintro q w0 s w b rfl st staged lower
    have reason : (s.taken q (rowBits (.fwCommit q w0))).commitReason = 4 :=
      State.commitReason_svn (by rw [State.taken_sec, staged]) (by rw [State.taken_sec]; exact lower)
    exact refuses_fwCommit st reason (by decide)
  · intro x u i b image lower
    simp [Sec.bootable, image, lower]

/-- Settles O52: every command but the lock's own leaves the lock. -/
theorem ownerLock : Obligations.OwnerLock := by
  intro s x
  refine ⟨fun v => ?_, ?_, ?_, ?_⟩
  · refine ⟨exec_writeLock s v, exec_ownerLockSet v s, fun h => ?_, fun lock left same => ?_, fun lock left other => ?_⟩
    · exact congrArg Host.Outcome.next (if_pos (by simpa using h))
    · exact (exec_ownerLockClear_set lock left).trans (congrArg Host.Outcome.next (if_pos same))
    · exact (exec_ownerLockClear_set lock left).trans (congrArg Host.Outcome.next (if_neg other))
  · exact fun u out => ⟨_, congrArg Host.Outcome.next (if_neg (by simpa using out)), State.coldStart_fails s u⟩
  · exact fun q w0 i row lock st => refused_of_locked row lock st
  · exact fun t e moved => step_setsLock e moved
end

section
namespace Sys2Proof.Machine

/-! ### What the setpoints and a thermal shutdown leave (19:R399, R405) -/

/-- What the ceiling and the coolant own of the power manager stays: the grant with its ceiling, the module's sensors, and the reversed-flow limit. -/
structure Power.CoolStays (p q : Power) : Prop where
  grant : q.grant = p.grant
  mod : q.mod = p.mod
  revLimit : q.revLimit = p.revLimit

theorem Power.CoolStays.trans {p q r : Power} (a : p.CoolStays q) (b : q.CoolStays r) : p.CoolStays r :=
  ⟨b.grant.trans a.grant, b.mod.trans a.mod, b.revLimit.trans a.revLimit⟩

theorem Power.coolStays_updDie (p : Power) (n : Nat) (f : PwrDie → PwrDie) : p.CoolStays (p.updDie n f) := ⟨rfl, rfl, rfl⟩

/-- From `s` to `t` no command is taken, the security root stays, and so does what the ceiling and the coolant own. -/
structure State.CoolStays (s t : State) : Prop where
  pending : t.pending = s.pending
  sec : t.sec = s.sec
  power : s.power.CoolStays t.power

theorem State.CoolStays.refl (s : State) : s.CoolStays s := ⟨rfl, rfl, rfl, rfl, rfl⟩

theorem State.CoolStays.trans {s t u : State} (a : s.CoolStays t) (b : t.CoolStays u) : s.CoolStays u :=
  ⟨b.pending.trans a.pending, b.sec.trans a.sec, a.power.trans b.power⟩

theorem State.CoolStays.ite {s t u : State} {c : Prop} [Decidable c] (a : s.CoolStays t) (b : s.CoolStays u) : s.CoolStays (if c then t else u) := by
  split <;> assumption

section
variable {s t : State} (a : s.CoolStays t)
include a

theorem State.CoolStays.onHw {f : Hw → Hw} : s.CoolStays (t.onHw f) := a.trans ⟨rfl, rfl, rfl, rfl, rfl⟩

theorem State.CoolStays.onPower {f : Power → Power} (h : t.power.CoolStays (f t.power)) : s.CoolStays (t.onPower f) := a.trans ⟨rfl, rfl, h⟩

/-- Setpoints are capped die by die. -/
theorem State.CoolStays.capCodes : s.CoolStays t.capCodes := by
  refine a.onPower (List.foldlRecOn _ _ (motive := t.power.CoolStays) ⟨rfl, rfl, rfl⟩ fun p stays n _ => ?_)
  dsimp only
  generalize (if t.hw.occupied n then p.target n else 0) = code
  split
  · exact stays.trans (Power.coolStays_updDie ..)
  · exact stays

theorem State.CoolStays.repace : s.CoolStays t.repace := a.onPower ⟨rfl, rfl, rfl⟩

theorem State.CoolStays.shutOffDies : s.CoolStays t.shutOffDies := by
  unfold State.shutOffDies
  exact .repace (.onPower (.onHw (.onHw a)) ⟨rfl, rfl, rfl⟩)

theorem State.CoolStays.shutdownStep : s.CoolStays t.shutdownStep := .ite a (.ite a.shutOffDies a.onHw)

theorem State.CoolStays.shutdownEnd : s.CoolStays t.shutdownEnd := by
  unfold State.shutdownEnd
  exact .ite a (.onHw (.onHw (.onHw (.onPower a ⟨rfl, rfl, rfl⟩))))

end

@[simp] theorem Hw.raise_handover (h : Hw) (c : Cond) : (h.raise c).host.handover = h.host.handover := by
  have steady := HostIf.raise_steady h.host c
  simp only [HostIf.steady, Prod.mk.injEq] at steady
  obtain ⟨-, -, -, -, handover, -⟩ := steady
  rw [Hw.raise_host, handover]

/-- Where no handover runs, none fails. -/
theorem State.handoverFails_serving {s : State} (serving : s.hw.host.handover = false) : s.handoverFails = s :=
  if_pos (by simp [serving])

/-- A shutdown that begins outside a handover checks no held grant. -/
theorem State.CoolStays.shutdownBegin {s t : State} (a : s.CoolStays t) (serving : t.hw.host.handover = false) (die : Nat) :
    s.CoolStays (t.shutdownBegin die) := by
  unfold State.shutdownBegin
  dsimp only
  rw [State.handoverFails_serving ((Hw.raise_handover ..).trans serving)]
  exact .ite a (.shutdownStep (.repace (.capCodes (.onPower (.onHw (.onHw a)) ⟨rfl, rfl, rfl⟩))))

/-! ### A new ceiling (19:R398) -/

/-- The power manager with the ceiling that now holds. -/
def Power.reckoned (p : Power) : Power := { p with grant := { p.grant with ceil := BitVec.ofNat 16 p.ceiling } }

/-- A new ceiling is reckoned; else only setpoints move. -/
theorem State.coolStays_newCeiling (s : State) : (s.onPower Power.reckoned).CoolStays s.newCeiling := (State.CoolStays.refl _).capCodes

/-- The hardware does not enter into the ceiling. -/
theorem State.coolStays_onHw_newCeiling (s : State) (f : Hw → Hw) : (s.onPower Power.reckoned).CoolStays (s.onHw f).newCeiling :=
  (State.CoolStays.refl _).onHw.trans (s.onHw f).coolStays_newCeiling

@[simp] theorem State.capCodes_hw (s : State) : s.capCodes.hw = s.hw := State.onPower_hw ..
@[simp] theorem State.newCeiling_hw (s : State) : s.newCeiling.hw = s.hw := by simp [State.newCeiling]

/-! ### The coolant's limit and its sensors (19:R406, 24:R482) -/

/-- No row of Table 19-7 allows less than reversed flow does. -/
theorem Power.coolLimit_reversed {p : Power} (rev : p.revLimit = true) : p.coolLimit = some 800 := by
  unfold Power.coolLimit
  rw [rev]
  cases p.cool <;> rfl

theorem Power.coolLimit_forward {p : Power} (fwd : p.revLimit = false) : p.coolLimit = p.cool.limit := by
  unfold Power.coolLimit
  rw [fwd]
  cases p.cool <;> rfl

/-- The ceiling under a limit of the coolant. -/
def Power.ceilingUnder (p : Power) (limit : Option Nat) : Nat :=
  min (min p.grant.grant.toNat 4200) (min (limit.getD 4200) (p.vinLimit.getD 4200))

theorem Power.reckoned_ceil {p : Power} {limit : Option Nat} (h : p.coolLimit = limit) :
    p.reckoned.grant.ceil = BitVec.ofNat 16 (p.ceilingUnder limit) := h ▸ rfl

/-- The power manager after a reading of the coolant: the row, the temperatures at the two ends, the flow. -/
def Power.coolRead (p : Power) (inlet outlet : Int) (flow : Nat) : Power :=
  let ends := if p.mod.revflow then (tempByte outlet, tempByte inlet) else (tempByte inlet, tempByte outlet)
  { p with cool := coolRow inlet flow, mod := { p.mod with tj2 := ends.1, tj3 := ends.2, flow := BitVec.ofNat 8 (min 255 flow) } }

/-- With reversed flow the inlet is at J3 and the outlet at J2. -/
theorem Power.coolRead_reversed {p : Power} (rev : p.mod.revflow = true) (inlet outlet : Int) (flow : Nat) :
    (p.coolRead inlet outlet flow).mod.tj3 = tempByte inlet ∧ (p.coolRead inlet outlet flow).mod.tj2 = tempByte outlet := by
  unfold Power.coolRead
  rw [if_pos rev]
  exact ⟨rfl, rfl⟩

/-- A sample is its reading and the new ceiling: neither the report of the row nor a shutdown that begins or ends changes what they set. -/
theorem State.coolStays_coolant {s : State} (serving : s.hw.host.handover = false) (inlet outlet : Int) (flow : Nat) :
    ((s.onPower (·.coolRead inlet outlet flow)).onPower Power.reckoned).CoolStays (s.coolant inlet outlet flow) := by
  unfold State.coolant
  extract_lets row enter read told full
  obtain ⟨f, told_eq, host⟩ : ∃ f, told = (s.onPower (·.coolRead inlet outlet flow)).onHw f ∧ told.hw.host.handover = false := by
    unfold told
    split
    · exact ⟨_, rfl, (Hw.raise_handover ..).trans serving⟩
    · exact ⟨id, rfl, serving⟩
  have full_stays : ((s.onPower (·.coolRead inlet outlet flow)).onPower Power.reckoned).CoolStays full := by
    unfold full
    rw [told_eq]
    exact State.coolStays_onHw_newCeiling ..
  exact .ite (full_stays.shutdownBegin (by rw [State.newCeiling_hw, host]) 99) full_stays.shutdownEnd

theorem exec_coolantSample {s : State} (serving : s.hw.host.handover = false) (inlet outlet : Int) (flow : Nat) (rev : Bool) :
    exec (.coolantSample inlet outlet flow rev) s = .next (s.coolant inlet outlet flow) :=
  congrArg Host.Outcome.next (if_neg (by simp [serving]))

/-- Reversed flow sets REVFLOW and its limit; forward flow ends both. -/
def Power.turned (p : Power) (rev : Bool) : Power := { p with revLimit := rev, mod := { p.mod with revflow := rev } }

theorem State.onHw_onHw (s : State) (f g : Hw → Hw) : (s.onHw f).onHw g = s.onHw fun h => g (f h) := rfl

/-- Reversed flow is found and reported, and so is the limit it sets. -/
def Hw.reportReversed (h : Hw) : Hw := (h.raiseHub 0x1404 0x63).raiseHub 0x1006 0x63 800

theorem exec_reverseFlowDetect {s : State} (fwd : s.power.mod.revflow = false) :
    exec .reverseFlowDetect s = .next ((s.onPower (·.turned true)).onHw Hw.reportReversed).newCeiling := by
  have limit : (s.power.turned true).coolLimit = some 800 := Power.coolLimit_reversed rfl
  have reported : ((s.onPower (·.turned true)).onHw fun h => h.raiseHub 0x1404 0x63).raiseCool =
      (s.onPower (·.turned true)).onHw Hw.reportReversed := by
    unfold State.raiseCool
    rw [State.onHw_power, State.onPower_power, limit, Option.getD_some, State.onHw_onHw]
    rfl
  rw [← reported]
  exact congrArg Host.Outcome.next (if_neg (by simp [fwd]))

theorem exec_forwardFlowRestored (s : State) : exec .forwardFlowRestored s = .next (s.onPower (·.turned false)).newCeiling := rfl

end Sys2Proof.Machine

open Sys2Proof Sys2Proof.Machine

/-- Settles O48: every command of the flow ends in a new ceiling, under the limit that `Power.coolLimit_reversed` or `Power.coolLimit_forward` gives.
That a detection with REVFLOW set does nothing is the model's choice (log 17); a sample's direction operand acts only through the detection (log 47). -/
theorem reverseFlow : Obligations.ReverseFlow := by
  intro s
  refine ⟨fun rev => ?again, fun fwd => ?detected, fun rev serving inlet outlet flow sign => ?sample, ?restored⟩
  case again => exact congrArg Host.Outcome.next (if_pos rev)
  case detected =>
    obtain ⟨pending, sec, grant, mod, revLimit⟩ := (s.onPower (·.turned true)).coolStays_onHw_newCeiling Hw.reportReversed
    refine ⟨_, exec_reverseFlowDetect fwd, ⟨pending, sec⟩, revLimit, mod, ?ceil, ?report⟩
    case ceil =>
      rw [grant]
      exact Power.reckoned_ceil (Power.coolLimit_reversed rfl)
    case report => rw [State.newCeiling_hw, State.onHw_hw, State.onPower_hw, Hw.reportReversed]
  case sample =>
    obtain ⟨pending, sec, grant, mod, -⟩ := State.coolStays_coolant serving inlet outlet flow
    obtain ⟨j3, j2⟩ := Power.coolRead_reversed rev inlet outlet flow
    refine ⟨_, exec_coolantSample serving inlet outlet flow sign, ⟨pending, sec⟩, ?inlet, ?outlet, fun limited => ?ceil⟩
    case inlet => rw [mod]; exact j3
    case outlet => rw [mod]; exact j2
    case ceil =>
      rw [grant]
      exact Power.reckoned_ceil (Power.coolLimit_reversed limited)
  case restored =>
    obtain ⟨pending, sec, grant, mod, revLimit⟩ := (s.onPower (·.turned false)).coolStays_newCeiling
    refine ⟨_, exec_forwardFlowRestored s, ⟨pending, sec⟩, State.newCeiling_hw _, revLimit, mod, ?ceil⟩
    rw [grant]
    refine Power.reckoned_ceil ((Power.coolLimit_forward rfl).trans ?row)
    change s.power.cool.limit = _
    cases s.power.cool <;> rfl
end
